-- ==== Sys2Proof/Word.lean ====
section
/-! DEFINITION. The machine's word types and the plainest arithmetic on them (spec/00 R2: bit 0 is the least significant,
multi-byte values are little-endian). -/

namespace Sys2Proof

/-- A 64-bit scalar register or control register (R4). -/
abbrev Word := BitVec 64

/-- One byte. -/
abbrev Byte := BitVec 8

/-- The bits of one vector register or queue entry, 2,048 bytes, byte 0 least significant (R22, R47). -/
abbrev VReg := BitVec 16384

/-- The bits of one mask register, element 0 least significant (R57). -/
abbrev Mask := BitVec 2048

/-- The sticky flags in the order of `fsts` (R87). -/
abbrev Flags := BitVec 8

/-- A register number of an instruction word. -/
abbrev Reg := BitVec 5

end Sys2Proof
end

