-- ==== Sys2Proof/Syntax.lean ====
section
/-! DEFINITION. The syntax of the K640: one constructor for every row of spec/opcode_table.json. The first 244 have a 32-bit
word (spec/23 R278-R290); the last 53 are the part's events (spec/95), which have no word and whose arguments are what the
acting agent or the outside brings. Each constructor's comment names its rules. -/

namespace Sys2Proof

/-- The two harts of a braid (R7). -/
inductive Hart where
  | A
  | X
deriving DecidableEq, Repr

/-- A vector destination: a register, or a store queue with qd = 1 (R279, R288). -/
inductive Dst where
  | v (r : Reg)
  | sq (q : BitVec 2)
deriving DecidableEq, Repr

/-- A last vector source: a register, or a load-queue head with qb = 1 (R279, R288). -/
inductive Src where
  | v (r : Reg)
  | lq (q : BitVec 2)
deriving DecidableEq, Repr

/-- The ordering bits, scope and width of an `amo` (R132): `w` selects 4 bytes. -/
structure AmoMod where
  aq : Bool
  rl : Bool
  scope : BitVec 3
  w : Bool
deriving DecidableEq, Repr

/-- What a start of the module finds (R261-R263, R15, R18): whether every step succeeded, the member number if a Stavrek link
trained, the ports that trained, the physical quad behind each logical quad, and whether the expanders kept their contents. -/
structure StartReport where
  ok : Bool
  member : Option (BitVec 8)
  ports : BitVec 16
  remap : List Nat
  expanders : Bool
deriving DecidableEq, Repr

/-- What a power trim narrows or restores (R21): the lane budget of a core or the slice budget of a quad. -/
inductive TrimUnit where
  | core (n : Nat)
  | quad (n : Nat)
deriving DecidableEq, Repr

/-- Where an uncorrectable error is found (R253, R356): in an 8-byte word of memory (its key div 8), or at the read of a register array,
release buffer, checkpoint or forwarded value of a hart, where the part raises cause 7 with an `eei`, or a health event. -/
inductive ErrorUnit where
  | memory (w : Nat)
  | array (b : Nat) (h : Hart) (asTrap : Bool) (eei : Word)
deriving DecidableEq, Repr

/-- The raw ageing indicators (R265): ring-oscillator drift of the 16 die quadrants, eye margin of every SerDes lane (R11, R18: 8 of each of
16 Stavrek ports, then 16 of each of 32 CXL ports), retention margin of the 4 stacks. The spec gives their readings no form: they are kept
as reported (log entry 12). -/
structure Ageing where
  drift : Vector Nat 16
  eye : Vector Nat 640
  retention : Vector Nat 4
deriving DecidableEq, Repr

/-- What firmware makes of its samples (R265): the predicted end of life in months, and the indicators. -/
structure AgeingReport where
  months : BitVec 16
  raw : Ageing
deriving DecidableEq, Repr

/-- An element in the fabric space that reaches this module as its owner (R217-R219): the sender's rank, the operation
(`cop` as the sender holds it), type and size, address, data, the chunk size, the group's flags and members, the status base,
and the translation context it is performed in. -/
structure FabElem where
  rank : Nat
  op : BitVec 3
  ty : BitVec 5
  size : Nat
  va : Word
  data : Nat
  stride : Nat
  arr : Bool
  w64 : Bool
  status : Word
  members : List Nat
  root : Word
  asn : BitVec 16
deriving DecidableEq, Repr

/-- The instructions and events of the part. -/
inductive Instr where
  -- R298
  | add (d a b : Reg)
  | sub (d a b : Reg)
  | mul (d a b : Reg)
  | mulh (d a b : Reg)
  | mulhn (d a b : Reg)
  | div (d a b : Reg)
  | divn (d a b : Reg)
  | rem (d a b : Reg)
  | remn (d a b : Reg)
  | and (d a b : Reg)
  | or (d a b : Reg)
  | xor (d a b : Reg)
  | shl (d a b : Reg)
  | shr (d a b : Reg)
  | sar (d a b : Reg)
  | min (d a b : Reg)
  | max (d a b : Reg)
  | minn (d a b : Reg)
  | maxn (d a b : Reg)
  | seq (d a b : Reg)
  | sne (d a b : Reg)
  | slt (d a b : Reg)
  | sltn (d a b : Reg)
  | clz (d a : Reg)
  | ctz (d a : Reg)
  | pop (d a : Reg)
  -- R299
  | addi (d a : Reg) (i : BitVec 16)
  | andi (d a : Reg) (i : BitVec 16)
  | ori (d a : Reg) (i : BitVec 16)
  | xori (d a : Reg) (i : BitVec 16)
  | shli (d a : Reg) (n : BitVec 6)
  | shri (d a : Reg) (n : BitVec 6)
  | sari (d a : Reg) (n : BitVec 6)
  | lhi (d a : Reg) (i : BitVec 16)
  | slti (d a : Reg) (i : BitVec 16)
  -- R314
  | ld (d a : Reg) (z : BitVec 3) (o : BitVec 13)
  | st (s a : Reg) (z : BitVec 3) (o : BitVec 13)
  -- R302
  | beq (a b : Reg) (o : BitVec 16)
  | bne (a b : Reg) (o : BitVec 16)
  | blt (a b : Reg) (o : BitVec 16)
  | bge (a b : Reg) (o : BitVec 16)
  | bltn (a b : Reg) (o : BitVec 16)
  | bgen (a b : Reg) (o : BitVec 16)
  -- R310
  | jmp (o : BitVec 26)
  | jal (o : BitVec 26)
  | jr (a : Reg)
  -- R313
  | tsend (a : Reg)
  | trecv (d : Reg)
  | ksend (k : BitVec 4)
  -- R304
  | bqt (o : BitVec 16)
  | bqf (o : BitVec 16)
  -- R50
  | setvl (d a t : Reg)
  -- R53
  | setvls (d a s t : Reg)
  -- R55
  | setmt (a : Reg)
  -- R339
  | vld (q : BitVec 2) (a : Reg) (m : Bool)
  | vlds (q : BitVec 2) (a s : Reg) (m : Bool)
  -- R187
  | vldx (q : BitVec 2) (a : Reg) (i : BitVec 2) (m : Bool) (g : BitVec 3)
  -- R185, R340
  | vldz (q : BitVec 2) (a : Reg) (m : Bool)
  | vldo (q : BitVec 2) (a : Reg) (m : Bool)
  -- R340
  | vpref (a : Reg) (m : Bool)
  -- R350
  | vst (q : BitVec 2) (a : Reg) (m : Bool)
  | vsts (q : BitVec 2) (a s : Reg) (m : Bool)
  -- R350, R187
  | vstx (q : BitVec 2) (a : Reg) (i : BitVec 2) (m : Bool) (g : BitVec 3)
  -- R352
  | vstn (q : BitVec 2) (a p : Reg) (m : Bool) (s : BitVec 3)
  -- R353, R120
  | vsto (q : BitVec 2) (a : Reg) (m : Bool)
  | vstu (q : BitVec 2) (a : Reg) (m : Bool)
  -- R329
  | vadd (d : Dst) (a : Reg) (b : Src) (k : BitVec 4)
  | vaddVs (d : Dst) (a b : Reg) (k : BitVec 4)
  | vsub (d : Dst) (a : Reg) (b : Src) (k : BitVec 4)
  | vsubVs (d : Dst) (a b : Reg) (k : BitVec 4)
  | vmul (d : Dst) (a : Reg) (b : Src) (k : BitVec 4)
  | vmulVs (d : Dst) (a b : Reg) (k : BitVec 4)
  | vmulh (d : Dst) (a : Reg) (b : Src) (k : BitVec 4)
  | vmulhVs (d : Dst) (a b : Reg) (k : BitVec 4)
  | vmin (d : Dst) (a : Reg) (b : Src) (k : BitVec 4)
  | vminVs (d : Dst) (a b : Reg) (k : BitVec 4)
  | vmax (d : Dst) (a : Reg) (b : Src) (k : BitVec 4)
  | vmaxVs (d : Dst) (a b : Reg) (k : BitVec 4)
  | vand (d : Dst) (a : Reg) (b : Src) (k : BitVec 4)
  | vandVs (d : Dst) (a b : Reg) (k : BitVec 4)
  | vor (d : Dst) (a : Reg) (b : Src) (k : BitVec 4)
  | vorVs (d : Dst) (a b : Reg) (k : BitVec 4)
  | vxor (d : Dst) (a : Reg) (b : Src) (k : BitVec 4)
  | vxorVs (d : Dst) (a b : Reg) (k : BitVec 4)
  | vshl (d : Dst) (a : Reg) (b : Src) (k : BitVec 4)
  | vshlVs (d : Dst) (a b : Reg) (k : BitVec 4)
  | vshr (d : Dst) (a : Reg) (b : Src) (k : BitVec 4)
  | vshrVs (d : Dst) (a b : Reg) (k : BitVec 4)
  | vsar (d : Dst) (a : Reg) (b : Src) (k : BitVec 4)
  | vsarVs (d : Dst) (a b : Reg) (k : BitVec 4)
  | vabs (d : Dst) (b : Src) (k : BitVec 4)
  | vneg (d : Dst) (b : Src) (k : BitVec 4)
  -- R338
  | vfadd (d : Dst) (a : Reg) (b : Src) (k : BitVec 4)
  | vfaddVs (d : Dst) (a b : Reg) (k : BitVec 4)
  | vfsub (d : Dst) (a : Reg) (b : Src) (k : BitVec 4)
  | vfsubVs (d : Dst) (a b : Reg) (k : BitVec 4)
  | vfmul (d : Dst) (a : Reg) (b : Src) (k : BitVec 4)
  | vfmulVs (d : Dst) (a b : Reg) (k : BitVec 4)
  | vfdiv (d : Dst) (a : Reg) (b : Src) (k : BitVec 4)
  | vfdivVs (d : Dst) (a b : Reg) (k : BitVec 4)
  | vfsqrt (d : Dst) (b : Src) (k : BitVec 4)
  | vfmin (d : Dst) (a : Reg) (b : Src) (k : BitVec 4)
  | vfminVs (d : Dst) (a b : Reg) (k : BitVec 4)
  | vfmax (d : Dst) (a : Reg) (b : Src) (k : BitVec 4)
  | vfmaxVs (d : Dst) (a b : Reg) (k : BitVec 4)
  | vfabs (d : Dst) (b : Src) (k : BitVec 4)
  | vfneg (d : Dst) (b : Src) (k : BitVec 4)
  -- R338, R170
  | vfma (d a : Reg) (b : Src) (k : BitVec 4)
  | vfmaVs (d a b : Reg) (k : BitVec 4)
  | vfms (d a : Reg) (b : Src) (k : BitVec 4)
  | vfmsVs (d a b : Reg) (k : BitVec 4)
  | vfnma (d a : Reg) (b : Src) (k : BitVec 4)
  | vfnmaVs (d a b : Reg) (k : BitVec 4)
  -- R338
  | vtsum (d : Dst) (a : Reg) (b : Src) (k : BitVec 4)
  -- R335
  | vcmp (kd : BitVec 4) (a : Reg) (b : Src) (c : BitVec 3)
  | vcmpVs (kd : BitVec 4) (a b : Reg) (c : BitVec 3)
  | vfcmp (kd : BitVec 4) (a : Reg) (b : Src) (c : BitVec 3)
  | vfcmpVs (kd : BitVec 4) (a b : Reg) (c : BitVec 3)
  -- R336
  | vsel (d : Dst) (a : Reg) (b : Src) (k : BitVec 4)
  | vselVs (d : Dst) (a b : Reg) (k : BitVec 4)
  -- R311
  | kand (kd ka kb : BitVec 4)
  | kor (kd ka kb : BitVec 4)
  | kxor (kd ka kb : BitVec 4)
  | knot (kd ka : BitVec 4)
  | kmv (kd ka : BitVec 4)
  | kpop (d : Reg) (ka : BitVec 4)
  | kfirst (d : Reg) (ka : BitVec 4)
  | kset (kd : BitVec 4) (b : Reg)
  -- R229, R349
  | vslideup (d : Dst) (a b : Reg) (k : BitVec 4)
  | vslidedn (d : Dst) (a b : Reg) (k : BitVec 4)
  -- R344
  | vperm (d : Dst) (a : Reg) (b : Src) (k : BitVec 4)
  -- R337
  | vcompress (d : Dst) (a : Reg) (k : BitVec 4)
  | vexpand (d : Dst) (a : Reg) (k : BitVec 4)
  | viota (d : Dst) (k : BitVec 4)
  -- R186
  | vnz (d : Dst) (a : Reg) (k : BitVec 4)
  -- R138, R341
  | vmatch (kd : BitVec 4) (a : Reg) (k : BitVec 4)
  -- R332
  | vbcast (d : Dst) (b : Reg) (k : BitVec 4)
  -- R230
  | vext (d a b : Reg)
  -- R205, R342
  | vmv (d : Dst) (b : Src)
  -- R345
  | vrand (d : Dst) (k : BitVec 4)
  -- R346, R347
  | vredsum (d : Dst) (a : Reg) (k : BitVec 4)
  | vfredsum (d : Dst) (a : Reg) (k : BitVec 4)
  | vredmax (d : Dst) (a : Reg) (k : BitVec 4)
  | vredmin (d : Dst) (a : Reg) (k : BitVec 4)
  | vfredmax (d : Dst) (a : Reg) (k : BitVec 4)
  | vfredmin (d : Dst) (a : Reg) (k : BitVec 4)
  | vscan (d : Dst) (a : Reg) (k : BitVec 4)
  -- R334
  | vcvt (d : Dst) (s : Reg) (b : Src) (k : BitVec 4)
  -- R333
  | vclamp (d : Dst) (b : Src) (k : BitVec 4)
  -- R348
  | vscl (d : Dst) (a : Reg) (b : Src) (k : BitVec 4)
  | vsclVs (d : Dst) (a b : Reg) (k : BitVec 4)
  -- R330
  | vamax (d : Dst) (a : Reg) (k : BitVec 4)
  -- R225, R343
  | vopt (d a : Reg) (k : BitVec 4)
  -- R193
  | xsetb (a : Reg)
  -- R194
  | xloss (b : Src) (k : BitVec 4)
  -- R195
  | xnacc (a : Reg) (b : Src) (k : BitVec 4)
  | xnaccSingle (a : Reg) (k : BitVec 4)
  -- R196
  | xgram (e a : Reg) (b : Src) (k : BitVec 4)
  -- R199
  | xnorm (d : Dst) (k : BitVec 4)
  -- R197, R198
  | xgate (d : Dst) (b : Src) (k : BitVec 4)
  -- R200
  | xcomp (d : Dst) (c s : Reg) (k : BitVec 4)
  -- R199
  | xwt (d : Dst) (k : BitVec 4)
  | xclr (a b : Reg)
  -- R172
  | matt (d a : Reg)
  -- R174
  | mdet
  -- R177
  | mlds (b : Src)
  -- R178
  | mswap
  -- R180
  | mstr (c : BitVec 1) (a : Reg) (b : Src)
  -- R179
  | mzero (c : BitVec 1)
  -- R182
  | mdrn (c : BitVec 1) (a : Reg) (d : Dst) (v : Bool)
  -- R209
  | albld (b : Src) (l f : Bool)
  -- R211, R214
  | msamp (c : BitVec 1) (a : Reg) (y z i : BitVec 2)
  -- R213
  | mstat (d s : Reg)
  -- R132-R134
  | amoAdd (d a b : Reg) (o : AmoMod)
  | amoFadd (d a b : Reg) (o : AmoMod)
  | amoMax (d a b : Reg) (f : Bool) (o : AmoMod)
  | amoMin (d a b : Reg) (f : Bool) (o : AmoMod)
  | amoMaxn (d a b : Reg) (o : AmoMod)
  | amoMinn (d a b : Reg) (o : AmoMod)
  | amoXchg (d a b : Reg) (o : AmoMod)
  | amoCas (d a b : Reg) (o : AmoMod)
  | amoAnd (d a b : Reg) (o : AmoMod)
  | amoOr (d a b : Reg) (o : AmoMod)
  -- R132-R135
  | amoMaxrs (d a b : Reg) (f : Bool) (o : AmoMod)
  -- R136, R137, R331
  | vamoAdd (q : BitVec 2) (a : Reg) (i : BitVec 2) (m : Bool)
  | vamoFadd (q : BitVec 2) (a : Reg) (i : BitVec 2) (m : Bool)
  | vamoMax (q : BitVec 2) (a : Reg) (i : BitVec 2) (m : Bool)
  | vamoMin (q : BitVec 2) (a : Reg) (i : BitVec 2) (m : Bool)
  -- R140
  | awin (a b : Reg) (o : BitVec 3) (w : BitVec 2)
  -- R141, R296
  | aacc (q i : BitVec 2) (m : Bool) (w : BitVec 2)
  -- R141, R297
  | amerge (w : BitVec 2)
  -- R141
  | awclose (w : BitVec 2)
  -- R316
  | post (a b l : Reg)
  | wait (a l : Reg)
  -- R315
  | lpbind (l : Reg)
  -- R145, R146
  | barr (d a : Reg)
  | bwait (d a : Reg)
  -- R145, R301
  | binit (a b : Reg)
  -- R147, R318, R319
  | mwait (d a b : Reg)
  -- R124
  | fenceSv
  | fenceVs
  -- R118
  | fenceAcq (s : Reg)
  | fenceRel (s : Reg)
  | fenceFull (s : Reg)
  -- R130, R129
  | fenceXp
  | fenceEng
  -- R105
  | sopen (s a b : Reg) (x y : BitVec 2)
  -- R110, R108
  | sopenR (s : Reg)
  | sclose (s : Reg)
  -- R107
  | swait (d a s : Reg)
  | savail (d s : Reg)
  -- R108
  | scancel (s : Reg)
  -- R109, R323
  | strig (s a b : Reg) (c : Bool)
  -- R236
  | ejob (d a : Reg) (c : Bool)
  -- R237
  | estat (d a : Reg)
  -- R234
  | aemap (d a b : Reg)
  -- R34
  | launch (d a b : Reg)
  -- R43, R42
  | tdone
  | tyield
  -- R37
  | tid (d s : Reg)
  -- R40
  | strip (d : Reg)
  -- R252, R321
  | repq (d : Reg)
  | rsig (d : Reg)
  -- R111, R327
  | uien (s : Reg)
  | uienOff (s : Reg)
  -- R113
  | uiret
  -- R61, R62
  | pfx (k : BitVec 4) (v : Bool) (c : Reg) (e : Bool)
  -- R291-R295
  | crr (r : Reg) (n : BitVec 12)
  | crw (r : Reg) (n : BitVec 12)
  | crs (r : Reg) (n : BitVec 12)
  | crc (r : Reg) (n : BitVec 12)
  -- R163
  | sys (n : BitVec 10)
  | eret
  | brk (n : BitVec 10)
  | idle
  | nop
  -- R167
  | ctxsave (a : Reg)
  | ctxsaveLeave (a : Reg)
  -- R167, R306, R307
  | ctxload (a : Reg)
  -- R325
  | tlbinvAll (a b : Reg)
  | tlbinvAsn (a b : Reg)
  | tlbinvPage (a b : Reg)
  -- R308, R309
  | dcwb (a b : Reg)
  | dcinv (a b : Reg)
  -- R256: queue, value written
  | hostLaunchPush (q : BitVec 6) (v : Word)
  | launchWindowErrClear (q : BitVec 6) (v : Word)
  -- R258: value written
  | doorbell (v : Word)
  -- R257: value written
  | apertureBaseWrite (v : Word)
  -- R257: BAR2 offset, size in bytes, the value of a write
  | apertureAccess (off size : Nat) (w : Option Nat)
  -- R260: BAR0 offset, value written
  | hostMailboxWrite (off : Nat) (v : Word)
  -- R255: BAR0 offset, size, the value of a write
  | hostRegisterWrite (off size : Nat) (w : Option Word)
  -- R261-R263: what the start found
  | coldStart (r : StartReport)
  | warmStart (r : StartReport)
  -- R16: logical quad
  | quadFailure (q : Nat)
  -- R265: months, and the samples
  | ageingPrediction (r : AgeingReport)
  -- R21: a new lane budget of a core, or slice budget of a quad
  | powerTrim (r : TrimUnit) (n : Nat)
  -- R148: launch queue
  | cardRead (q : BitVec 6)
  -- R36, R149: task, core of each braid, replica-major
  | gangDispatch (t : Nat) (cores : List Nat)
  -- R150, R45: task
  | gangPreempt (t : Nat)
  | priorityAging (t : Nat)
  | gangResume (t : Nat)
  -- R44: task
  | taskCompletion (t : Nat)
  -- R24, R160, R110, R112: braid
  | queueDeadlock (b : Nat)
  | takeInterrupt (b : Nat)
  | streamFaultTrap (b : Nat)
  | landingEntry (b : Nat)
  -- R106, R110, R109: braid, stream
  | streamElementLand (b : Nat) (s : BitVec 3)
  | streamElementFault (b : Nat) (s : BitVec 3)
  | streamTriggerFire (b : Nat) (s : BitVec 3)
  -- R238, R239: job
  | engineJobStart (j : Nat)
  | engineJobComplete (j : Nat)
  | engineJobFault (j : Nat)
  -- R219: the element
  | fabricElementArrival (e : FabElem)
  -- R224: member
  | memberLost (m : BitVec 8)
  -- R246: braid
  | forcedReleaseBuffer (b : Nat)
  | forcedReleaseTimeout (b : Nat)
  -- R96: braid, line number (physical address div 64)
  | scalarCacheWriteback (b line : Nat)
  -- R318: braid
  | mwaitWake (b : Nat)
  -- R146, R316, R23: braid, hart
  | bwaitWake (b : Nat) (h : Hart)
  | almanacWaitWake (b : Nat) (h : Hart)
  | postStallWake (b : Nat) (h : Hart)
  | queueWaitWake (b : Nat) (h : Hart)
  -- R107, R53: braid
  | swaitWake (b : Nat)
  | setvlsTrimWake (b : Nat)
  -- R51, R43, R129, R163: braid, hart
  | grantFifoWake (b : Nat) (h : Hart)
  | tdoneDrainWake (b : Nat) (h : Hart)
  | fenceEngWake (b : Nat) (h : Hart)
  | idleWake (b : Nat) (h : Hart)
  -- R220
  | chunkSlotWake
  -- R236, R109, R172, R307: braid
  | jobSlotWake (b : Nat)
  | triggerSlotWake (b : Nat)
  | mattFollowerWake (b : Nat)
  | ctxloadSliceWake (b : Nat)
  -- R253, R356
  | uncorrectableError (u : ErrorUnit)
  -- R261
  | powerLoss
  -- R218: the element asked for
  | fabricLoadArrival (e : FabElem)
  -- R18: port
  | stavrekPortFailure (p : BitVec 4)
deriving DecidableEq, Repr

end Sys2Proof
end

