-- ==== Sys2Proof/WellFormed.lean ====
section
/-! DEFINITION. Which terms of the syntax the part has: the field limits that a word must meet beyond its format (R278 check 4),
and the ranges of the events' arguments. Every limit is one named line; a row with no limit is well formed whatever its fields. -/

namespace Sys2Proof

/-- The control-register numbers of R291 below 0x800. -/
def crBase : List Nat :=
  [0x000, 0x001, 0x002, 0x003, 0x004, 0x005, 0x006, 0x010, 0x011, 0x012, 0x013, 0x014, 0x015, 0x020, 0x021, 0x022, 0x023, 0x024,
   0x025, 0x030, 0x031, 0x032, 0x033, 0x040, 0x041, 0x042, 0x043, 0x044, 0x050, 0x051, 0x052, 0x053, 0x054, 0x055, 0x056, 0x057]
  ++ [0x060, 0x061, 0x062, 0x063, 0x064, 0x070, 0x071, 0x072, 0x073, 0x074, 0x080, 0x081, 0x082, 0x083]

/-- The Hart registers of R291, whose X copies are numbered from 0x800. -/
def crHart : List Nat := [0x000, 0x001, 0x004, 0x005, 0x010, 0x011, 0x012, 0x013, 0x063]

/-- R291: a number the table does not list raises cause 1. -/
def crListed (n : BitVec 12) : Bool :=
  crBase.contains n.toNat || (decide (0x800 ≤ n.toNat) && crHart.contains (n.toNat - 0x800))

/-- R132: a scope of 6 or 7, or a non-zero scope with neither ordering bit, raises cause 1. -/
def AmoMod.wf (o : AmoMod) : Bool :=
  decide (o.scope.toNat < 6) && (o.scope == 0 || o.aq || o.rl)

/-- R70: a type code. -/
def typeCode (t : Reg) : Bool := decide (t.toNat < 18)

/-- R104, R111: a stream number. -/
def streamNo (s : Reg) : Bool := decide (s.toNat < 8)

/-- The terms the part has: what each row's fields must meet. -/
def Instr.wf : Instr → Bool
  | .ld _ _ z _ => decide (z.toNat ≤ 6)                    -- R281
  | .st _ _ z _ => decide (z.toNat ≤ 3)                    -- R281
  | .setvl _ _ t => typeCode t                             -- R49
  | .setvls _ _ s t => streamNo s && typeCode t            -- R49
  | .vldx _ _ _ _ g => g != 7                              -- R187
  | .vstx q _ i _ g => g != 7 && q != i                    -- R187, R290
  | .vstn _ _ _ _ s => decide (s.toNat < 6)                -- R352
  | .vcmp kd _ _ c => kd != 0 && decide (c.toNat < 6)      -- R289, R335
  | .vcmpVs kd _ _ c => kd != 0 && decide (c.toNat < 6)
  | .vfcmp kd _ _ c => kd != 0 && decide (c.toNat < 6)
  | .vfcmpVs kd _ _ c => kd != 0 && decide (c.toNat < 6)
  | .kand kd _ _ => kd != 0                                -- R57, R311
  | .kor kd _ _ => kd != 0
  | .kxor kd _ _ => kd != 0
  | .knot kd _ => kd != 0
  | .kmv kd _ => kd != 0
  | .kset kd _ => kd != 0
  | .vmatch kd _ _ => kd != 0                              -- R341
  | .vcvt _ s _ _ => typeCode s                            -- R334
  | .vopt d _ _ => decide (d.toNat ≤ 29)                   -- R225
  | .xcomp _ _ s _ => decide (s.toNat ≤ 5)                 -- R200
  | .mstat _ s => decide (s.toNat ≤ 4)                     -- R213
  | .amoAdd _ _ _ o => o.wf                                -- R132
  | .amoFadd _ _ _ o => o.wf
  | .amoMax _ _ _ _ o => o.wf
  | .amoMin _ _ _ _ o => o.wf
  | .amoMaxn _ _ _ o => o.wf
  | .amoMinn _ _ _ o => o.wf
  | .amoXchg _ _ _ o => o.wf
  | .amoCas _ _ _ o => o.wf
  | .amoAnd _ _ _ o => o.wf
  | .amoOr _ _ _ o => o.wf
  | .amoMaxrs _ _ _ _ o => o.wf
  | .vamoAdd q _ i _ => q != i                             -- R136, R290
  | .vamoFadd q _ i _ => q != i
  | .vamoMax q _ i _ => q != i
  | .vamoMin q _ i _ => q != i
  | .awin _ _ o _ => decide (o.toNat ≤ 3)                  -- R140
  | .aacc q i _ _ => q != i                                -- R141
  | .post _ _ l => decide (l.toNat < 16)                   -- R142
  | .wait _ l => decide (l.toNat < 16)
  | .lpbind l => decide (l.toNat < 16)
  | .fenceAcq s => decide (s.toNat < 6)                    -- R118
  | .fenceRel s => decide (s.toNat < 6)
  | .fenceFull s => decide (s.toNat < 6)
  | .sopen s _ _ _ _ => streamNo s                         -- R104
  | .sopenR s => streamNo s
  | .sclose s => streamNo s
  | .swait _ _ s => streamNo s
  | .savail _ s => streamNo s
  | .scancel s => streamNo s
  | .strig s _ _ _ => streamNo s
  | .tid _ s => decide (s.toNat < 12)                      -- R37
  | .uien s => streamNo s                                  -- R111
  | .uienOff s => streamNo s
  | .pfx _ _ c e => e || c == 0                            -- R61
  | .crr _ n => crListed n                                 -- R291
  | .crw _ n => crListed n
  | .crs _ n => crListed n
  | .crc _ n => crListed n
  | .hostLaunchPush _ v => !v.getLsbD 63                   -- R256
  | .launchWindowErrClear _ v => v.getLsbD 63              -- R256
  | .quadFailure q => decide (q < 160)                     -- R14
  | .powerTrim (.core c) n => decide (c < 640) && [1, 2, 4, 8, 16].contains n   -- R50
  | .powerTrim (.quad q) n => decide (q < 160) && decide (n ≤ 4)               -- R172
  | _ => true

/-- The rows that have a 32-bit word; the others are the part's events (spec/95). -/
def Instr.isEvent : Instr → Bool
  | .hostLaunchPush .. | .launchWindowErrClear .. | .doorbell .. | .apertureBaseWrite .. | .apertureAccess ..
  | .hostMailboxWrite .. | .hostRegisterWrite .. | .coldStart .. | .warmStart .. | .quadFailure .. | .ageingPrediction ..
  | .powerTrim .. | .cardRead .. | .gangDispatch .. | .gangPreempt .. | .priorityAging .. | .gangResume ..
  | .taskCompletion .. | .queueDeadlock .. | .takeInterrupt .. | .streamFaultTrap .. | .landingEntry ..
  | .streamElementLand .. | .streamElementFault .. | .streamTriggerFire .. | .engineJobStart .. | .engineJobComplete ..
  | .engineJobFault .. | .fabricElementArrival .. | .memberLost .. | .forcedReleaseBuffer .. | .forcedReleaseTimeout ..
  | .scalarCacheWriteback .. | .mwaitWake .. | .bwaitWake .. | .almanacWaitWake .. | .postStallWake .. | .queueWaitWake ..
  | .swaitWake .. | .setvlsTrimWake .. | .grantFifoWake .. | .tdoneDrainWake .. | .fenceEngWake .. | .idleWake ..
  | .chunkSlotWake .. | .jobSlotWake .. | .triggerSlotWake .. | .mattFollowerWake .. | .ctxloadSliceWake ..
  | .uncorrectableError .. | .powerLoss .. | .fabricLoadArrival .. | .stavrekPortFailure .. => true
  | _ => false

end Sys2Proof
end

