-- ==== Sys2Proof/Decode.lean ====
section
/-! DEFINITION. Decoding a 32-bit word (R278 checks 1, 2 and 4; R279-R290) and, below, encoding a well-formed instruction into
its word. Decoding is total: a word has one instruction or a named rejection, which the hart turns into cause 1. -/

namespace Sys2Proof

/-- Why a word is no instruction; each raises cause 1 (R278). -/
inductive Reject where
  /-- Check 1: major 0x00 or 0x32-0x3F. -/
  | major
  /-- Check 2: a function, size or kind code the major does not list. -/
  | function
  /-- Check 4: a field breaks its format or its group's use table. -/
  | field
deriving DecidableEq, Repr

/-! The fields of R280-R285, all cut at the places of RRR: VV's k, qb and qd, VM's m and opt, MX's opt are parts of mod and fn. -/

def fMaj (w : BitVec 32) : BitVec 6 := w.extractLsb' 26 6
def fD (w : BitVec 32) : Reg := w.extractLsb' 21 5
def fA (w : BitVec 32) : Reg := w.extractLsb' 16 5
def fB (w : BitVec 32) : Reg := w.extractLsb' 11 5
def fM (w : BitVec 32) : BitVec 5 := w.extractLsb' 6 5
def fF (w : BitVec 32) : BitVec 6 := w.extractLsb' 0 6
def fImm (w : BitVec 32) : BitVec 16 := w.extractLsb' 0 16
def fOff (w : BitVec 32) : BitVec 26 := w.extractLsb' 0 26
def fCrn (w : BitVec 32) : BitVec 12 := w.extractLsb' 9 12

def need (c : Bool) (i : Instr) : Except Reject Instr := if c then .ok i else .error .field

/-- vd with qd (R279): with qd = 1 bits [4:2] must be zero. -/
def dstOf (qd : Bool) (d : Reg) : Option Dst :=
  if qd then (if d.extractLsb' 2 3 = 0 then some (.sq (d.extractLsb' 0 2)) else none) else some (.v d)

/-- vb with qb (R279). -/
def srcOf (qb : Bool) (b : Reg) : Option Src :=
  if qb then (if b.extractLsb' 2 3 = 0 then some (.lq (b.extractLsb' 0 2)) else none) else some (.v b)

def withDst (qd : Bool) (d : Reg) (f : Dst → Instr) : Except Reject Instr :=
  match dstOf qd d with
  | some x => .ok (f x)
  | none => .error .field

def withSrc (qb : Bool) (b : Reg) (f : Src → Except Reject Instr) : Except Reject Instr :=
  match srcOf qb b with
  | some x => f x
  | none => .error .field

/-! Parts of mod and fn: k in [10:7], qb in [6], qd in [5], fn[4:0] (R283), m in [10], opt in [9:5] (R284). -/

def kOf (m : BitVec 5) : BitVec 4 := m.extractLsb' 1 4
def qbOf (m : BitVec 5) : Bool := m.getLsbD 0
def qdOf (f : BitVec 6) : Bool := f.getLsbD 5
def fnOf (f : BitVec 6) : BitVec 5 := f.extractLsb' 0 5
def mqOf (m : BitVec 5) : Bool := m.getLsbD 4
/-- VM's opt[9:5] (R284). -/
def optOf (m : BitVec 5) (f : BitVec 6) : BitVec 5 := m.extractLsb' 0 4 ++ f.extractLsb' 5 1

/-! The three-operand scalar group, and the families that share a use row of R288. -/

def aluOps : List (Reg → Reg → Reg → Instr) :=
  [.add, .sub, .mul, .mulh, .mulhn, .div, .divn, .rem, .remn, .and, .or, .xor, .shl, .shr, .sar, .min, .max, .minn, .maxn,
   .seq, .sne, .slt, .sltn]

def vintOps : List (Dst → Reg → Src → BitVec 4 → Instr) :=
  [.vadd, .vsub, .vmul, .vmulh, .vmin, .vmax, .vand, .vor, .vxor, .vshl, .vshr, .vsar]

def vintVsOps : List (Dst → Reg → Reg → BitVec 4 → Instr) :=
  [.vaddVs, .vsubVs, .vmulVs, .vmulhVs, .vminVs, .vmaxVs, .vandVs, .vorVs, .vxorVs, .vshlVs, .vshrVs, .vsarVs]

def vredOps : List (Dst → Reg → BitVec 4 → Instr) :=
  [.vredsum, .vfredsum, .vredmax, .vredmin, .vfredmax, .vfredmin, .vscan]

def decBin (c : Dst → Reg → Src → BitVec 4 → Instr) (d a b : Reg) (m : BitVec 5) (f : BitVec 6) : Except Reject Instr :=
  withSrc (qbOf m) b fun s => withDst (qdOf f) d fun x => c x a s (kOf m)

def decVs (c : Dst → Reg → Reg → BitVec 4 → Instr) (d a b : Reg) (m : BitVec 5) (f : BitVec 6) : Except Reject Instr :=
  if qbOf m then .error .field else withDst (qdOf f) d fun x => c x a b (kOf m)

def decUn (c : Dst → Src → BitVec 4 → Instr) (d a b : Reg) (m : BitVec 5) (f : BitVec 6) : Except Reject Instr :=
  if a ≠ 0 then .error .field else withSrc (qbOf m) b fun s => withDst (qdOf f) d fun x => c x s (kOf m)

def decFused (c : Reg → Reg → Src → BitVec 4 → Instr) (d a b : Reg) (m : BitVec 5) (f : BitVec 6) : Except Reject Instr :=
  if qdOf f then .error .field else withSrc (qbOf m) b fun s => .ok (c d a s (kOf m))

def decFusedVs (c : Reg → Reg → Reg → BitVec 4 → Instr) (d a b : Reg) (m : BitVec 5) (f : BitVec 6) : Except Reject Instr :=
  need (!qdOf f && !qbOf m) (c d a b (kOf m))

/-- Compare (R288, R289): [25] zero, kd in [24:21]; [10] zero, the condition in [9:7]. -/
def decCmp (c : BitVec 4 → Reg → Src → BitVec 3 → Instr) (d a b : Reg) (m : BitVec 5) (f : BitVec 6) : Except Reject Instr :=
  if qdOf f || d.getLsbD 4 || m.getLsbD 4 then .error .field
  else withSrc (qbOf m) b fun s => .ok (c (d.extractLsb' 0 4) a s (m.extractLsb' 1 3))

def decCmpVs (c : BitVec 4 → Reg → Reg → BitVec 3 → Instr) (d a b : Reg) (m : BitVec 5) (f : BitVec 6) : Except Reject Instr :=
  need (!qdOf f && !qbOf m && !d.getLsbD 4 && !m.getLsbD 4) (c (d.extractLsb' 0 4) a b (m.extractLsb' 1 3))

/-- A single source with vb and qb zero (R288). -/
def decSingle (c : Dst → Reg → BitVec 4 → Instr) (d a b : Reg) (m : BitVec 5) (f : BitVec 6) : Except Reject Instr :=
  if b ≠ 0 || qbOf m then .error .field else withDst (qdOf f) d fun x => c x a (kOf m)

/-- No vector source: va, vb and qb zero. -/
def decGen (c : Dst → BitVec 4 → Instr) (d a b : Reg) (m : BitVec 5) (f : BitVec 6) : Except Reject Instr :=
  if a ≠ 0 || b ≠ 0 || qbOf m then .error .field else withDst (qdOf f) d fun x => c x (kOf m)

/-- Mask logic (R288): kd, ka and kb as 4-bit numbers, k, qb and qd zero. -/
def decMask3 (c : BitVec 4 → BitVec 4 → BitVec 4 → Instr) (d a b : Reg) (m : BitVec 5) (f : BitVec 6) : Except Reject Instr :=
  need (!qdOf f && m == 0 && !d.getLsbD 4 && !a.getLsbD 4 && !b.getLsbD 4)
    (c (d.extractLsb' 0 4) (a.extractLsb' 0 4) (b.extractLsb' 0 4))

def decMask2 (c : BitVec 4 → BitVec 4 → Instr) (d a b : Reg) (m : BitVec 5) (f : BitVec 6) : Except Reject Instr :=
  need (!qdOf f && m == 0 && !d.getLsbD 4 && !a.getLsbD 4 && b == 0) (c (d.extractLsb' 0 4) (a.extractLsb' 0 4))

def decMaskX (c : Reg → BitVec 4 → Instr) (d a b : Reg) (m : BitVec 5) (f : BitVec 6) : Except Reject Instr :=
  need (!qdOf f && m == 0 && !a.getLsbD 4 && b == 0) (c d (a.extractLsb' 0 4))

/-! The majors, each on its fields. -/

def decAlu (d a b : Reg) (m : BitVec 5) (f : BitVec 6) : Except Reject Instr :=
  match aluOps[f.toNat]? with
  | some c => need (m == 0) (c d a b)
  | none =>
    match f.toNat with
    | 23 => need (m == 0 && b == 0) (.clz d a)
    | 24 => need (m == 0 && b == 0) (.ctz d a)
    | 25 => need (m == 0 && b == 0) (.pop d a)
    | _ => .error .function

/-- SHI (R280): kind in [15:14], [13:6] zero, amount in [5:0]. -/
def decShi (d a b : Reg) (m : BitVec 5) (f : BitVec 6) : Except Reject Instr :=
  match (b.extractLsb' 3 2).toNat with
  | 0 => need (b.extractLsb' 0 3 == 0 && m == 0) (.shli d a f)
  | 1 => need (b.extractLsb' 0 3 == 0 && m == 0) (.shri d a f)
  | 2 => need (b.extractLsb' 0 3 == 0 && m == 0) (.sari d a f)
  | _ => .error .function

def decQueue (d a b : Reg) (m : BitVec 5) (f : BitVec 6) : Except Reject Instr :=
  match f.toNat with
  | 0 => need (d == 0 && b == 0 && m == 0) (.tsend a)
  | 1 => need (a == 0 && b == 0 && m == 0) (.trecv d)
  | 2 => need (d == 0 && b == 0 && m == 0 && !a.getLsbD 4) (.ksend (a.extractLsb' 0 4))
  | _ => .error .function

/-- SV (R285): avl in [20:16], stream in [15:11], type in [10:6], [5] zero. -/
def decSetvl (d a b : Reg) (m : BitVec 5) (f : BitVec 6) : Except Reject Instr :=
  match (fnOf f).toNat with
  | 0 => need (!qdOf f && b == 0) (.setvl d a m)
  | 1 => need (!qdOf f) (.setvls d a b m)
  | 2 => need (!qdOf f && d == 0 && b == 0 && m == 0) (.setmt a)
  | _ => .error .function

/-- VM (R284): [25:23] zero, the queue in [22:21]. -/
def vmq (d : Reg) : BitVec 2 := d.extractLsb' 0 2
def vmqOk (d : Reg) : Bool := d.extractLsb' 2 3 == 0
def vmi (b : Reg) : BitVec 2 := b.extractLsb' 0 2
def vmiOk (b : Reg) : Bool := b.extractLsb' 2 3 == 0

def decVload (d a b : Reg) (m : BitVec 5) (f : BitVec 6) : Except Reject Instr :=
  let o := optOf m f
  match (fnOf f).toNat with
  | 0 => need (vmqOk d && b == 0 && o == 0) (.vld (vmq d) a (mqOf m))
  | 1 => need (vmqOk d && o == 0) (.vlds (vmq d) a b (mqOf m))
  | 2 => need (vmqOk d && vmiOk b && o.extractLsb' 3 2 == 0) (.vldx (vmq d) a (vmi b) (mqOf m) (o.extractLsb' 0 3))
  | 3 => need (vmqOk d && b == 0 && o == 0) (.vldz (vmq d) a (mqOf m))
  | 4 => need (vmqOk d && b == 0 && o == 0) (.vldo (vmq d) a (mqOf m))
  | 5 => need (d == 0 && b == 0 && o == 0) (.vpref a (mqOf m))
  | _ => .error .function

def decVstore (d a b : Reg) (m : BitVec 5) (f : BitVec 6) : Except Reject Instr :=
  let o := optOf m f
  match (fnOf f).toNat with
  | 0 => need (vmqOk d && b == 0 && o == 0) (.vst (vmq d) a (mqOf m))
  | 1 => need (vmqOk d && o == 0) (.vsts (vmq d) a b (mqOf m))
  | 2 => need (vmqOk d && vmiOk b && o.extractLsb' 3 2 == 0) (.vstx (vmq d) a (vmi b) (mqOf m) (o.extractLsb' 0 3))
  | 3 => need (vmqOk d && o.extractLsb' 3 2 == 0) (.vstn (vmq d) a b (mqOf m) (o.extractLsb' 0 3))
  | 4 => need (vmqOk d && b == 0 && o == 0) (.vsto (vmq d) a (mqOf m))
  | 5 => need (vmqOk d && b == 0 && o == 0) (.vstu (vmq d) a (mqOf m))
  | _ => .error .function

/-- VINT (R283, R286): fn[4] is the VS bit of the first twelve. -/
def decVint (d a b : Reg) (m : BitVec 5) (f : BitVec 6) : Except Reject Instr :=
  match vintOps[(fnOf f).toNat]? with
  | some c => decBin c d a b m f
  | none =>
    match (fnOf f).toNat with
    | 12 => decUn .vabs d a b m f
    | 13 => decUn .vneg d a b m f
    | n =>
      if n < 16 then .error .function
      else match vintVsOps[n - 16]? with
        | some c => decVs c d a b m f
        | none => .error .function

def decVfp (d a b : Reg) (m : BitVec 5) (f : BitVec 6) : Except Reject Instr :=
  match (fnOf f).toNat with
  | 0 => decBin .vfadd d a b m f
  | 1 => decBin .vfsub d a b m f
  | 2 => decBin .vfmul d a b m f
  | 3 => decBin .vfdiv d a b m f
  | 4 => decUn .vfsqrt d a b m f
  | 5 => decBin .vfmin d a b m f
  | 6 => decBin .vfmax d a b m f
  | 7 => decUn .vfabs d a b m f
  | 8 => decUn .vfneg d a b m f
  | 9 => decFused .vfma d a b m f
  | 10 => decFused .vfms d a b m f
  | 11 => decFused .vfnma d a b m f
  | 12 => decBin .vtsum d a b m f
  | 16 => decVs .vfaddVs d a b m f
  | 17 => decVs .vfsubVs d a b m f
  | 18 => decVs .vfmulVs d a b m f
  | 19 => decVs .vfdivVs d a b m f
  | 21 => decVs .vfminVs d a b m f
  | 22 => decVs .vfmaxVs d a b m f
  | 25 => decFusedVs .vfmaVs d a b m f
  | 26 => decFusedVs .vfmsVs d a b m f
  | 27 => decFusedVs .vfnmaVs d a b m f
  | _ => .error .function

def decVmask (d a b : Reg) (m : BitVec 5) (f : BitVec 6) : Except Reject Instr :=
  match (fnOf f).toNat with
  | 0 => decCmp .vcmp d a b m f
  | 1 => decCmp .vfcmp d a b m f
  | 2 => decBin .vsel d a b m f
  | 3 => decMask3 .kand d a b m f
  | 4 => decMask3 .kor d a b m f
  | 5 => decMask3 .kxor d a b m f
  | 6 => decMask2 .knot d a b m f
  | 7 => decMask2 .kmv d a b m f
  | 8 => decMaskX .kpop d a b m f
  | 9 => decMaskX .kfirst d a b m f
  | 10 => need (!qdOf f && m == 0 && !d.getLsbD 4 && a == 0) (.kset (d.extractLsb' 0 4) b)
  | 16 => decCmpVs .vcmpVs d a b m f
  | 17 => decCmpVs .vfcmpVs d a b m f
  | 18 => decVs .vselVs d a b m f
  | _ => .error .function

def decVperm (d a b : Reg) (m : BitVec 5) (f : BitVec 6) : Except Reject Instr :=
  match (fnOf f).toNat with
  | 0 => decVs .vslideup d a b m f
  | 1 => decVs .vslidedn d a b m f
  | 2 => decBin .vperm d a b m f
  | 3 => decSingle .vcompress d a b m f
  | 4 => decSingle .vexpand d a b m f
  | 5 => decGen .viota d a b m f
  | 6 => decSingle .vnz d a b m f
  | 7 => need (!qdOf f && !qbOf m && !d.getLsbD 4 && b == 0) (.vmatch (d.extractLsb' 0 4) a (kOf m))
  | 8 => if a ≠ 0 || qbOf m then .error .field else withDst (qdOf f) d fun x => .vbcast x b (kOf m)
  | 9 => need (!qdOf f && m == 0) (.vext d a b)
  | 10 => if a ≠ 0 || kOf m ≠ 0 then .error .field
          else withSrc (qbOf m) b fun s => withDst (qdOf f) d fun x => .vmv x s
  | 11 => decGen .vrand d a b m f
  | _ => .error .function

def decVred (d a b : Reg) (m : BitVec 5) (f : BitVec 6) : Except Reject Instr :=
  match vredOps[(fnOf f).toNat]? with
  | some c => decSingle c d a b m f
  | none => .error .function

def decVcvt (d a b : Reg) (m : BitVec 5) (f : BitVec 6) : Except Reject Instr :=
  match (fnOf f).toNat with
  | 0 => withSrc (qbOf m) b fun s => withDst (qdOf f) d fun x => .vcvt x a s (kOf m)
  | 1 => decUn .vclamp d a b m f
  | 2 => decBin .vscl d a b m f
  | 3 => decSingle .vamax d a b m f
  | 18 => decVs .vsclVs d a b m f
  | _ => .error .function

def decVopt (d a b : Reg) (m : BitVec 5) (f : BitVec 6) : Except Reject Instr :=
  match f.toNat with
  | 0 => need (b == 0 && !qbOf m) (.vopt d a (kOf m))
  | _ => .error .function

/-- The example group (R192). -/
def decExample (d a b : Reg) (m : BitVec 5) (f : BitVec 6) : Except Reject Instr :=
  match (fnOf f).toNat with
  | 0 => need (!qdOf f && m == 0 && d == 0 && b == 0) (.xsetb a)
  | 1 => if qdOf f || d ≠ 0 || a ≠ 0 then .error .field else withSrc (qbOf m) b fun s => .ok (.xloss s (kOf m))
  | 2 => if qdOf f then .error .field
         else if d = 0 then withSrc (qbOf m) b fun s => .ok (.xnacc a s (kOf m))
         else need (d == 1 && b == 0 && !qbOf m) (.xnaccSingle a (kOf m))
  | 3 => if qdOf f then .error .field else withSrc (qbOf m) b fun s => .ok (.xgram d a s (kOf m))
  | 4 => decGen .xnorm d a b m f
  | 5 => decUn .xgate d a b m f
  | 6 => if qbOf m then .error .field else withDst (qdOf f) d fun x => .xcomp x a b (kOf m)
  | 7 => decGen .xwt d a b m f
  | 8 => need (!qdOf f && m == 0 && d == 0) (.xclr a b)
  | _ => .error .function

/-- An acc field (R175): above 1 is refused. -/
def accOk (d : Reg) : Bool := d.extractLsb' 1 4 == 0
def accOf (d : Reg) : BitVec 1 := d.extractLsb' 0 1

def decMatrix (d a b : Reg) (m : BitVec 5) (f : BitVec 6) : Except Reject Instr :=
  let z := m == 0 && !qdOf f
  match (fnOf f).toNat with
  | 0 => need (z && b == 0) (.matt d a)
  | 1 => need (z && d == 0 && a == 0 && b == 0) .mdet
  | 2 => if qdOf f || d ≠ 0 || a ≠ 0 || kOf m ≠ 0 then .error .field else withSrc (qbOf m) b fun s => .ok (.mlds s)
  | 3 => need (z && d == 0 && a == 0 && b == 0) .mswap
  | 4 => if qdOf f || !accOk d || kOf m ≠ 0 then .error .field else withSrc (qbOf m) b fun s => .ok (.mstr (accOf d) a s)
  | 5 => need (z && accOk d && a == 0 && b == 0) (.mzero (accOf d))
  | 6 => if qbOf m || !accOk d || (kOf m).extractLsb' 1 3 ≠ 0 then .error .field
         else withDst (qdOf f) b fun x => .mdrn (accOf d) a x ((kOf m).getLsbD 0)
  | _ => .error .function

def decSampled (d a b : Reg) (m : BitVec 5) (f : BitVec 6) : Except Reject Instr :=
  match (fnOf f).toNat with
  | 0 => if qdOf f || d ≠ 0 || a ≠ 0 || (kOf m).extractLsb' 2 2 ≠ 0 then .error .field
         else withSrc (qbOf m) b fun s => .ok (.albld s ((kOf m).getLsbD 1) ((kOf m).getLsbD 0))
  | 1 => need (!qdOf f && !qbOf m && accOk d && !b.getLsbD 4 && (kOf m).extractLsb' 2 2 == 0)
           (.msamp (accOf d) a (b.extractLsb' 2 2) (b.extractLsb' 0 2) ((kOf m).extractLsb' 0 2))
  | 2 => need (!qdOf f && m == 0 && b == 0) (.mstat d a)
  | _ => .error .function

/-- The fn field of `amo` (R132). -/
def amoModOf (f : BitVec 6) : AmoMod :=
  { aq := f.getLsbD 5, rl := f.getLsbD 4, scope := f.extractLsb' 1 3, w := f.getLsbD 0 }

def decAmo (d a b : Reg) (m : BitVec 5) (f : BitVec 6) : Except Reject Instr :=
  let o := amoModOf f
  let fl := m.getLsbD 4
  match (m.extractLsb' 0 4).toNat with
  | 0 => need (!fl) (.amoAdd d a b o)
  | 1 => need fl (.amoFadd d a b o)
  | 2 => .ok (.amoMax d a b fl o)
  | 3 => .ok (.amoMin d a b fl o)
  | 4 => need (!fl) (.amoMaxn d a b o)
  | 5 => need (!fl) (.amoMinn d a b o)
  | 6 => need (!fl) (.amoXchg d a b o)
  | 7 => need (!fl) (.amoCas d a b o)
  | 8 => need (!fl) (.amoAnd d a b o)
  | 9 => need (!fl) (.amoOr d a b o)
  | 10 => .ok (.amoMaxrs d a b fl o)
  | _ => .error .function

def decVamo (d a b : Reg) (m : BitVec 5) (f : BitVec 6) : Except Reject Instr :=
  let ok := vmqOk d && vmiOk b && optOf m f == 0
  match (fnOf f).toNat with
  | 0 => need ok (.vamoAdd (vmq d) a (vmi b) (mqOf m))
  | 1 => need ok (.vamoFadd (vmq d) a (vmi b) (mqOf m))
  | 2 => need ok (.vamoMax (vmq d) a (vmi b) (mqOf m))
  | 3 => need ok (.vamoMin (vmq d) a (vmi b) (mqOf m))
  | _ => .error .function

/-- The window group (R139): the window in opt[6:5], awin's op in opt[9:7]. -/
def decWindow (d a b : Reg) (m : BitVec 5) (f : BitVec 6) : Except Reject Instr :=
  let o := optOf m f
  let w := o.extractLsb' 0 2
  let hi := o.extractLsb' 2 3
  match (fnOf f).toNat with
  | 0 => need (d == 0 && !mqOf m) (.awin a b hi w)
  | 1 => need (vmqOk d && a == 0 && vmiOk b && hi == 0) (.aacc (vmq d) (vmi b) (mqOf m) w)
  | 2 => need (d == 0 && a == 0 && b == 0 && !mqOf m && hi == 0) (.amerge w)
  | 3 => need (d == 0 && a == 0 && b == 0 && !mqOf m && hi == 0) (.awclose w)
  | _ => .error .function

def decSync (d a b : Reg) (m : BitVec 5) (f : BitVec 6) : Except Reject Instr :=
  match f.toNat with
  | 0 => need (d == 0) (.post a b m)
  | 1 => need (d == 0 && b == 0) (.wait a m)
  | 2 => need (d == 0 && a == 0 && b == 0) (.lpbind m)
  | 3 => need (b == 0 && m == 0) (.barr d a)
  | 4 => need (b == 0 && m == 0) (.bwait d a)
  | 5 => need (d == 0 && m == 0) (.binit a b)
  | 6 => need (m == 0) (.mwait d a b)
  | _ => .error .function

def decFence (d a b : Reg) (m : BitVec 5) (f : BitVec 6) : Except Reject Instr :=
  let z := d == 0 && a == 0 && b == 0
  match f.toNat with
  | 0 => need (z && m == 0) .fenceSv
  | 1 => need (z && m == 0) .fenceVs
  | 2 => need z (.fenceAcq m)
  | 3 => need z (.fenceRel m)
  | 4 => need z (.fenceFull m)
  | 5 => need (z && m == 0) .fenceXp
  | 6 => need (z && m == 0) .fenceEng
  | _ => .error .function

/-- The stream group (R104): sopen's X in [10:9], Y in [8:7], [6] zero; mod = 1 is sopen.r. -/
def decStream (d a b : Reg) (m : BitVec 5) (f : BitVec 6) : Except Reject Instr :=
  match f.toNat with
  | 0 => if m.getLsbD 0 then need (m == 1 && a == 0 && b == 0) (.sopenR d)
         else .ok (.sopen d a b (m.extractLsb' 3 2) (m.extractLsb' 1 2))
  | 1 => need (a == 0 && b == 0 && m == 0) (.sclose d)
  | 2 => need (m == 0) (.swait d a b)
  | 3 => need (a == 0 && m == 0) (.savail d b)
  | 4 => need (a == 0 && b == 0 && m == 0) (.scancel d)
  | 5 => need (m.extractLsb' 1 4 == 0) (.strig d a b (m.getLsbD 0))
  | _ => .error .function

def decEngine (d a b : Reg) (m : BitVec 5) (f : BitVec 6) : Except Reject Instr :=
  match f.toNat with
  | 0 => need (b == 0 && m.extractLsb' 1 4 == 0) (.ejob d a (m.getLsbD 0))
  | 1 => need (b == 0 && m == 0) (.estat d a)
  | 2 => need (m == 0) (.aemap d a b)
  | _ => .error .function

def decTask (d a b : Reg) (m : BitVec 5) (f : BitVec 6) : Except Reject Instr :=
  match f.toNat with
  | 0 => need (m == 0) (.launch d a b)
  | 1 => need (d == 0 && a == 0 && b == 0 && m == 0) .tdone
  | 2 => need (d == 0 && a == 0 && b == 0 && m == 0) .tyield
  | 3 => need (a == 0 && b == 0) (.tid d m)
  | 4 => need (a == 0 && b == 0 && m == 0) (.strip d)
  | _ => .error .function

def decReplica (d a b : Reg) (m : BitVec 5) (f : BitVec 6) : Except Reject Instr :=
  match f.toNat with
  | 0 => need (a == 0 && b == 0 && m == 0) (.repq d)
  | 1 => need (a == 0 && b == 0 && m == 0) (.rsig d)
  | _ => .error .function

def decLanding (d a b : Reg) (m : BitVec 5) (f : BitVec 6) : Except Reject Instr :=
  match f.toNat with
  | 0 => if m = 1 then need (a == 0 && b == 0) (.uienOff d) else need (a == 0 && b == 0 && m == 0) (.uien d)
  | 1 => need (d == 0 && a == 0 && b == 0 && m == 0) .uiret
  | _ => .error .function

/-- CR (R285): [8:5] zero. -/
def decCr (d : Reg) (n : BitVec 12) (z : BitVec 4) (fn : BitVec 5) : Except Reject Instr :=
  match fn.toNat with
  | 0 => need (z == 0) (.crr d n)
  | 1 => need (z == 0) (.crw d n)
  | 2 => need (z == 0) (.crs d n)
  | 3 => need (z == 0) (.crc d n)
  | _ => .error .function

/-- SYS (R163): n of sys and brk in [15:6]. -/
def decSys (d a b : Reg) (m : BitVec 5) (f : BitVec 6) : Except Reject Instr :=
  let z := d == 0 && a == 0
  match f.toNat with
  | 0 => need z (.sys (b ++ m))
  | 1 => need (z && b == 0 && m == 0) .eret
  | 2 => need z (.brk (b ++ m))
  | 3 => need (z && b == 0 && m == 0) .idle
  | 4 => need (z && b == 0 && m == 0) .nop
  | _ => .error .function

/-- PRIV (R167, R287). -/
def decPriv (d a b : Reg) (m : BitVec 5) (f : BitVec 6) : Except Reject Instr :=
  match f.toNat with
  | 0 => if m = 1 then need (d == 0 && b == 0) (.ctxsaveLeave a) else need (d == 0 && b == 0 && m == 0) (.ctxsave a)
  | 1 => need (d == 0 && b == 0 && m == 0) (.ctxload a)
  | 2 => match m.toNat with
         | 0 => need (d == 0) (.tlbinvAll a b)
         | 1 => need (d == 0) (.tlbinvAsn a b)
         | 2 => need (d == 0) (.tlbinvPage a b)
         | _ => .error .field
  | 3 => need (d == 0 && m == 0) (.dcwb a b)
  | 4 => need (d == 0 && m == 0) (.dcinv a b)
  | _ => .error .function

/-- A word's instruction by major (R286), before the limits of `Instr.wf`. -/
def decodeRaw (w : BitVec 32) : Except Reject Instr :=
  let d := fD w
  let a := fA w
  let b := fB w
  let m := fM w
  let f := fF w
  let i := fImm w
  match (fMaj w).toNat with
  | 0x01 => decAlu d a b m f
  | 0x02 => .ok (.addi d a i)
  | 0x03 => .ok (.andi d a i)
  | 0x04 => .ok (.ori d a i)
  | 0x05 => .ok (.xori d a i)
  | 0x06 => decShi d a b m f
  | 0x07 => .ok (.lhi d a i)
  | 0x08 => .ok (.slti d a i)
  | 0x09 => .ok (.ld d a (i.extractLsb' 13 3) (i.extractLsb' 0 13))
  | 0x0A => .ok (.st d a (i.extractLsb' 13 3) (i.extractLsb' 0 13))
  | 0x0B => .ok (.beq d a i)
  | 0x0C => .ok (.bne d a i)
  | 0x0D => .ok (.blt d a i)
  | 0x0E => .ok (.bge d a i)
  | 0x0F => .ok (.bltn d a i)
  | 0x10 => .ok (.bgen d a i)
  | 0x11 => .ok (.jmp (fOff w))
  | 0x12 => .ok (.jal (fOff w))
  | 0x13 => need (d == 0 && i == 0) (.jr a)
  | 0x14 => decQueue d a b m f
  | 0x15 => need (d == 0 && a == 0) (.bqt i)
  | 0x16 => need (d == 0 && a == 0) (.bqf i)
  | 0x17 => decSetvl d a b m f
  | 0x18 => decVload d a b m f
  | 0x19 => decVstore d a b m f
  | 0x1A => decVint d a b m f
  | 0x1B => decVfp d a b m f
  | 0x1C => decVmask d a b m f
  | 0x1D => decVperm d a b m f
  | 0x1E => decVred d a b m f
  | 0x1F => decVcvt d a b m f
  | 0x20 => decVopt d a b m f
  | 0x21 => decExample d a b m f
  | 0x22 => decMatrix d a b m f
  | 0x23 => decSampled d a b m f
  | 0x24 => decAmo d a b m f
  | 0x25 => decVamo d a b m f
  | 0x26 => decWindow d a b m f
  | 0x27 => decSync d a b m f
  | 0x28 => decFence d a b m f
  | 0x29 => decStream d a b m f
  | 0x2A => decEngine d a b m f
  | 0x2B => decTask d a b m f
  | 0x2C => decReplica d a b m f
  | 0x2D => decLanding d a b m f
  | 0x2E => need (i.extractLsb' 0 15 == 0) (.pfx (d.extractLsb' 1 4) (d.getLsbD 0) a (i.getLsbD 15))
  | 0x2F => decCr d (fCrn w) (w.extractLsb' 5 4) (fnOf f)
  | 0x30 => decSys d a b m f
  | 0x31 => decPriv d a b m f
  | _ => .error .major

/-- R278: the instruction a word stands for, or why it has none. -/
def decode (w : BitVec 32) : Except Reject Instr :=
  match decodeRaw w with
  | .ok i => if i.wf then .ok i else .error .field
  | .error r => .error r

/-! ENCODING. The word of an instruction, from the same formats (R280-R290). An event has no word. -/

/-- RRR (R280), and every format cut at the same places. -/
def w6 (maj : BitVec 6) (d a b : Reg) (m : BitVec 5) (f : BitVec 6) : BitVec 32 := maj ++ d ++ a ++ b ++ m ++ f
/-- RRI, LS, BR and PF: the low sixteen bits as one field. -/
def wImm (maj : BitVec 6) (d a : Reg) (i : BitVec 16) : BitVec 32 := maj ++ d ++ a ++ i
/-- J (R282). -/
def wJ (maj : BitVec 6) (o : BitVec 26) : BitVec 32 := maj ++ o
/-- CR (R285). -/
def wCr (r : Reg) (n : BitVec 12) (fn : BitVec 5) : BitVec 32 := 0x2F#6 ++ r ++ n ++ 0#4 ++ fn
/-- VV, VS and MX (R283, R285): k or opt in [10:7], qb, qd, fn[4:0]. -/
def wVV (maj : BitVec 6) (d a b : Reg) (k : BitVec 4) (qb qd : Bool) (fn : BitVec 5) : BitVec 32 :=
  w6 maj d a b (k ++ BitVec.ofBool qb) (BitVec.ofBool qd ++ fn)
/-- VM (R284): m in [10], opt in [9:5], fn[4:0]. -/
def wVm (maj : BitVec 6) (d a b : Reg) (m : Bool) (opt fn : BitVec 5) : BitVec 32 :=
  w6 maj d a b (BitVec.ofBool m ++ opt.extractLsb' 1 4) (opt.extractLsb' 0 1 ++ fn)

def eQ (q : BitVec 2) : Reg := 0#3 ++ q
def eDst : Dst → Reg
  | .v r => r
  | .sq q => eQ q
def dstBit : Dst → Bool
  | .v _ => false
  | .sq _ => true
def eSrc : Src → Reg
  | .v r => r
  | .lq q => eQ q
def srcBit : Src → Bool
  | .v _ => false
  | .lq _ => true
def eAmo (o : AmoMod) : BitVec 6 := BitVec.ofBool o.aq ++ BitVec.ofBool o.rl ++ o.scope ++ BitVec.ofBool o.w

/-- The word of an instruction; none for an event. -/
def encode : Instr → Option (BitVec 32)
  | .add d a b => some (w6 0x01 d a b 0 0)
  | .sub d a b => some (w6 0x01 d a b 0 1)
  | .mul d a b => some (w6 0x01 d a b 0 2)
  | .mulh d a b => some (w6 0x01 d a b 0 3)
  | .mulhn d a b => some (w6 0x01 d a b 0 4)
  | .div d a b => some (w6 0x01 d a b 0 5)
  | .divn d a b => some (w6 0x01 d a b 0 6)
  | .rem d a b => some (w6 0x01 d a b 0 7)
  | .remn d a b => some (w6 0x01 d a b 0 8)
  | .and d a b => some (w6 0x01 d a b 0 9)
  | .or d a b => some (w6 0x01 d a b 0 10)
  | .xor d a b => some (w6 0x01 d a b 0 11)
  | .shl d a b => some (w6 0x01 d a b 0 12)
  | .shr d a b => some (w6 0x01 d a b 0 13)
  | .sar d a b => some (w6 0x01 d a b 0 14)
  | .min d a b => some (w6 0x01 d a b 0 15)
  | .max d a b => some (w6 0x01 d a b 0 16)
  | .minn d a b => some (w6 0x01 d a b 0 17)
  | .maxn d a b => some (w6 0x01 d a b 0 18)
  | .seq d a b => some (w6 0x01 d a b 0 19)
  | .sne d a b => some (w6 0x01 d a b 0 20)
  | .slt d a b => some (w6 0x01 d a b 0 21)
  | .sltn d a b => some (w6 0x01 d a b 0 22)
  | .clz d a => some (w6 0x01 d a 0 0 23)
  | .ctz d a => some (w6 0x01 d a 0 0 24)
  | .pop d a => some (w6 0x01 d a 0 0 25)
  | .addi d a i => some (wImm 0x02 d a i)
  | .andi d a i => some (wImm 0x03 d a i)
  | .ori d a i => some (wImm 0x04 d a i)
  | .xori d a i => some (wImm 0x05 d a i)
  | .shli d a n => some (w6 0x06 d a 0 0 n)
  | .shri d a n => some (w6 0x06 d a 8 0 n)
  | .sari d a n => some (w6 0x06 d a 16 0 n)
  | .lhi d a i => some (wImm 0x07 d a i)
  | .slti d a i => some (wImm 0x08 d a i)
  | .ld d a z o => some (wImm 0x09 d a (z ++ o))
  | .st s a z o => some (wImm 0x0A s a (z ++ o))
  | .beq a b o => some (wImm 0x0B a b o)
  | .bne a b o => some (wImm 0x0C a b o)
  | .blt a b o => some (wImm 0x0D a b o)
  | .bge a b o => some (wImm 0x0E a b o)
  | .bltn a b o => some (wImm 0x0F a b o)
  | .bgen a b o => some (wImm 0x10 a b o)
  | .jmp o => some (wJ 0x11 o)
  | .jal o => some (wJ 0x12 o)
  | .jr a => some (wImm 0x13 0 a 0)
  | .tsend a => some (w6 0x14 0 a 0 0 0)
  | .trecv d => some (w6 0x14 d 0 0 0 1)
  | .ksend k => some (w6 0x14 0 (0#1 ++ k) 0 0 2)
  | .bqt o => some (wImm 0x15 0 0 o)
  | .bqf o => some (wImm 0x16 0 0 o)
  | .setvl d a t => some (w6 0x17 d a 0 t 0)
  | .setvls d a s t => some (w6 0x17 d a s t 1)
  | .setmt a => some (w6 0x17 0 a 0 0 2)
  | .vld q a m => some (wVm 0x18 (eQ q) a 0 m 0 0)
  | .vlds q a s m => some (wVm 0x18 (eQ q) a s m 0 1)
  | .vldx q a i m g => some (wVm 0x18 (eQ q) a (eQ i) m (0#2 ++ g) 2)
  | .vldz q a m => some (wVm 0x18 (eQ q) a 0 m 0 3)
  | .vldo q a m => some (wVm 0x18 (eQ q) a 0 m 0 4)
  | .vpref a m => some (wVm 0x18 0 a 0 m 0 5)
  | .vst q a m => some (wVm 0x19 (eQ q) a 0 m 0 0)
  | .vsts q a s m => some (wVm 0x19 (eQ q) a s m 0 1)
  | .vstx q a i m g => some (wVm 0x19 (eQ q) a (eQ i) m (0#2 ++ g) 2)
  | .vstn q a p m s => some (wVm 0x19 (eQ q) a p m (0#2 ++ s) 3)
  | .vsto q a m => some (wVm 0x19 (eQ q) a 0 m 0 4)
  | .vstu q a m => some (wVm 0x19 (eQ q) a 0 m 0 5)
  | .vadd d a b k => some (wVV 0x1A (eDst d) a (eSrc b) k (srcBit b) (dstBit d) 0)
  | .vaddVs d a b k => some (wVV 0x1A (eDst d) a b k false (dstBit d) 16)
  | .vsub d a b k => some (wVV 0x1A (eDst d) a (eSrc b) k (srcBit b) (dstBit d) 1)
  | .vsubVs d a b k => some (wVV 0x1A (eDst d) a b k false (dstBit d) 17)
  | .vmul d a b k => some (wVV 0x1A (eDst d) a (eSrc b) k (srcBit b) (dstBit d) 2)
  | .vmulVs d a b k => some (wVV 0x1A (eDst d) a b k false (dstBit d) 18)
  | .vmulh d a b k => some (wVV 0x1A (eDst d) a (eSrc b) k (srcBit b) (dstBit d) 3)
  | .vmulhVs d a b k => some (wVV 0x1A (eDst d) a b k false (dstBit d) 19)
  | .vmin d a b k => some (wVV 0x1A (eDst d) a (eSrc b) k (srcBit b) (dstBit d) 4)
  | .vminVs d a b k => some (wVV 0x1A (eDst d) a b k false (dstBit d) 20)
  | .vmax d a b k => some (wVV 0x1A (eDst d) a (eSrc b) k (srcBit b) (dstBit d) 5)
  | .vmaxVs d a b k => some (wVV 0x1A (eDst d) a b k false (dstBit d) 21)
  | .vand d a b k => some (wVV 0x1A (eDst d) a (eSrc b) k (srcBit b) (dstBit d) 6)
  | .vandVs d a b k => some (wVV 0x1A (eDst d) a b k false (dstBit d) 22)
  | .vor d a b k => some (wVV 0x1A (eDst d) a (eSrc b) k (srcBit b) (dstBit d) 7)
  | .vorVs d a b k => some (wVV 0x1A (eDst d) a b k false (dstBit d) 23)
  | .vxor d a b k => some (wVV 0x1A (eDst d) a (eSrc b) k (srcBit b) (dstBit d) 8)
  | .vxorVs d a b k => some (wVV 0x1A (eDst d) a b k false (dstBit d) 24)
  | .vshl d a b k => some (wVV 0x1A (eDst d) a (eSrc b) k (srcBit b) (dstBit d) 9)
  | .vshlVs d a b k => some (wVV 0x1A (eDst d) a b k false (dstBit d) 25)
  | .vshr d a b k => some (wVV 0x1A (eDst d) a (eSrc b) k (srcBit b) (dstBit d) 10)
  | .vshrVs d a b k => some (wVV 0x1A (eDst d) a b k false (dstBit d) 26)
  | .vsar d a b k => some (wVV 0x1A (eDst d) a (eSrc b) k (srcBit b) (dstBit d) 11)
  | .vsarVs d a b k => some (wVV 0x1A (eDst d) a b k false (dstBit d) 27)
  | .vabs d b k => some (wVV 0x1A (eDst d) 0 (eSrc b) k (srcBit b) (dstBit d) 12)
  | .vneg d b k => some (wVV 0x1A (eDst d) 0 (eSrc b) k (srcBit b) (dstBit d) 13)
  | .vfadd d a b k => some (wVV 0x1B (eDst d) a (eSrc b) k (srcBit b) (dstBit d) 0)
  | .vfaddVs d a b k => some (wVV 0x1B (eDst d) a b k false (dstBit d) 16)
  | .vfsub d a b k => some (wVV 0x1B (eDst d) a (eSrc b) k (srcBit b) (dstBit d) 1)
  | .vfsubVs d a b k => some (wVV 0x1B (eDst d) a b k false (dstBit d) 17)
  | .vfmul d a b k => some (wVV 0x1B (eDst d) a (eSrc b) k (srcBit b) (dstBit d) 2)
  | .vfmulVs d a b k => some (wVV 0x1B (eDst d) a b k false (dstBit d) 18)
  | .vfdiv d a b k => some (wVV 0x1B (eDst d) a (eSrc b) k (srcBit b) (dstBit d) 3)
  | .vfdivVs d a b k => some (wVV 0x1B (eDst d) a b k false (dstBit d) 19)
  | .vfsqrt d b k => some (wVV 0x1B (eDst d) 0 (eSrc b) k (srcBit b) (dstBit d) 4)
  | .vfmin d a b k => some (wVV 0x1B (eDst d) a (eSrc b) k (srcBit b) (dstBit d) 5)
  | .vfminVs d a b k => some (wVV 0x1B (eDst d) a b k false (dstBit d) 21)
  | .vfmax d a b k => some (wVV 0x1B (eDst d) a (eSrc b) k (srcBit b) (dstBit d) 6)
  | .vfmaxVs d a b k => some (wVV 0x1B (eDst d) a b k false (dstBit d) 22)
  | .vfabs d b k => some (wVV 0x1B (eDst d) 0 (eSrc b) k (srcBit b) (dstBit d) 7)
  | .vfneg d b k => some (wVV 0x1B (eDst d) 0 (eSrc b) k (srcBit b) (dstBit d) 8)
  | .vfma d a b k => some (wVV 0x1B d a (eSrc b) k (srcBit b) false 9)
  | .vfmaVs d a b k => some (wVV 0x1B d a b k false false 25)
  | .vfms d a b k => some (wVV 0x1B d a (eSrc b) k (srcBit b) false 10)
  | .vfmsVs d a b k => some (wVV 0x1B d a b k false false 26)
  | .vfnma d a b k => some (wVV 0x1B d a (eSrc b) k (srcBit b) false 11)
  | .vfnmaVs d a b k => some (wVV 0x1B d a b k false false 27)
  | .vtsum d a b k => some (wVV 0x1B (eDst d) a (eSrc b) k (srcBit b) (dstBit d) 12)
  | .vcmp kd a b c => some (wVV 0x1C (0#1 ++ kd) a (eSrc b) (0#1 ++ c) (srcBit b) false 0)
  | .vcmpVs kd a b c => some (wVV 0x1C (0#1 ++ kd) a b (0#1 ++ c) false false 16)
  | .vfcmp kd a b c => some (wVV 0x1C (0#1 ++ kd) a (eSrc b) (0#1 ++ c) (srcBit b) false 1)
  | .vfcmpVs kd a b c => some (wVV 0x1C (0#1 ++ kd) a b (0#1 ++ c) false false 17)
  | .vsel d a b k => some (wVV 0x1C (eDst d) a (eSrc b) k (srcBit b) (dstBit d) 2)
  | .vselVs d a b k => some (wVV 0x1C (eDst d) a b k false (dstBit d) 18)
  | .kand kd ka kb => some (wVV 0x1C (0#1 ++ kd) (0#1 ++ ka) (0#1 ++ kb) 0 false false 3)
  | .kor kd ka kb => some (wVV 0x1C (0#1 ++ kd) (0#1 ++ ka) (0#1 ++ kb) 0 false false 4)
  | .kxor kd ka kb => some (wVV 0x1C (0#1 ++ kd) (0#1 ++ ka) (0#1 ++ kb) 0 false false 5)
  | .knot kd ka => some (wVV 0x1C (0#1 ++ kd) (0#1 ++ ka) 0 0 false false 6)
  | .kmv kd ka => some (wVV 0x1C (0#1 ++ kd) (0#1 ++ ka) 0 0 false false 7)
  | .kpop d ka => some (wVV 0x1C d (0#1 ++ ka) 0 0 false false 8)
  | .kfirst d ka => some (wVV 0x1C d (0#1 ++ ka) 0 0 false false 9)
  | .kset kd b => some (wVV 0x1C (0#1 ++ kd) 0 b 0 false false 10)
  | .vslideup d a b k => some (wVV 0x1D (eDst d) a b k false (dstBit d) 0)
  | .vslidedn d a b k => some (wVV 0x1D (eDst d) a b k false (dstBit d) 1)
  | .vperm d a b k => some (wVV 0x1D (eDst d) a (eSrc b) k (srcBit b) (dstBit d) 2)
  | .vcompress d a k => some (wVV 0x1D (eDst d) a 0 k false (dstBit d) 3)
  | .vexpand d a k => some (wVV 0x1D (eDst d) a 0 k false (dstBit d) 4)
  | .viota d k => some (wVV 0x1D (eDst d) 0 0 k false (dstBit d) 5)
  | .vnz d a k => some (wVV 0x1D (eDst d) a 0 k false (dstBit d) 6)
  | .vmatch kd a k => some (wVV 0x1D (0#1 ++ kd) a 0 k false false 7)
  | .vbcast d b k => some (wVV 0x1D (eDst d) 0 b k false (dstBit d) 8)
  | .vext d a b => some (wVV 0x1D d a b 0 false false 9)
  | .vmv d b => some (wVV 0x1D (eDst d) 0 (eSrc b) 0 (srcBit b) (dstBit d) 10)
  | .vrand d k => some (wVV 0x1D (eDst d) 0 0 k false (dstBit d) 11)
  | .vredsum d a k => some (wVV 0x1E (eDst d) a 0 k false (dstBit d) 0)
  | .vfredsum d a k => some (wVV 0x1E (eDst d) a 0 k false (dstBit d) 1)
  | .vredmax d a k => some (wVV 0x1E (eDst d) a 0 k false (dstBit d) 2)
  | .vredmin d a k => some (wVV 0x1E (eDst d) a 0 k false (dstBit d) 3)
  | .vfredmax d a k => some (wVV 0x1E (eDst d) a 0 k false (dstBit d) 4)
  | .vfredmin d a k => some (wVV 0x1E (eDst d) a 0 k false (dstBit d) 5)
  | .vscan d a k => some (wVV 0x1E (eDst d) a 0 k false (dstBit d) 6)
  | .vcvt d s b k => some (wVV 0x1F (eDst d) s (eSrc b) k (srcBit b) (dstBit d) 0)
  | .vclamp d b k => some (wVV 0x1F (eDst d) 0 (eSrc b) k (srcBit b) (dstBit d) 1)
  | .vscl d a b k => some (wVV 0x1F (eDst d) a (eSrc b) k (srcBit b) (dstBit d) 2)
  | .vsclVs d a b k => some (wVV 0x1F (eDst d) a b k false (dstBit d) 18)
  | .vamax d a k => some (wVV 0x1F (eDst d) a 0 k false (dstBit d) 3)
  | .vopt d a k => some (wVV 0x20 d a 0 k false false 0)
  | .xsetb a => some (wVV 0x21 0 a 0 0 false false 0)
  | .xloss b k => some (wVV 0x21 0 0 (eSrc b) k (srcBit b) false 1)
  | .xnacc a b k => some (wVV 0x21 0 a (eSrc b) k (srcBit b) false 2)
  | .xnaccSingle a k => some (wVV 0x21 1 a 0 k false false 2)
  | .xgram e a b k => some (wVV 0x21 e a (eSrc b) k (srcBit b) false 3)
  | .xnorm d k => some (wVV 0x21 (eDst d) 0 0 k false (dstBit d) 4)
  | .xgate d b k => some (wVV 0x21 (eDst d) 0 (eSrc b) k (srcBit b) (dstBit d) 5)
  | .xcomp d c s k => some (wVV 0x21 (eDst d) c s k false (dstBit d) 6)
  | .xwt d k => some (wVV 0x21 (eDst d) 0 0 k false (dstBit d) 7)
  | .xclr a b => some (wVV 0x21 0 a b 0 false false 8)
  | .matt d a => some (wVV 0x22 d a 0 0 false false 0)
  | .mdet => some (wVV 0x22 0 0 0 0 false false 1)
  | .mlds b => some (wVV 0x22 0 0 (eSrc b) 0 (srcBit b) false 2)
  | .mswap => some (wVV 0x22 0 0 0 0 false false 3)
  | .mstr c a b => some (wVV 0x22 (0#4 ++ c) a (eSrc b) 0 (srcBit b) false 4)
  | .mzero c => some (wVV 0x22 (0#4 ++ c) 0 0 0 false false 5)
  | .mdrn c a d v => some (wVV 0x22 (0#4 ++ c) a (eDst d) (0#3 ++ BitVec.ofBool v) false (dstBit d) 6)
  | .albld b l f => some (wVV 0x23 0 0 (eSrc b) (0#2 ++ BitVec.ofBool l ++ BitVec.ofBool f) (srcBit b) false 0)
  | .msamp c a y z i => some (wVV 0x23 (0#4 ++ c) a (0#1 ++ y ++ z) (0#2 ++ i) false false 1)
  | .mstat d s => some (wVV 0x23 d s 0 0 false false 2)
  | .amoAdd d a b o => some (w6 0x24 d a b (0#1 ++ 0#4) (eAmo o))
  | .amoFadd d a b o => some (w6 0x24 d a b (1#1 ++ 1#4) (eAmo o))
  | .amoMax d a b f o => some (w6 0x24 d a b (BitVec.ofBool f ++ 2#4) (eAmo o))
  | .amoMin d a b f o => some (w6 0x24 d a b (BitVec.ofBool f ++ 3#4) (eAmo o))
  | .amoMaxn d a b o => some (w6 0x24 d a b (0#1 ++ 4#4) (eAmo o))
  | .amoMinn d a b o => some (w6 0x24 d a b (0#1 ++ 5#4) (eAmo o))
  | .amoXchg d a b o => some (w6 0x24 d a b (0#1 ++ 6#4) (eAmo o))
  | .amoCas d a b o => some (w6 0x24 d a b (0#1 ++ 7#4) (eAmo o))
  | .amoAnd d a b o => some (w6 0x24 d a b (0#1 ++ 8#4) (eAmo o))
  | .amoOr d a b o => some (w6 0x24 d a b (0#1 ++ 9#4) (eAmo o))
  | .amoMaxrs d a b f o => some (w6 0x24 d a b (BitVec.ofBool f ++ 10#4) (eAmo o))
  | .vamoAdd q a i m => some (wVm 0x25 (eQ q) a (eQ i) m 0 0)
  | .vamoFadd q a i m => some (wVm 0x25 (eQ q) a (eQ i) m 0 1)
  | .vamoMax q a i m => some (wVm 0x25 (eQ q) a (eQ i) m 0 2)
  | .vamoMin q a i m => some (wVm 0x25 (eQ q) a (eQ i) m 0 3)
  | .awin a b o w => some (wVm 0x26 0 a b false (o ++ w) 0)
  | .aacc q i m w => some (wVm 0x26 (eQ q) 0 (eQ i) m (0#3 ++ w) 1)
  | .amerge w => some (wVm 0x26 0 0 0 false (0#3 ++ w) 2)
  | .awclose w => some (wVm 0x26 0 0 0 false (0#3 ++ w) 3)
  | .post a b l => some (w6 0x27 0 a b l 0)
  | .wait a l => some (w6 0x27 0 a 0 l 1)
  | .lpbind l => some (w6 0x27 0 0 0 l 2)
  | .barr d a => some (w6 0x27 d a 0 0 3)
  | .bwait d a => some (w6 0x27 d a 0 0 4)
  | .binit a b => some (w6 0x27 0 a b 0 5)
  | .mwait d a b => some (w6 0x27 d a b 0 6)
  | .fenceSv => some (w6 0x28 0 0 0 0 0)
  | .fenceVs => some (w6 0x28 0 0 0 0 1)
  | .fenceAcq s => some (w6 0x28 0 0 0 s 2)
  | .fenceRel s => some (w6 0x28 0 0 0 s 3)
  | .fenceFull s => some (w6 0x28 0 0 0 s 4)
  | .fenceXp => some (w6 0x28 0 0 0 0 5)
  | .fenceEng => some (w6 0x28 0 0 0 0 6)
  | .sopen s a b x y => some (w6 0x29 s a b (x ++ y ++ 0#1) 0)
  | .sopenR s => some (w6 0x29 s 0 0 1 0)
  | .sclose s => some (w6 0x29 s 0 0 0 1)
  | .swait d a s => some (w6 0x29 d a s 0 2)
  | .savail d s => some (w6 0x29 d 0 s 0 3)
  | .scancel s => some (w6 0x29 s 0 0 0 4)
  | .strig s a b c => some (w6 0x29 s a b (0#4 ++ BitVec.ofBool c) 5)
  | .ejob d a c => some (w6 0x2A d a 0 (0#4 ++ BitVec.ofBool c) 0)
  | .estat d a => some (w6 0x2A d a 0 0 1)
  | .aemap d a b => some (w6 0x2A d a b 0 2)
  | .launch d a b => some (w6 0x2B d a b 0 0)
  | .tdone => some (w6 0x2B 0 0 0 0 1)
  | .tyield => some (w6 0x2B 0 0 0 0 2)
  | .tid d s => some (w6 0x2B d 0 0 s 3)
  | .strip d => some (w6 0x2B d 0 0 0 4)
  | .repq d => some (w6 0x2C d 0 0 0 0)
  | .rsig d => some (w6 0x2C d 0 0 0 1)
  | .uien s => some (w6 0x2D s 0 0 0 0)
  | .uienOff s => some (w6 0x2D s 0 0 1 0)
  | .uiret => some (w6 0x2D 0 0 0 0 1)
  | .pfx k v c e => some (wImm 0x2E (k ++ BitVec.ofBool v) c (BitVec.ofBool e ++ 0#15))
  | .crr r n => some (wCr r n 0)
  | .crw r n => some (wCr r n 1)
  | .crs r n => some (wCr r n 2)
  | .crc r n => some (wCr r n 3)
  | .sys n => some (w6 0x30 0 0 (n.extractLsb' 5 5) (n.extractLsb' 0 5) 0)
  | .eret => some (w6 0x30 0 0 0 0 1)
  | .brk n => some (w6 0x30 0 0 (n.extractLsb' 5 5) (n.extractLsb' 0 5) 2)
  | .idle => some (w6 0x30 0 0 0 0 3)
  | .nop => some (w6 0x30 0 0 0 0 4)
  | .ctxsave a => some (w6 0x31 0 a 0 0 0)
  | .ctxsaveLeave a => some (w6 0x31 0 a 0 1 0)
  | .ctxload a => some (w6 0x31 0 a 0 0 1)
  | .tlbinvAll a b => some (w6 0x31 0 a b 0 2)
  | .tlbinvAsn a b => some (w6 0x31 0 a b 1 2)
  | .tlbinvPage a b => some (w6 0x31 0 a b 2 2)
  | .dcwb a b => some (w6 0x31 0 a b 0 3)
  | .dcinv a b => some (w6 0x31 0 a b 0 4)
  | _ => none

/-- Four bytes at rising addresses, little-endian (R2). -/
def wordOfBytes : List Byte → Option (BitVec 32)
  | [b0, b1, b2, b3] => some (b3 ++ b2 ++ b1 ++ b0)
  | _ => none

/-- The decoder on the bytes of memory at an instruction's address. -/
def decodeBytes (bs : List Byte) : Except Reject Instr :=
  match wordOfBytes bs with
  | some w => decode w
  | none => .error .field

/-- The bytes of a word as they lie in memory, lowest address first (R2). -/
def bytesOfWord (w : BitVec 32) : List Byte :=
  [w.extractLsb' 0 8, w.extractLsb' 8 8, w.extractLsb' 16 8, w.extractLsb' 24 8]

/-- The host's question: the instruction this decoder reads from a word numbered as the opcode table numbers it. -/
def decodeTableWord (_nbits w : Nat) : Option Instr :=
  match decodeBytes (bytesOfWord (BitVec.ofNat 32 w)) with
  | .ok i => some i
  | .error _ => none

end Sys2Proof
end

