-- ==== Sys2Proof/Config.lean ====
section
/-! DEFINITION. What the part fixes (sizes and depths of R11, R22 and others) and the free values: constants without a body, so
that no proof can know what they are. -/

namespace Sys2Proof

/-! Sizes and depths. -/

/-- Built depth of a vector data queue (R22). -/
def Config.vqDepth : Nat := 8
/-- Built depth of a token queue (R22). -/
def Config.tokDepth : Nat := 32
/-- Built depth of the mask queue (R22). -/
def Config.kqDepth : Nat := 16
/-- Entries of the grant FIFO (R51). -/
def Config.grantDepth : Nat := 4
/-- User cores of the module and of a die (R11, R14). -/
def Config.cores : Nat := 640
def Config.dieCores : Nat := 160
/-- Boot cores of the module, two a die: for firmware only, and numbered here from `cores` on (R11, R17; log entry 61). -/
def Config.bootCores : Nat := 8
/-- Lines of 128 bytes that a die's cache of 128 MiB holds (R11, R94). -/
def Config.dieLines : Nat := 2 ^ 20
/-- Entries of a core's first-level TLB and of a quad's second-level TLB (R100). -/
def Config.l1Entries : Nat := 128
def Config.l2Entries : Nat := 4096
/-- First-tier bytes of a die, 96 GiB, and second-tier bytes of a die, 4,096 GiB (R11). -/
def Config.tier0Bytes : Nat := 96 * 2 ^ 30
def Config.tier1Bytes : Nat := 4096 * 2 ^ 30
/-- Monitor-table entries of a die (R147). -/
def Config.monitors : Nat := 64
/-- Lines of a scalar cache: 64 KiB of 64-byte lines (R96). -/
def Config.cacheLines : Nat := 1024
/-- Elements and bytes a release buffer holds (R246). -/
def Config.bufElems : Nat := 4096
def Config.bufBytes : Nat := 65536
/-- Open chunks a home die keeps for a group (R220). -/
def Config.openChunks : Nat := 16

/-! Free values. -/

/-- The cycles that a core counts in a step, by the core and the step's number: the spec gives no instruction's cycle count, and no two
cores' counts are related (R46, R19). Log entry 6. -/
opaque Config.elapsed : Nat → Nat → Word
/-- A byte that another module of the domain returns, by the number of the draw. Log entry 20. -/
opaque Config.remoteByte : Nat → Byte
/-- Whether an element fails at another module, by the number of the draw (R218). Log entry 20. -/
opaque Config.remoteFails : Nat → Bool

/-- Bytes 1 to 31 of the NaN block that a conversion to k4s makes of elements one of which is NaN: the spec gives only its scale (R78). By
the element index of the block and the significands of its elements. Log entry 78. -/
opaque Config.nanBlock : Nat → List Nat → BitVec 248

end Sys2Proof
end

