-- ==== Sys2Proof/Machine/State.lean ====
section
/-! DEFINITION. The state of the K640 module as plain data: the braid in focus with its context (R164), the other braids, memory,
translations, tasks, launch queues, engine jobs, barriers, host registers and the fabric; why a step stops; the state after reset. -/

namespace Sys2Proof.Machine

/-- The privilege levels, least first (R8). -/
inductive Level where
  | user
  | system
  | firmware
deriving DecidableEq, Repr

/-- One entry of a vector data queue: its bits, its all-false flag, and for a partial load-queue entry how many elements it
holds (R22, R59, R102). -/
structure Entry where
  data : VReg
  flagged : Bool
  part : Option Nat
deriving DecidableEq, Repr

/-- One entry of kq (R22, R313). -/
structure KEntry where
  bits : Mask
  flagged : Bool
deriving DecidableEq, Repr

/-- The registers each hart has a copy of (R291, scope Hart). -/
structure HartRegs where
  vl : BitVec 12
  vt : BitVec 5
  es : BitVec 12
  eei : Word
  fctl : BitVec 8
  fsts : Flags
  seed : Word
  dord : Word
  lstrip : Word
deriving DecidableEq, Repr

/-- The A-hart's user and context control registers (R291, scope A). -/
structure ARegs where
  mt : BitVec 2
  trec : Word
  zl : BitVec 8
  cgrp : Word
  cop : BitVec 3
  cstr : BitVec 21
  cstat : BitVec 16
  tstep : Word
  lvec : Word
  pgroot : Word
  asn : BitVec 16
deriving DecidableEq, Repr

/-- The X-hart's control registers (R291, scope X): sampling (R208), the table and gate (R191), the optimiser (R226). `statTag`
names the accumulator the statistics describe (R208). -/
structure XRegs where
  pfl : BitVec 12
  mgrant : BitVec 3
  mz : Word
  mscnt : Word
  mvar : Word
  mfro : Word
  mtgt : Word
  statTag : BitVec 1
  xbase : BitVec 8
  gdrop : BitVec 32
  gclip : BitVec 32
  gtau : BitVec 32
  gmode : BitVec 1
  ob1 : BitVec 32
  ob2 : BitVec 32
  olr : BitVec 32
  oeps : BitVec 32
  owd : BitVec 32
  oc1 : BitVec 32
  oc2 : BitVec 32
deriving DecidableEq, Repr

/-- One unmatched grant (R51): who asked, the request, the type, the grant and the cap it was decided under (R48). -/
structure Grant where
  by_ : Hart
  req : Word
  ty : BitVec 5
  g : Nat
  cap : BitVec 12
deriving DecidableEq, Repr

/-- The five states of a stream (R105). -/
inductive StreamState where
  | idle
  | active
  | finished
  | cancelled
  | faulted
deriving DecidableEq, Repr

/-- A latched group descriptor (R215, R216). -/
structure Group where
  arr : Bool
  w64 : Bool
  status : Word
  members : List Nat
deriving DecidableEq, Repr

/-- A pending trigger of a stream: its threshold and its job (R109). -/
structure Trigger where
  thr : Nat
  job : Nat
deriving DecidableEq, Repr

/-- A stream (R104-R110). `fault` is the record of a fault: the underlying cause and whether its trap was taken. -/
structure Stream where
  st : StreamState
  src : Word
  dst : Word
  sx : BitVec 2
  sy : BitVec 2
  n : Nat
  ty : BitVec 5
  ctr : Nat
  cursor : Nat
  trigs : List Trigger
  fault : Option Nat
  told : Bool
  grp : Option Group
  stride : Nat
deriving DecidableEq, Repr

/-- An open accumulation window (R140): base, length, pool place, operation and type. -/
structure Window where
  base : Word
  len : Nat
  pool : Nat
  op : BitVec 3
  ty : BitVec 5
deriving DecidableEq, Repr

/-- An entry of the example table (R189). -/
structure XEntry where
  nsq : Word
  loss : BitVec 32
  w : BitVec 32
  flags : BitVec 8
deriving DecidableEq, Repr

/-- A stationary plane over all held slices (R176-R178): its type, and for an element type its K rows of 64 elements, for a block
type its slices of 64 blocks, in ascending K. The number of rows is the fill cursor, and Ka once active. -/
structure Plane where
  ty : BitVec 5
  rows : List VReg
deriving DecidableEq, Repr

/-- An accumulator of 16 KiB with its format and cursors (R179). -/
structure Acc where
  f64 : Bool
  data : BitVec 131072
  sc : Nat
  dc : Nat
deriving DecidableEq, Repr

/-- The batch of an `msamp` stopped inside it (R214): indices, scales, whether its token was pushed, index entries pushed, B rows
and A columns popped so far. -/
structure Batch where
  ks : List Nat
  sig : List (BitVec 32)
  token : Bool
  pushed : Nat
  bRows : List VReg
  aCols : List VReg
deriving DecidableEq, Repr

/-- The matrix attachment (R164, R176-R179). -/
structure Matrix where
  active : Plane
  shadow : Plane
  acc0 : Acc
  acc1 : Acc
  batch : Option Batch
deriving DecidableEq, Repr

/-- A braid's context (R164), with the strip cursors of R40. `sh` is the landing shadow bank of a24-a31, `kf` the masks'
all-false flags, `capX` the cap the X-hart's registers obey until its next pair member (R48). -/
structure Ctx where
  a : Vector Word 32
  sh : Vector Word 8
  x : Vector Word 32
  v : Vector VReg 32
  k : Vector Mask 16
  kf : BitVec 16
  lq : Vector (List Entry) 4
  sq : Vector (List Entry) 4
  tqa : List Word
  tqx : List Word
  kq : List KEntry
  ra : HartRegs
  rx : HartRegs
  ac : ARegs
  xc : XRegs
  vcap : BitVec 12
  capX : BitVec 12
  bound : BitVec 32
  grants : List Grant
  streams : Vector Stream 8
  landEn : BitVec 8
  landPend : BitVec 8
  retLatch : Word
  inLand : Bool
  wins : Vector (Option Window) 4
  grp : Option Group
  xt : List XEntry
  mx : Matrix
  pcA : Word
  pcX : Word
  endA : Bool
  endX : Bool
  curA : Nat
  curX : Nat
  /-- the elements that the instruction an X-hart stopped inside has saturated, which it marks when it completes (R67, R80) -/
  satP : Mask
deriving DecidableEq, Repr

/-- A queue a hart can wait on (R23, R51). -/
inductive QName where
  | lq (n : BitVec 2)
  | sq (n : BitVec 2)
  | tqa
  | tqx
  | kq
  | grant
deriving DecidableEq, Repr

/-- What a hart waits on (R42, R24). -/
inductive Wait where
  /-- a pop from an empty queue -/
  | pop (q : QName)
  /-- a push to a full queue, or a fifth unmatched grant -/
  | push (q : QName)
  /-- `setvls` on its stream's trim (R53, R54) -/
  | trim (d : Reg) (req : Word) (s t : Reg)
  /-- `bwait` (R146) -/
  | barrier (d : Reg) (tok : Word)
  /-- `wait` (R316) -/
  | almanac (l : Reg) (n : Nat)
  /-- `post` with no pending range free (R316) -/
  | post (l : Reg) (n cnt : Nat)
  /-- `mwait` (R318) -/
  | word (d : Reg) (va old : Word)
  /-- `swait` (R107) -/
  | stream (d s : Reg) (thr : Word)
  /-- `tdone` (R43) -/
  | drain
  /-- `fence.eng` (R129) -/
  | engines
  /-- `idle` (R163) -/
  | idle
  /-- a submission with 64 unfinished jobs (R236) -/
  | jobs
  /-- a fifth `strig` (R109) -/
  | trigs (n : BitVec 3)
  /-- a follower's `matt` (R172) -/
  | slices (d : Reg) (g : Nat)
  /-- `ctxload` short of slices (R307) -/
  | reattach (n : Nat)
  /-- a fabric store whose channel or chunk has no room (R220), or a collective store that has not left the core (R130) -/
  | fabric
  /-- the grant of a pair that the leader has not yet given (R247) -/
  | pair
  /-- a release of the replica set (R245) -/
  | release
  /-- the release that a full buffer forces (R246) -/
  | forced
  /-- a value the leader forwards (R247) -/
  | forward
  /-- `tlbinv`, or an element of `vldo`, until the release buffer is empty (R127, R325) -/
  | buffered
  /-- a trap that every member of the set takes together (R305): its cause and `eei`; `past` if the instruction completes first -/
  | trap (cause : Nat) (eei : Word) (past : Bool)
deriving DecidableEq, Repr

/-- A line of a scalar cache, by physical line number: 64 bytes, a dirty bit a byte, a poison mark a word (R96, R356). -/
structure Line where
  tag : Nat
  data : BitVec 512
  dirty : BitVec 64
  bad : BitVec 8
deriving DecidableEq, Repr

/-- A store element that has not performed: the space, the address as formed, where its bytes lie (for the hart's own loads), size and
data. -/
structure BufItem where
  space : BitVec 2
  va : Word
  key : Nat
  size : Nat
  data : Nat
  /-- fabric stores keep the `cop`, `vt`, group and chunk size they were issued under (R218, R295) -/
  op : BitVec 3
  ty : BitVec 5
  grp : Option Group
  stride : Nat
  /-- it takes its ticket when it performs (R127) -/
  ticketed : Bool
  /-- its bytes lie in this module, at `key`; else they lie at another member, or in a chunk that combines them -/
  home : Bool
  /-- one more than the widest scope to which a release has ordered it, 0 for none (R117) -/
  level : Nat
deriving DecidableEq, Repr

/-- A braid's alias-table share (R206, R209). `weights` are those appended to an open or built table. -/
structure AliasTab where
  weights : List (BitVec 32)
  thr : List Nat
  alias_ : List Nat
  valid : Bool
  open_ : Bool
deriving DecidableEq, Repr

/-- What a release records so that a window can run again (R245, R249): the context, what the handler and the harts hold beside it, and how
far the forwarded values were taken. -/
structure Check where
  ctx : Ctx
  level : Level
  sysb : Vector Word 8
  cause : BitVec 8
  epc : Word
  tvec : Word
  status : BitVec 12
  pcH : Word
  endS : Bool
  loaded : Option Ctx
  entryCtx : Option Ctx
  irq32 : Bool
  irq34 : Bool
  irq35 : Bool
  hwm : Vector Nat 32
  binds : BitVec 16
  jobsIssued : Nat
  tab : AliasTab
  retA : Nat
  retX : Nat
  fwdA : Nat
  fwdX : Nat
  fwdF : Nat
  pairsA : Nat
  pairsX : Nat
  due : BitVec 3
  landDue : BitVec 8
  landAt : Nat
  posA : Nat
  posX : Nat
  done : Nat
  held : Nat
  agreedA : Bool
  agreedX : Bool
  agHeld : Bool
deriving DecidableEq, Repr

/-- A braid: its context and what stands outside it. -/
structure Braid where
  ctx : Ctx
  id : Nat
  live : Bool
  left : Bool
  savedAt : Option Nat
  core : Nat
  task : Nat
  idx : Nat
  rep : Nat
  level : Level
  sysb : Vector Word 8
  cause : BitVec 8
  epc : Word
  tvec : Word
  status : BitVec 12
  pcH : Word
  /-- `tdone` has ended the A-hart's stream inside the system handler (R43; log entry 73) -/
  endS : Bool
  loaded : Option Ctx
  /-- the interrupted harts' context as it stood when the handler was entered (R167) -/
  entryCtx : Option Ctx
  waitA : Option Wait
  waitX : Option Wait
  irq32 : Bool
  irq34 : Bool
  irq35 : Bool
  cache : List Line
  hwm : Vector Nat 32
  binds : BitVec 16
  jobsIssued : Nat
  monitor : Bool
  tab : AliasTab
  crcA : Word
  crcX : Word
  retA : Nat
  retX : Nat
  buf : List BufItem
  /-- Operations of the A-hart's vector access under way that are done, while it waits inside it (R246, R247). -/
  memDone : Nat
  /-- `memDone` of the access that a handler interrupted (R67) -/
  memHeld : Nat
  chk : Option Check
  /-- the hart that stands at a release point, and the record that it signs there (R243, R245) -/
  atRel : Option Hart
  relRec : List Nat
  /-- the set has agreed the release at which the hart stands (R245) -/
  agreedA : Bool
  agreedX : Bool
  /-- `agreedA` of the instruction that a handler interrupted -/
  agHeld : Bool
  /-- values taken in this run of the window: by each hart, and stream faults; and the most that the A-hart has taken in any run of it -/
  fwdA : Nat
  fwdX : Nat
  fwdF : Nat
  tookA : Nat
  /-- length pairs that each hart has met since dispatch (R51, R247) -/
  pairsA : Nat
  pairsX : Nat
  /-- interrupts 35, 32 and 34 that were pending at the set's last release, and the landings (R151, R247), with the counts at which the
  harts take interrupts and the A-hart landings -/
  due : BitVec 3
  landDue : BitVec 8
  landAt : Nat
  posA : Nat
  posX : Nat
  /-- the moment from which it asks for slices it has not got (R156, R172, R307) -/
  askAge : Option Nat
  /-- vector stores that have not performed, oldest first (R122) -/
  out : List BufItem
deriving DecidableEq, Repr

/-- One loop id of a task (R143): its frontier and its pending ranges (first, one past last), rising. -/
structure Loop where
  f : Nat
  pend : List (Nat × Nat)
deriving DecidableEq, Repr

/-- A level record of a card (R26). -/
structure LevelRec where
  extent : Nat
  strip : Nat
  kind : Nat
deriving DecidableEq, Repr

/-- A region of a footprint (R28): base, length, mode (1 read, 2 write, 3 shared-mutable). -/
structure Region where
  base : Nat
  len : Nat
  mode : Nat
deriving DecidableEq, Repr

/-- Where a task stands (R44, R148-R150). -/
inductive TaskState where
  | waiting
  | running
  | preempting
  | preempted
  | done
deriving DecidableEq, Repr

/-- A task: its card's fields, the context it was launched in, its parent if it inherits, its place, its loop ids, and the cause
that failed it. `prio0` is the card's priority, `boost` what aging added (R45). -/
structure Task where
  id : Nat
  q : Nat
  aentry : Word
  xentry : Word
  levels : List LevelRec
  xsize : Nat
  prio0 : Nat
  boost : Nat
  losses : Nat
  inherit_ : Bool
  hostint : Bool
  check : Bool
  det : Bool
  reps : Nat
  canon : Nat
  ncores : Nat
  cword : Nat
  domain : BitVec 64
  regions : List Region
  root : Word
  asn : BitVec 16
  parent : Option Nat
  age : Nat
  started : Nat
  st : TaskState
  loops : List Loop
  failed : Option Nat
deriving DecidableEq, Repr

/-- A card address in a launch queue (R32, R148), with the context it is read in (R99), the task that launched it, and whether it
came through a host window. -/
structure CardRef where
  q : Nat
  addr : Word
  root : Word
  asn : BitVec 16
  parent : Option Nat
  host : Bool
  age : Nat
deriving DecidableEq, Repr

/-- Where a job stands (R109, R237). -/
inductive JobState where
  | registered
  | waiting
  | running
  | completed
  | failed
  | discarded
deriving DecidableEq, Repr

/-- An engine job (R231-R239): the braid and task that submitted it, its number in the braid (0 for a triggered job), its class
and card bytes, the map image of an `aemap`, the address of its state header, the cause that fails it, its translation context, its
footprint as it was at issue, its place in the order of R30, and the member bits of its state. -/
structure Job where
  id : Nat
  braid : Nat
  task : Nat
  num : Nat
  cls : Nat
  card : List Byte
  image : Option (List Byte)
  hdrAddr : Word
  st : JobState
  cause : Nat
  root : Word
  asn : BitVec 16
  grp : Option Group
  srcStream : Option (BitVec 3)
  regions : List Region
  age : Nat
  mbits : Nat
deriving DecidableEq, Repr

/-- A barrier (R145). -/
structure Barrier where
  count : BitVec 16
  phase : BitVec 8
  arrivals : BitVec 16
deriving DecidableEq, Repr

/-- A stream fault as a set takes it (R110, R247): the instructions the A-hart had retired, the stream, the underlying cause, the
element. -/
structure FaultRec where
  ret : Nat
  stream : BitVec 3
  cause : Nat
  index : Nat
deriving DecidableEq, Repr

/-- Where a hart stands (R67, R151): the instructions it has retired, and of the next one its `es` and the operations done since. -/
structure Pos where
  count : Nat
  es : Nat
  done : Nat
deriving DecidableEq, Repr

/-- A replica set (R241-R251): its members' braid numbers with their replica indexes, the leader's index, agreed releases,
degraded, the comparisons that failed and that the set has not passed since, each by its hart and where that stood, and what the leader
decided in the window: the values forwarded to each hart, the grants by pair number, which pairs the trim could serve, the stream
faults. -/
structure RSet where
  task : Nat
  idx : Nat
  members : List (Nat × Nat)
  leader : Nat
  rel : Nat
  degraded : Bool
  failed : List (Hart × Pos)
  logA : List Nat
  logX : List Nat
  pairs : List (Nat × Grant)
  trims : List (Nat × Nat)
  logF : List FaultRec
  /-- where a pre-emption makes each hart stop for a release: the furthest that a member reported (R151) -/
  stop : Option (Pos × Pos)
  /-- `repq`'s count and degraded, as they stood at the last agreed release (R252) -/
  count0 : Nat
  deg0 : Bool
deriving DecidableEq, Repr

/-- Which TLB holds an entry (R100): a core's first level, a quad's second level, or those of the engines, streams, dispatcher and
aperture. -/
inductive TlbSite where
  | l1 (core : Nat)
  | l2 (quad : Nat)
  | agents
deriving DecidableEq, Repr

/-- A translation held in a TLB (R100): where, its ASN, page base, page size and leaf entry. -/
structure TlbEntry where
  site : TlbSite
  asn : BitVec 16
  vbase : Nat
  size : Nat
  pte : Word
deriving DecidableEq, Repr

/-- A chunk at its home (R219-R223): its number, the group, how it combines, and the elements each rank delivered, oldest first,
as (rank, offset, data, size). `order` lists the ranks whose slots are full, in the order they filled; `rounds` counts completed
rounds. A chunk between rounds is not open. -/
structure Chunk where
  q : Nat
  die : Nat
  op : BitVec 3
  ty : BitVec 5
  stride : Nat
  arr : Bool
  w64 : Bool
  status : Word
  members : List Nat
  root : Word
  asn : BitVec 16
  slots : List (Nat × Nat × Nat × Nat)
  order : List Nat
  isOpen : Bool
  rounds : Nat
  /-- a member of its group is lost, and it takes no more elements (R224) -/
  dead : Bool
deriving DecidableEq, Repr

/-- An element that waits in the fabric for its chunk, and the braid of this module that stored it, if one did (R218, R220). -/
structure Arrival where
  e : FabElem
  by_ : Option Nat
deriving DecidableEq, Repr

/-- Bytes of memory: rising keys, none of them a byte an unlisted key already reads as. -/
abbrev Memory := List Host.Cell

/-- Who moves next (log entry 1): a hart, perhaps stopped after some element groups (R67), its vector stores performing later if `lazy`
(R122); an event; an eviction from a TLB or of a clean scalar-cache line; the die cache writing a line back; the dispatcher adding a
replica to a degraded set (R250); firmware naming the braid of interrupt 35 (R160), starting a boot core's braid (R11, R17), or reading the
ageing registers over the management port (R265); system software ending a braid, or its whole task, after a trap (R44); the oldest vector
store of a braid performing (R122); the oldest result of a completed chunk reaching memory (R130). -/
inductive Turn where
  | hart (b : Nat) (h : Hart) (stop : Option Nat) (lazy : Bool)
  | event (i : Instr)
  | tlbEvict (n : Nat)
  | cacheDrop (b line : Nat)
  | dieWriteback (line : Nat)
  | addReplica (t idx core : Nat)
  | nameHealth (b : Option Nat)
  | bootBraid (core : Nat) (entry : Word)
  | mgmtRead
  | sysEnd (b : Nat) (whole : Bool)
  | perform (b : Nat)
  | chunkWrite
deriving DecidableEq, Repr

/-- The module. -/
structure State where
  b : Braid
  hart : Hart
  rest : List Braid
  turns : List Turn
  egStop : Option Nat
  lazy : Bool
  mem : Memory
  poison : List Nat
  dram : Memory
  tlb : List TlbEntry
  tasks : List Task
  sets : List RSet
  cards : List CardRef
  winErr : BitVec 64
  jobs : List Job
  barriers : Vector Barrier 272
  lanes : List (Nat × Nat)
  slices : List (Nat × Nat)
  aproot : Word
  apasn : BitVec 16
  lmember : Word
  ticket : Nat
  apBase : Word
  modState : BitVec 2
  msix : List Nat
  pend34 : List Nat
  failedCold : Nat
  endOfLife : BitVec 16
  ageing : Ageing
  /-- what the management port returned: the prediction and the raw indicators (R265) -/
  mgmtReplies : List AgeingReport
  healthTo : Option Nat
  remap : List Nat
  outQuads : List Nat
  /-- physical quads that have failed (R16) -/
  badQuads : List Nat
  ports : BitVec 16
  mustCold : Bool
  chunks : List Chunk
  arrivals : List Arrival
  /-- elements sent to other members, each with its plane -/
  fabOut : List (Nat × FabElem)
  /-- results of completed chunks that have not reached memory: key, size, value (R130) -/
  xres : List (Nat × Nat × Nat)
  /-- what this module returned, in order: to the host for its reads and failed requests, none standing for an unsupported request
  (R255, R257), and to other members for fabric loads, with their failure (R218) -/
  hostReplies : List (Option Nat)
  loadReplies : List (Nat × Bool)
  lost : List (BitVec 8)
  ticks : Nat
  /-- the step at which the module's cores started to count (R46) -/
  startTick : Nat
  free : Nat
  nextId : Nat
  age : Nat
deriving DecidableEq, Repr

/-- Why a step stops with a fault. -/
inductive Fault where
  /-- No meaning raises it: every trap, double trap and failed access of the spec is a next state. Safe: the machine never stops so. -/
  | none_
deriving DecidableEq, Repr

/-- Why a step is refused. -/
inductive Refusal where
  /-- Raised by an arm of `exec` whose instruction has no meaning yet. Safe: the machine stops where the hardware goes on. -/
  | notModelled (mnemonic : String)
deriving DecidableEq, Repr

/-! Values at dispatch (R166) and at reset. -/

def HartRegs.init : HartRegs := ⟨0, 0, 0, 0, 0, 0, 0, 0, 0⟩
def ARegs.init : ARegs := ⟨0, 0, 0, 0, 0, 0, 0, 0, 0, 0, 0⟩

/-- R191: gdrop and gclip are +∞; the rest read zero. -/
def XRegs.init : XRegs :=
  ⟨0, 0, 0, 0, 0, 0, 0, 0, 0, 0x7F800000, 0x7F800000, 0, 0, 0, 0, 0, 0, 0, 0, 0⟩

/-- R108: a stream not opened since dispatch. -/
def Stream.init : Stream := ⟨.idle, 0, 0, 0, 0, 0, 0, 0, 0, [], none, false, none, 0⟩
def Plane.init : Plane := ⟨0, []⟩
/-- R179: never cleared since the grant, zeros in f32 format. -/
def Acc.init : Acc := ⟨false, 0, 0, 0⟩
def Matrix.init : Matrix := ⟨.init, .init, .init, .init, none⟩
def XEntry.init : XEntry := ⟨0, 0, 0, 0⟩
def AliasTab.init : AliasTab := ⟨[], [], [], false, false⟩
def Loop.init : Loop := ⟨0, []⟩
def Barrier.init : Barrier := ⟨0, 0, 0⟩

/-- R166: a braid's context at dispatch, but for what the card and R99 give. -/
def Ctx.init : Ctx where
  a := .replicate 32 0
  sh := .replicate 8 0
  x := .replicate 32 0
  v := .replicate 32 0
  k := .replicate 16 0
  kf := 0xFFFE
  lq := .replicate 4 []
  sq := .replicate 4 []
  tqa := []
  tqx := []
  kq := []
  ra := .init
  rx := .init
  ac := .init
  xc := .init
  vcap := 0x800
  capX := 0x800
  bound := 0
  grants := []
  streams := .replicate 8 .init
  landEn := 0
  landPend := 0
  retLatch := 0
  inLand := false
  wins := .replicate 4 none
  grp := none
  xt := []
  mx := .init
  pcA := 0
  pcX := 0
  endA := false
  endX := false
  curA := 0
  curX := 0
  satP := 0

/-- A braid at dispatch, not yet resident. `status`.ie is 1 (R162); every high-water mark is the last EG, 16 EGs (R166). -/
def Braid.init : Braid where
  ctx := .init
  id := 0
  live := false
  left := false
  savedAt := none
  core := 0
  task := 0
  idx := 0
  rep := 0
  level := .user
  sysb := .replicate 8 0
  cause := 0
  epc := 0
  tvec := 0
  status := 0x080
  pcH := 0
  endS := false
  loaded := none
  entryCtx := none
  waitA := none
  waitX := none
  irq32 := false
  irq34 := false
  irq35 := false
  cache := []
  hwm := .replicate 32 16
  binds := 0
  jobsIssued := 0
  monitor := false
  tab := .init
  crcA := 0
  crcX := 0
  retA := 0
  retX := 0
  buf := []
  memDone := 0
  memHeld := 0
  chk := none
  atRel := none
  relRec := []
  agreedA := false
  agreedX := false
  agHeld := false
  fwdA := 0
  fwdX := 0
  fwdF := 0
  tookA := 0
  pairsA := 0
  pairsX := 0
  due := 0
  landDue := 0
  landAt := 0
  posA := 0
  posX := 0
  askAge := none
  out := []

/-- The module right after reset: no braid is resident, the module is starting (R264), and `lmember` reads all ones, since no
Stavrek link has trained (R292). -/
def State.reset : State where
  b := .init
  hart := .A
  rest := []
  turns := []
  egStop := none
  lazy := false
  mem := []
  poison := []
  dram := []
  tlb := []
  tasks := []
  sets := []
  cards := []
  winErr := 0
  jobs := []
  barriers := .replicate 272 .init
  lanes := []
  slices := []
  aproot := 0
  apasn := 0
  lmember := 0xFFFFFFFFFFFFFFFF
  ticket := 0
  apBase := 0
  modState := 0
  msix := []
  pend34 := []
  failedCold := 0
  endOfLife := 0xFFFF
  ageing := ⟨.replicate 16 0, .replicate 640 0, .replicate 4 0⟩
  mgmtReplies := []
  healthTo := none
  remap := (List.range 160).map fun q => 42 * (q / 40) + q % 40
  outQuads := []
  badQuads := []
  ports := 0
  mustCold := true
  chunks := []
  arrivals := []
  fabOut := []
  xres := []
  hostReplies := []
  loadReplies := []
  lost := []
  ticks := 0
  startTick := 0
  free := 0
  nextId := 1
  age := 0

end Sys2Proof.Machine
end

