-- ==== Sys2Proof/Machine/Flags.lean ====
section
/-! DEFINITION. Numbers (spec/05): exact values, the floating formats R72, rounding R83 and R84 with the flags of R87, Dither R85,
conversion to integers R81, Clamp R80, and the block formats R75-R78. -/

namespace Sys2Proof.Machine

/-! Flags (R87). -/

def flagNX : Flags := 0x01
def flagUF : Flags := 0x02
def flagOF : Flags := 0x04
def flagDZ : Flags := 0x08
def flagNV : Flags := 0x10
def flagCL : Flags := 0x20
def flagSA : Flags := 0x40
def flagBN : Flags := 0x80

def flagIf (c : Bool) (f : Flags) : Flags := if c then f else 0

/-! Exact values. -/

/-- A value before rounding: no number, an infinity, or `m` × 2^`e` with a sign, zero keeping its sign (R73). An irrational or
non-dyadic value is held with enough bits and a last odd bit that stands for the rest, so that it rounds as the exact one does. -/
inductive FVal where
  | nan
  | inf (neg : Bool)
  | fin (neg : Bool) (m : Nat) (e : Int)
deriving DecidableEq, Repr

def FVal.isNan : FVal → Bool
  | .nan => true
  | _ => false
def FVal.isInf : FVal → Bool
  | .inf _ => true
  | _ => false
def FVal.isZero : FVal → Bool
  | .fin _ 0 _ => true
  | _ => false
def FVal.neg? : FVal → Bool
  | .nan => false
  | .inf n => n
  | .fin n _ _ => n
def FVal.abs : FVal → FVal
  | .nan => .nan
  | .inf _ => .inf false
  | .fin _ m e => .fin false m e
def FVal.negate : FVal → FVal
  | .nan => .nan
  | .inf n => .inf !n
  | .fin n m e => .fin (!n) m e
def FVal.withSign (n : Bool) : FVal → FVal
  | .nan => .nan
  | .inf _ => .inf n
  | .fin _ m e => .fin n m e

def FVal.ofInt (i : Int) : FVal := .fin (decide (i < 0)) i.natAbs 0
def FVal.zero : FVal := .fin false 0 0
def FVal.one : FVal := .fin false 1 0
/-- 2^`e`. -/
def FVal.pow2 (e : Int) : FVal := .fin false 1 e

def signedM (n : Bool) (m : Nat) : Int := if n then -(m : Int) else m

/-- The exact sum; a zero sum of unlike zeros or of cancelling values is −0 only when rounding toward −∞ (`down`). -/
def FVal.add (down : Bool) : FVal → FVal → FVal
  | .nan, _ => .nan
  | .inf _, .nan => .nan
  | .fin _ _ _, .nan => .nan
  | .inf a, .inf b => if a = b then .inf a else .nan
  | .inf a, .fin _ _ _ => .inf a
  | .fin _ _ _, .inf b => .inf b
  | .fin a m e, .fin b n f =>
    let g := min e f
    let v := signedM a (m <<< (e - g).toNat) + signedM b (n <<< (f - g).toNat)
    if v = 0 then .fin (if m = 0 ∧ n = 0 ∧ a = b then a else down) 0 g else .fin (decide (v < 0)) v.natAbs g

def FVal.sub (down : Bool) (x y : FVal) : FVal := x.add down y.negate

/-- The exact product. -/
def FVal.mul : FVal → FVal → FVal
  | .nan, _ => .nan
  | .inf _, .nan => .nan
  | .fin _ _ _, .nan => .nan
  | .inf a, .inf b => .inf (a != b)
  | .inf a, .fin b n _ => if n = 0 then .nan else .inf (a != b)
  | .fin a m _, .inf b => if m = 0 then .nan else .inf (a != b)
  | .fin a m e, .fin b n f => .fin (a != b) (m * n) (e + f)

/-- ∞ − ∞ (R73). -/
def FVal.addInvalid (x y : FVal) : Bool := x.isInf && y.isInf && (x.neg? != y.neg?)
/-- 0 × ∞ (R73). -/
def FVal.mulInvalid (x y : FVal) : Bool := (x.isInf && y.isZero) || (x.isZero && y.isInf)

/-- The quotient. -/
def FVal.div : FVal → FVal → FVal
  | .nan, _ => .nan
  | .inf _, .nan => .nan
  | .fin _ _ _, .nan => .nan
  | .inf _, .inf _ => .nan
  | .inf a, .fin b _ _ => .inf (a != b)
  | .fin a _ _, .inf b => .fin (a != b) 0 0
  | .fin a m e, .fin b n f =>
    if n = 0 then (if m = 0 then .nan else .inf (a != b))
    else
      let k := 160 + Nat.log2 n
      let p := m <<< k
      .fin (a != b) (2 * (p / n) + (if p % n = 0 then 0 else 1)) (e - f - k - 1)
/-- 0 / 0 (R73); ∞ / ∞ too, which R73's list leaves out (log entry 83). -/
def FVal.divInvalid (x y : FVal) : Bool := (x.isInf && y.isInf) || (x.isZero && y.isZero)

/-- The greatest `r` below 2^`bits` with r² ≤ n. -/
def isqrt (n : Nat) : Nat → Nat → Nat
  | 0, r => r
  | k + 1, r => if (r + 2 ^ k) * (r + 2 ^ k) ≤ n then isqrt n k (r + 2 ^ k) else isqrt n k r

/-- The square root, to 500 bits below the value's own last bit. -/
def FVal.sqrt : FVal → FVal
  | .nan => .nan
  | .inf n => if n then .nan else .inf false
  | .fin n m e =>
    if m = 0 then .fin n 0 0
    else if n then .nan
    else
      let odd := if e % 2 = 0 then 0 else 1
      let w := m <<< (1000 + odd)
      let r := isqrt w ((Nat.log2 w) / 2 + 1) 0
      .fin false (2 * r + (if r * r = w then 0 else 1)) ((e - odd) / 2 - 501)

/-- The order of two numbers; −0 equals +0. -/
def FVal.cmp : FVal → FVal → Option Ordering
  | .nan, _ => none
  | _, .nan => none
  | .inf a, .inf b => some (if a = b then .eq else if a then .lt else .gt)
  | .inf a, .fin _ _ _ => some (if a then .lt else .gt)
  | .fin _ _ _, .inf b => some (if b then .gt else .lt)
  | .fin a m e, .fin b n f =>
    let g := min e f
    some (compare (signedM a (m <<< (e - g).toNat)) (signedM b (n <<< (f - g).toNat)))

def FVal.lt (x y : FVal) : Bool := x.cmp y == some .lt
def FVal.eq (x y : FVal) : Bool := x.cmp y == some .eq

/-- The larger, with −0 below +0 and NaN if either is NaN (R134, R221). -/
def FVal.max (x y : FVal) : FVal :=
  if x.isNan || y.isNan then .nan
  else if x.lt y then y else if y.lt x then x else if x.neg? then y else x
def FVal.min (x y : FVal) : FVal :=
  if x.isNan || y.isNan then .nan
  else if x.lt y then x else if y.lt x then y else if x.neg? then x else y

/-! Floating formats (R72). -/

structure Fmt where
  mb : Nat
  eb : Nat
  bias : Nat
  /-- The format has infinities, and its NaNs are the other codes of the top exponent. -/
  ieee : Bool
  nan : Nat
deriving DecidableEq, Repr

def Fmt.f16 : Fmt := ⟨10, 5, 15, true, 0x7E00⟩
def Fmt.bf16 : Fmt := ⟨7, 8, 127, true, 0x7FC0⟩
def Fmt.f32 : Fmt := ⟨23, 8, 127, true, 0x7FC00000⟩
def Fmt.f64 : Fmt := ⟨52, 11, 1023, true, 0x7FF8000000000000⟩
def Fmt.e4m3 : Fmt := ⟨3, 4, 7, false, 0x7F⟩
def Fmt.e5m2 : Fmt := ⟨2, 5, 15, true, 0x7E⟩

/-- The exponent of the least subnormal's unit. -/
def Fmt.emin (f : Fmt) : Int := 1 - (f.bias : Int) - f.mb
/-- The code of the largest finite value. -/
def Fmt.maxCode (f : Fmt) : Nat := if f.ieee then 2 ^ (f.mb + f.eb) - 2 ^ f.mb - 1 else 2 ^ (f.mb + f.eb) - 2
def Fmt.signBit (f : Fmt) (n : Bool) : Nat := if n then 2 ^ (f.mb + f.eb) else 0
def Fmt.infCode (f : Fmt) : Nat := 2 ^ (f.mb + f.eb) - 2 ^ f.mb

/-- The value of a code. -/
def Fmt.decode (f : Fmt) (c : Nat) : FVal :=
  let m := c % 2 ^ f.mb
  let e := c / 2 ^ f.mb % 2 ^ f.eb
  let n := c.testBit (f.mb + f.eb)
  if e = 0 then .fin n m f.emin
  else if f.ieee ∧ e = 2 ^ f.eb - 1 then (if m = 0 then .inf n else .nan)
  else if !f.ieee ∧ e = 2 ^ f.eb - 1 ∧ m = 2 ^ f.mb - 1 then .nan
  else .fin n (2 ^ f.mb + m) (f.emin + e - 1)

def Fmt.maxVal (f : Fmt) : FVal := f.decode f.maxCode

/-! Rounding (R83, R84). -/

/-- R85: Dither of element `e`, from a hart's registers. -/
def dither (r : HartRegs) (e : Nat) : Word :=
  let key := r.seed ^^^ (r.lstrip <<< 32) ^^^ (r.dord * 0x0000000100000001)
  let z := key + BitVec.ofNat 64 (e + 1) * 0x9E3779B97F4A7C15
  let z := (z ^^^ (z >>> 30)) * 0xBF58476D1CE4E5B9
  let z := (z ^^^ (z >>> 27)) * 0x94D049BB133111EB
  z ^^^ (z >>> 31)

/-- A rounding step's mode and, for SR, its 24 dither bits. -/
structure Mode where
  rm : Nat
  r : Nat
deriving DecidableEq, Repr

def Mode.rne : Mode := ⟨0, 0⟩
def Mode.rtz : Mode := ⟨1, 0⟩
def Mode.down (o : Mode) : Bool := o.rm == 2

/-- R82: the mode of a hart for element `e`. -/
def HartRegs.mode (r : HartRegs) (e : Nat) : Mode :=
  let rm := (r.fctl.extractLsb' 0 3).toNat
  ⟨rm, if rm = 5 then ((dither r e) >>> 40).toNat else 0⟩
def HartRegs.sr (r : HartRegs) : Bool := r.fctl.extractLsb' 0 3 == 5
def HartRegs.fm (r : HartRegs) : Bool := r.fctl.getLsbD 3
def HartRegs.satk (r : HartRegs) : BitVec 4 := r.fctl.extractLsb' 4 4

/-- `m` × 2^`e` as a whole number of units 2^`u`, and whether that is inexact. -/
def roundAt (o : Mode) (neg : Bool) (m : Nat) (e u : Int) : Nat × Bool :=
  if u ≤ e then (m <<< (e - u).toNat, false)
  else
    let k := (u - e).toNat
    let q := m >>> k
    let d := m % 2 ^ k
    let up := match o.rm with
      | 0 => decide (2 * d > 2 ^ k) || (decide (2 * d = 2 ^ k) && q % 2 == 1)
      | 2 => neg && d != 0
      | 3 => !neg && d != 0
      | 4 => decide (2 * d ≥ 2 ^ k)
      | 5 => decide (o.r < (d <<< 24) >>> k)
      | _ => false
    (if up then q + 1 else q, d != 0)

/-- The code of a non-zero finite value rounded to the format with no upper limit to the exponent, whether that is inexact, and whether
it is tiny. A code above `maxCode` stands for a value above the largest finite one. -/
def Fmt.roundFin (f : Fmt) (o : Mode) (neg : Bool) (m : Nat) (e : Int) : Nat × Bool × Bool :=
  let top := e + Nat.log2 m - f.mb
  let u := max top f.emin
  let (q, x) := roundAt o neg m e u
  let (t, _) := roundAt o neg m e top
  let tiny := decide (top < f.emin) && !(decide (top + 1 = f.emin) && decide (2 ^ (f.mb + 1) ≤ t))
  (((u - f.emin).toNat) * 2 ^ f.mb + q, x, tiny)

/-- R83: an overflow gives infinity or the largest finite value. R84 says which under SR for a result raised past the largest finite value
only; one that was a unit or more past it already overflows to infinity too (log entry 79). -/
def overflowsToInf (o : Mode) (neg : Bool) : Bool :=
  match o.rm with
  | 1 => false
  | 2 => neg
  | 3 => !neg
  | _ => true

/-- Round(x, T) of R83: the code and the flags. -/
def Fmt.round (f : Fmt) (o : Mode) : FVal → Nat × Flags
  | .nan => (f.nan, 0)
  | .inf n => (f.signBit n + f.infCode, 0)
  | .fin n m e =>
    if m = 0 then (f.signBit n, 0)
    else
      let (c, x, tiny) := f.roundFin o n m e
      if f.maxCode < c then
        (f.signBit n + (if overflowsToInf o n then f.infCode else f.maxCode), flagOF ||| flagNX)
      else (f.signBit n + c, flagIf x flagNX ||| flagIf (x && tiny) flagUF)

/-- What `round` gives, as a value: an infinity stays one in e4m3 too, which has no code for it (R72). -/
def Fmt.rounded (f : Fmt) (o : Mode) (x : FVal) : FVal × Flags :=
  let q := f.round o x
  (if x.isInf || (q.2 &&& flagOF != 0 && overflowsToInf o x.neg?) then .inf x.neg? else f.decode q.1, q.2)

/-- An operation's result: NaN with NV if it was invalid, else rounded (R73). -/
def Fmt.result (f : Fmt) (o : Mode) (invalid : Bool) (x : FVal) : Nat × Flags :=
  if invalid then (f.nan, flagNV) else f.round o x

/-- R81: conversion to an integer type of `w` bits, signed or not. -/
def toInteger (o : Mode) (w : Nat) (signed : Bool) : FVal → Int × Flags
  | .nan => (0, flagNV)
  | .inf n => (if n then (if signed then -(2 ^ (w - 1) : Int) else 0) else (if signed then 2 ^ (w - 1) - 1 else 2 ^ w - 1), flagNX)
  | .fin n m e =>
    let (q, x) := roundAt o n m e 0
    let v := signedM n q
    let lo : Int := if signed then -(2 ^ (w - 1) : Int) else 0
    let hi : Int := if signed then 2 ^ (w - 1) - 1 else 2 ^ w - 1
    if v < lo then (lo, flagNX) else if hi < v then (hi, flagNX) else (v, flagIf x flagNX)

/-- Clamp(x, T) of R80: the code, the flags, and whether the element saturated in forerunner mode. -/
def Fmt.clamp (f : Fmt) (o : Mode) (fm : Bool) (cbound : BitVec 32) : FVal → Nat × Flags × Bool
  | .nan => (f.nan, 0, false)
  | x =>
    let cb := (Fmt.f32.decode cbound.toNat).abs
    let b := if fm || cb.isNan || cb.isZero then f.maxCode
      else (f.round .rtz (if f.maxVal.lt cb then f.maxVal else cb)).1
    let n := x.neg?
    let (c, fl) : Nat × Flags := match x with
      | .fin _ m e =>
        if m = 0 then (0, 0)
        else
          let (c, ix, tiny) := f.roundFin o n m e
          (c, flagIf ix flagNX ||| flagIf (ix && tiny) flagUF)
      | _ => (f.maxCode + 1, 0)
    if c ≤ b then (f.signBit n + c, fl, false)
    else (f.signBit n + b, fl ||| flagNX ||| (if fm then flagSA else flagCL), fm)

/-! Types (R70). -/

/-- SEW in bits, a block counting 256. -/
def sewOf (t : Reg) : Nat :=
  match t.toNat with
  | 0 => 8 | 1 => 16 | 2 => 32 | 3 => 64 | 4 => 8 | 5 => 16 | 6 => 32 | 7 => 64
  | 8 => 16 | 9 => 16 | 10 => 32 | 11 => 64 | 12 => 8 | 13 => 8 | 14 => 256 | 15 => 256 | 16 => 64 | 17 => 128
  | _ => 8
/-- Bytes of an element or block. -/
def bytesOf (t : Reg) : Nat := sewOf t / 8
/-- Elements or blocks in an EG (R47). -/
def egOf (t : Reg) : Nat := 1024 / sewOf t
/-- MAXVL under a cap (R47). -/
def maxVl (cap : Nat) (t : Reg) : Nat := 8 * cap / sewOf t

def isSigned (t : Reg) : Bool := decide (t.toNat < 4)
def isInt (t : Reg) : Bool := decide (t.toNat < 8)
def isBlock (t : Reg) : Bool := t == 14 || t == 15
def isComplex (t : Reg) : Bool := t == 16 || t == 17
/-- The format of a floating type, or of a part of a complex type. -/
def fmtOf (t : Reg) : Option Fmt :=
  match t.toNat with
  | 8 => some .f16 | 9 => some .bf16 | 10 => some .f32 | 11 => some .f64 | 12 => some .e4m3 | 13 => some .e5m2
  | 16 => some .f32 | 17 => some .f64
  | _ => none
/-- R71: f16, bf16, f32 and f64. -/
def isReal (t : Reg) : Bool := decide (8 ≤ t.toNat ∧ t.toNat ≤ 11)
/-- R71: the types of vector floating arithmetic. -/
def isFloatArith (t : Reg) : Bool := isReal t || isComplex t

/-- A code read as a two's complement integer of `w` bits. -/
def toSigned (w c : Nat) : Int := if c.testBit (w - 1) then (c : Int) - 2 ^ w else c
def ofSigned (w : Nat) (i : Int) : Nat := (i % 2 ^ w).toNat
/-- An element of an integer type as an integer. -/
def intVal (t : Reg) (c : Nat) : Int := if isSigned t then toSigned (sewOf t) c else c

/-! Block formats (R75-R78). -/

/-- R78's F. -/
def blockMax (t : Reg) : Nat := if t = 14 then 448 else 7
def blockElems (t : Reg) : Nat := if t = 14 then 31 else 62

/-- R75: the elements of an e4m3s block. -/
def decodeE4m3s (blk : Nat) : List FVal :=
  let s := blk % 256
  (List.range 31).map fun j =>
    if s = 255 then .nan else (Fmt.e4m3.decode (blk / 2 ^ (8 * (j + 1)) % 256)).mul (.pow2 ((s : Int) - 127))

/-- R76: slot `i` of a k4s block. -/
def slotOf (blk i : Nat) : Nat := blk / 2 ^ (8 + 4 * i) % 16

/-- R77: the slots from `i` on, in ascending order; none if a marker makes the whole block NaN. `skip` slots were given up to an
outlier. -/
def decodeSlots (blk : Nat) (sc : FVal) : Nat → Nat → Nat → Option (List FVal)
  | 0, _, _ => some []
  | f + 1, i, skip =>
    if skip ≠ 0 then (decodeSlots blk sc f (i + 1) (skip - 1)).map (FVal.zero :: ·)
    else if slotOf blk i = 8 then
      if i < 2 ∨ 59 < i then none
      else (decodeSlots blk sc f (i + 1) 2).map
        ((Fmt.e4m3.decode (slotOf blk (i + 1) * 16 + slotOf blk (i + 2))).mul sc :: ·)
    else (decodeSlots blk sc f (i + 1) 0).map ((FVal.ofInt (toSigned 4 (slotOf blk i))).mul sc :: ·)

/-- R75-R77: the elements of a k4s block, and whether BN is set. A block whose scale is 0xFF is NaN without a look at its slots, so that a
misplaced marker in it sets no BN (log entry 84). -/
def decodeK4s (blk : Nat) : List FVal × Bool :=
  let s := blk % 256
  if s = 255 then (List.replicate 62 .nan, false)
  else match decodeSlots blk (.pow2 ((s : Int) - 127)) 62 0 0 with
    | some l => (l, false)
    | none => (List.replicate 62 .nan, true)

/-- The elements of a block and the flags of decoding it. -/
def decodeBlock (t : Reg) (blk : Nat) : List FVal × Flags :=
  if t = 14 then (decodeE4m3s blk, 0) else let (l, bn) := decodeK4s blk; (l, flagIf bn flagBN)

/-- R80's Clamp of one source value of a block: the bound is taken without rounding, and x as itself. -/
def clampBlock (t : Reg) (fm : Bool) (cbound : BitVec 32) (x : FVal) : FVal × Flags × Bool :=
  if x.isNan then (.nan, 0, false)
  else
    let fmax := (FVal.ofInt (blockMax t)).mul (.pow2 127)
    let cb := (Fmt.f32.decode cbound.toNat).abs
    let b := if fm || cb.isNan || cb.isZero || fmax.lt cb then fmax else cb
    if b.lt x.abs then (b.withSign x.neg?, flagNX ||| (if fm then flagSA else flagCL), fm) else (x, 0, false)

/-- The least integer at or above log2(m × 2^e / F), for m > 0. -/
def ceilLog2Over (m : Nat) (e : Int) (f : Nat) : Int :=
  let k := (Nat.log2 m : Int) - Nat.log2 f - 1
  let le (j : Int) : Bool :=           -- m × 2^e ≤ F × 2^(j + e)
    if 0 ≤ j then decide (m ≤ f <<< j.toNat) else decide (m <<< (-j).toNat ≤ f)
  e + (if le k then k else if le (k + 1) then k + 1 else k + 2)

/-- R78: the scale code for the largest magnitude. -/
def scaleCode (t : Reg) (a : FVal) : Nat :=
  match a with
  | .fin _ m e => if m = 0 then 0 else (min 254 (max 0 (127 + ceilLog2Over m e (blockMax t)))).toNat
  | _ => 0

/-- R78: one element of a block divided by its scale and rounded to the element grid, limited to ±F. -/
def encodeElem (t : Reg) (o : Mode) (s : Nat) (x : FVal) : Nat × Flags :=
  let y := x.mul (.pow2 (127 - (s : Int)))
  match y with
  | .fin n m e =>
    if t = 14 then
      if m = 0 then (Fmt.e4m3.signBit n, 0)
      else
        let (c, ix, tiny) := Fmt.e4m3.roundFin o n m e
        (Fmt.e4m3.signBit n + min c Fmt.e4m3.maxCode,
          flagIf (ix || decide (Fmt.e4m3.maxCode < c)) flagNX ||| flagIf (ix && tiny) flagUF)
    else
      let (q, ix) := roundAt o n m e 0
      (ofSigned 4 (signedM n (min q 7)), flagIf (ix || decide (7 < q)) flagNX)
  | _ => (if t = 14 then Fmt.e4m3.nan else 0, 0)

/-- R78: a block made of its clamped elements, the first with stochastic index `e0`. A NaN element makes a k4s block a NaN block: its other
bytes are free, and no rounding flag is set, for no element is encoded (log entry 78). -/
def encodeBlock (t : Reg) (mode : Nat → Mode) (e0 : Nat) (xs : List FVal) : Nat × Flags :=
  let a := xs.foldl (fun a x => if x.isNan then a else if a.lt x.abs then x.abs else a) FVal.zero
  let s := scaleCode t a
  if t != 14 && xs.any FVal.isNan then
    (255 + 256 * (Config.nanBlock e0 (xs.map fun x => match x with | .fin _ m _ => m | _ => 0)).toNat, 0)
  else
    let w := if t = 14 then 8 else 4
    let r := xs.foldl (fun (acc : Nat × Nat × Flags) x =>
      let (i, blk, fl) := acc
      let (c, f) := encodeElem t (mode (e0 + i)) s x
      (i + 1, blk + c * 2 ^ (8 + w * i), fl ||| f)) (0, 0, 0)
    (s + r.2.1, r.2.2)

end Sys2Proof.Machine
end

