-- ==== Sys2Proof/Machine/Memory.lean ====
section
/-! DEFINITION. Memory as bytes at keys, where an address lies (spec/06 R92-R98, spec/21 R260), walks and TLBs (R97-R101), the
footprint check (R31), poison (R356) and the A-hart's scalar cache (R96). Keys: a tier-0 physical address is its own key, tier 1
starts at 2^44, the pools at 2^45. -/

namespace Sys2Proof.Machine

/-! Bytes. -/

/-- The byte at a key; a key not listed reads 0 (log entry 3). -/
def Memory.get : Memory → Nat → Byte
  | [], _ => 0
  | (k, v) :: r, a => if k = a then v else if a < k then 0 else Memory.get r a

/-- The memory with byte `b` at key `a`, in canonical form if it was. -/
def Memory.set : Memory → Nat → Byte → Memory
  | [], a, b => if b = 0 then [] else [(a, b)]
  | (k, v) :: r, a, b =>
    if k < a then (k, v) :: Memory.set r a b
    else if k = a then (if b = 0 then r else (a, b) :: r)
    else if b = 0 then (k, v) :: r else (a, b) :: (k, v) :: r

/-- Every key of the list is above `lo`'s predecessor, keys rise, and no listed byte is 0. -/
def Memory.wfFrom (lo : Nat) : Memory → Bool
  | [] => true
  | (k, v) :: r => decide (lo ≤ k) && (v != 0) && Memory.wfFrom (k + 1) r

/-- The canonical form: rising keys, no zero byte listed. -/
def Memory.wf (m : Memory) : Bool := Memory.wfFrom 0 m

/-- `n` bytes from a key, little-endian (R2). -/
def Memory.read (m : Memory) (key : Nat) : Nat → Nat
  | 0 => 0
  | n + 1 => (m.get key).toNat + 256 * Memory.read m (key + 1) n

/-- The memory with the low `n` bytes of `v` from a key on, little-endian (R2). -/
def Memory.write (m : Memory) (key : Nat) : Nat → Nat → Memory
  | 0, _ => m
  | n + 1, v => Memory.write (m.set key (BitVec.ofNat 8 v)) (key + 1) n (v / 256)

/-! Where addresses lie. -/

/-- Offset of the mailbox window of die 0, and its 4 KiB (R260). -/
def windowBase : Nat := 0x1800000000
def windowSize : Nat := 0x1000

/-- The key is in the 64 KiB page that maps the mailbox window (R260). -/
def inMailboxPage (key : Nat) : Bool := decide (windowBase ≤ key ∧ key < windowBase + 0x10000)

def tier1Key (pa : Nat) : Nat := 2 ^ 44 + pa
def poolKey (core off : Nat) : Nat := 2 ^ 45 + core * 2 ^ 20 + off

/-- R94: the die cache holds first-tier bytes only; window accesses bypass it (R260). -/
def dieCached (key : Nat) : Bool := decide (key < 2 ^ 39 ∧ key % 2 ^ 37 < Config.tier0Bytes)

/-- The die of a core (R14); the two boot cores of die d are 640 + 2·d and the next (log entry 61). -/
def dieOf (core : Nat) : Nat := if core < Config.cores then core / Config.dieCores else (core - Config.cores) / 2
/-- The quad of a core (R14). A boot core is in none: it stands alone under a number above the quads'. -/
def quadOf (core : Nat) : Nat := if core < Config.cores then core / 4 else 160 + (core - Config.cores)
/-- A core of firmware only (R11, R17). -/
def isBoot (core : Nat) : Bool := decide (Config.cores ≤ core)

/-! Bytes of the module. -/

def State.readMem (s : State) (key n : Nat) : Nat := s.mem.read key n

/-- Does any of the bytes lie in a poisoned word (R356). -/
def State.poisoned (s : State) (key n : Nat) : Bool :=
  s.poison.any fun w => decide (8 * w < key + n ∧ key < 8 * w + 8)

/-- Does a write of the bytes leave part of a poisoned word unwritten (R356). -/
def State.partPoisoned (s : State) (key n : Nat) : Bool :=
  s.poison.any fun w => decide (8 * w < key + n ∧ key < 8 * w + 8) && !decide (key ≤ 8 * w ∧ 8 * w + 8 ≤ key + n)

/-- Writes bytes where they lie. A word written whole loses its poison (R356); a write of the mailbox's last bytes raises MSI-X
vector 1 (R259, R260). `dram` keeps, byte by byte, the difference between the die cache and the DRAM behind it (R94, R308). -/
def State.writeMem (s : State) (key n v : Nat) : State :=
  { s with
    mem := s.mem.write key n v
    dram := if dieCached key then s.dram.write key n (s.dram.read key n ^^^ s.mem.read key n ^^^ v) else s.dram
    poison := s.poison.filter fun w => !decide (key ≤ 8 * w ∧ 8 * w + 8 ≤ key + n)
    msix := if windowBase + 0xFF8 < key + n ∧ key < windowBase + windowSize then s.msix ++ [1] else s.msix }

/-! Translation. -/

/-- What an access is for (R103). -/
inductive Kind where
  | load
  | store
  | atomic
  | fetch
deriving DecidableEq, Repr

/-- Page faults are cause 4 for loads and fetches and 5 for stores and atomics (R101). -/
def Kind.fault : Kind → Nat
  | .load => 4
  | .fetch => 4
  | .store => 5
  | .atomic => 5

def Kind.isStore : Kind → Bool
  | .store => true
  | .atomic => true
  | _ => false

/-- R97: first index bit and index width of each level. -/
def levels : List (Nat × Nat) := [(44, 13), (30, 14), (21, 9), (16, 5)]

def pteV (e : Nat) : Bool := e.testBit 0
def pteL (e : Nat) : Bool := e.testBit 6
def pteTier (e : Nat) : Nat := (e >>> 60) % 4
def ptePa (e : Nat) : Nat := (e >>> 8) % 2 ^ 36 * 2 ^ 8
def pteG (e : Nat) : Bool := e.testBit 5

/-- R98 for a leaf of a page size. -/
def leafOk (e size : Nat) : Bool := decide (pteTier e ≤ 1 ∧ ptePa e % size = 0)

/-- R98, and R101 step 2, for a pointer to a table of `bytes` bytes. -/
def pointerOk (e bytes : Nat) : Bool :=
  decide (pteTier e = 0 ∧ ptePa e < 2 ^ 39 ∧ ptePa e % bytes = 0 ∧ ptePa e % 2 ^ 37 < Config.tier0Bytes)

/-- R101 steps 1 and 2 down the levels: the leaf entry and its page size, or the cause. An entry in a poisoned word is cause 7
(DEDUCED: a walk reads it as data). A level-0 table whose root lies beyond installed capacity is read like any other bytes (log entry 88). -/
def State.walk (s : State) (fault va : Nat) : Nat → Nat → List (Nat × Nat) → Except Nat (Nat × Nat)
  | _, _, [] => .error 6
  | depth, table, (lo, w) :: rest =>
    let key := table + va / 2 ^ lo % 2 ^ w * 8
    let e := s.readMem key 8
    if s.poisoned key 8 then .error 7
    else if !pteV e then .error fault
    else if pteL e then
      if depth = 0 then .error 6
      else if leafOk e (2 ^ lo) then .ok (e, 2 ^ lo) else .error 6
    else match rest with
      | [] => .error 6
      | (_, w') :: _ =>
        if pointerOk e (2 ^ (w' + 3)) then s.walk fault va (depth + 1) (ptePa e) rest else .error 6

/-- R101 step 3: the leaf permits the access. -/
def leafPermits (e : Nat) (k : Kind) (user : Bool) : Bool :=
  (match k with
   | .load => e.testBit 1
   | .store => e.testBit 2
   | .atomic => e.testBit 2
   | .fetch => e.testBit 3) && (!user || e.testBit 4)

/-- R101 step 4: where the byte lies, if anything is installed there. -/
def keyOf (e size va : Nat) : Option Nat :=
  let pa := ptePa e + va % size
  if pteTier e = 1 then some (tier1Key pa)
  else if pa < 2 ^ 39 ∧ (pa % 2 ^ 37 < Config.tier0Bytes ∨ (windowBase ≤ pa ∧ pa < windowBase + 0x10000)) then some pa
  else none

/-- A context of translation: the core whose TLBs serve it, or none for the other agents' own, root, ASN, and whether the access is at
user level. -/
structure Xlate where
  core : Option Nat
  root : Nat
  asn : BitVec 16
  user : Bool
deriving DecidableEq, Repr

/-- R100: the entry of a TLB that serves an address. -/
def State.tlbHit (s : State) (site : TlbSite) (asn : BitVec 16) (va : Nat) : Option TlbEntry :=
  s.tlb.find? fun t => t.site == site && (pteG t.pte.toNat || t.asn == asn) && decide (t.vbase ≤ va ∧ va < t.vbase + t.size)

/-- The newest `n` entries of a TLB, and all of the others'. -/
def keepNewest (site : TlbSite) : List TlbEntry → Nat → List TlbEntry
  | [], _ => []
  | t :: r, n =>
    if t.site = site then (match n with | 0 => keepNewest site r 0 | n + 1 => t :: keepNewest site r n)
    else t :: keepNewest site r n

/-- An entry put in a TLB of `cap` entries; the oldest of a full one leaves (log entry 8). -/
def State.tlbPut (s : State) (site : TlbSite) (cap : Nat) (t : TlbEntry) : State :=
  { s with tlb := { t with site := site } :: keepNewest site s.tlb (cap - 1) }

/-- R100: the entry that serves an access, of a core's first level and then its quad's second, or of the agents'; a second-level entry
is put in the first level too. -/
def State.tlbFind (s : State) (x : Xlate) (va : Nat) : Option (TlbEntry × State) :=
  match x.core with
  | none => (s.tlbHit .agents x.asn va).map fun t => (t, s)
  | some c => match s.tlbHit (.l1 c) x.asn va with
    | some t => some (t, s)
    | none => (s.tlbHit (.l2 (quadOf c)) x.asn va).map fun t => (t, s.tlbPut (.l1 c) Config.l1Entries t)

/-- R100: what a walk found, kept in the TLBs that serve the access. -/
def State.tlbFill (s : State) (x : Xlate) (t : TlbEntry) : State :=
  match x.core with
  | none => { s with tlb := { t with site := .agents } :: s.tlb }
  | some c => (s.tlbPut (.l2 (quadOf c)) Config.l2Entries t).tlbPut (.l1 c) Config.l1Entries t

/-- R101: from a virtual address below 2^57 to a key, through the TLBs or by a walk, which they then keep (R100). -/
def State.translate (s : State) (x : Xlate) (va : Nat) (k : Kind) : Except Nat (Nat × State) :=
  match s.tlbFind x va with
  | some (t, s) =>
    if leafPermits t.pte.toNat k x.user then
      match keyOf t.pte.toNat t.size va with
      | some key => .ok (key, s)
      | none => .error 6
    else .error k.fault
  | none =>
    match s.walk k.fault va 0 x.root levels with
    | .error c => .error c
    | .ok (e, size) =>
      if leafPermits e k x.user then
        match keyOf e size va with
        | some key => .ok (key, s.tlbFill x ⟨.agents, x.asn, va / size * size, size, BitVec.ofNat 64 e⟩)
        | none => .error 6
      else .error k.fault

/-! Footprints. -/

/-- The greatest end among regions that hold byte `a`. -/
def reach (rs : List Region) (a : Nat) : Nat :=
  rs.foldl (fun m r => if r.base ≤ a ∧ a < r.base + r.len then max m (r.base + r.len) else m) a

/-- Every byte of [lo, hi) lies in some region of the list, taking at most `fuel` regions. -/
def coveredBy (rs : List Region) (lo hi : Nat) : Nat → Bool
  | 0 => decide (hi ≤ lo)
  | f + 1 => decide (hi ≤ lo) || (decide (lo < reach rs lo) && coveredBy rs (reach rs lo) hi f)

/-- R31: a load may take each byte from a region of any mode, a store or atomic from write and shared-mutable regions. -/
def footprintOk (rs : List Region) (va size : Nat) (k : Kind) : Bool :=
  let use := rs.filter fun r => if k.isStore then r.mode == 2 || r.mode == 3 else r.mode != 0
  coveredBy use va (va + size) rs.length

/-! The mailbox window. -/

/-- R260: what the window refuses, for an access of the hart itself (`own`) or of another agent; for the hart the 8-byte rule raises cause
3 before the others (R159). -/
def mailboxCause (key size : Nat) (k : Kind) (own : Bool) : Option Nat :=
  if !inMailboxPage key then none
  else if k = .fetch ∨ !own then some 6
  else if size ≠ 8 then some 3
  else if k = .atomic ∨ key + size > windowBase + windowSize then some 6
  else if k = .store ∧ key < windowBase + 0x800 then some 6
  else none

/-! The access of R103 in the global space. -/

def State.task? (s : State) (t : Nat) : Option Task := s.tasks.find? fun x => x.id == t

/-- R31's check of a task; a braid of no task is not checked. -/
def State.footprint (s : State) (t va size : Nat) (k : Kind) : Bool :=
  match s.task? t with
  | some x => !x.check || k == .fetch || footprintOk x.regions va size k
  | none => true

/-- Poison in the bytes read, or left half written by a store (R356). -/
def State.poisonHit (s : State) (key size : Nat) (k : Kind) : Bool :=
  if k = .store then s.partPoisoned key size else s.poisoned key size

/-- R103 in space 0 without the performing: translation, the window's rules, the footprint. -/
def State.check (s : State) (x : Xlate) (t va size : Nat) (k : Kind) (own : Bool) : Except Nat (Nat × State) :=
  match s.translate x va k with
  | .error c => .error c
  | .ok (key, s) =>
    match mailboxCause key size k own with
    | some c => .error c
    | none => if s.footprint t va size k then .ok (key, s) else .error 14

/-- R103 in space 0: `check`, then the poison of the bytes in memory. -/
def State.access (s : State) (x : Xlate) (t va size : Nat) (k : Kind) (own : Bool) : Except Nat (Nat × State) :=
  match s.check x t va size k own with
  | .error c => .error c
  | .ok (key, s) => if s.poisonHit key size k then .error 7 else .ok (key, s)

/-! Stores that have not performed: the release buffer (R244) and delayed vector stores (R122). -/

/-- The item still stands between the hart and the byte at a key. -/
def BufItem.holds (i : BufItem) (key : Nat) : Bool := i.home && decide (i.key ≤ key ∧ key < i.key + i.size)
/-- The item's bytes meet a range of keys. -/
def BufItem.meets (i : BufItem) (key n : Nat) : Bool := i.home && decide (i.key < key + n ∧ key < i.key + i.size)
/-- The byte is among those that pending items write. -/
def inBuffer (l : List BufItem) (key : Nat) : Bool := l.any fun i => i.holds key
/-- Pending items write all eight bytes of a word: it is no poisoned word to the hart that stored them (R131, R356). -/
def wholeInBuffer (l : List BufItem) (w : Nat) : Bool := (List.range 8).all fun i => inBuffer l (8 * w + i)
/-- A byte as their hart sees it: the youngest pending item over what memory holds. -/
def bufByte (l : List BufItem) (key old : Nat) : Nat :=
  l.foldl (fun v i => if i.holds key then i.data / 2 ^ (8 * (key - i.key)) % 256 else v) old
/-- Bytes read under pending items. -/
def underItems (l : List BufItem) (key n v : Nat) : Nat :=
  if l.isEmpty then v
  else (List.range n).foldr (fun i r => bufByte l (key + i) (v / 2 ^ (8 * i) % 256) + 256 * r) 0
/-- R356 for a hart that has stores pending: poison in a word that they do not write whole. -/
def State.poisonUnder (s : State) (l : List BufItem) (key size : Nat) (k : Kind) : Bool :=
  s.poison.any fun w => decide (8 * w < key + size ∧ key < 8 * w + 8) && !wholeInBuffer l w &&
    !(k == .store && decide (key ≤ 8 * w ∧ 8 * w + 8 ≤ key + size))

/-! The scalar cache (R96) of the braid in focus. -/

def Line.read (l : Line) (off n : Nat) : Nat := l.data.toNat / 2 ^ (8 * off) % 2 ^ (8 * n)

/-- The line with `n` bytes written at an offset and marked dirty; a word written whole loses its mark (R356). -/
def Line.write (l : Line) (off n v : Nat) : Line :=
  let hole : BitVec 512 := BitVec.ofNat 512 ((2 ^ (8 * n) - 1) * 2 ^ (8 * off))
  { l with
    data := (l.data &&& ~~~hole) ||| BitVec.ofNat 512 (v % 2 ^ (8 * n) * 2 ^ (8 * off))
    dirty := l.dirty ||| BitVec.ofNat 64 ((2 ^ n - 1) * 2 ^ off)
    bad := if n = 8 then l.bad &&& ~~~(BitVec.ofNat 8 (2 ^ (off / 8))) else l.bad }

/-- The braid of a number, and those that are in one replica set with it: an interrupt of one reaches them all (R241, log entry 33). -/
def State.together (s : State) (id : Nat) (b : Braid) : Bool :=
  b.id == id || s.sets.any fun r => r.members.any (·.1 == id) && r.members.any (·.1 == b.id)

/-- A health event: MSI-X vector 2, and interrupt 35 at the braid firmware names (R16, R160, R259). -/
def State.health (s : State) : State :=
  let mark (b : Braid) : Braid :=
    match s.healthTo with
    | some id => if s.together id b then { b with irq35 := true } else b
    | none => b
  { s with msix := s.msix ++ [2], b := mark s.b, rest := s.rest.map mark }

/-- Writes back the dirty bytes of word `w` of a line: whole, which clears poison, or byte by byte. Dirty bytes of a word that became
poisoned after the fill are not written, and a health event says so (log entry 9). -/
def State.writeWord (s : State) (l : Line) (w : Nat) : State :=
  let key := 64 * l.tag + 8 * w
  let d := l.dirty.toNat / 2 ^ (8 * w) % 256
  if d = 0 then s
  else if d = 255 then s.writeMem key 8 (l.read (8 * w) 8)
  else if s.poisoned key 8 then s.health
  else (List.range 8).foldl (fun s i => if d.testBit i then s.writeMem (key + i) 1 (l.read (8 * w + i) 1) else s) s

/-- Writes a line's dirty bytes to memory (R96). -/
def State.writeLine (s : State) (l : Line) : State := (List.range 8).foldl (fun s w => s.writeWord l w) s

/-- A line filled from memory, with a mark on each poisoned word (R356). -/
def State.fill (s : State) (ln : Nat) : Line :=
  ⟨ln, BitVec.ofNat 512 (s.readMem (64 * ln) 64), 0,
   BitVec.ofNat 8 ((List.range 8).foldl (fun m w => if s.poisoned (64 * ln + 8 * w) 8 then m + 2 ^ w else m) 0)⟩

def State.cached (s : State) (ln : Nat) : Option Line := s.b.cache.find? fun l => l.tag == ln

/-- The cache with a line put in place, or added after the oldest of a full cache is written back (log entry 9). -/
def State.putLine (s : State) (l : Line) : State :=
  if (s.cached l.tag).isSome then
    { s with b := { s.b with cache := s.b.cache.map fun m => if m.tag = l.tag then l else m } }
  else match s.b.cache with
    | old :: keep =>
      if Config.cacheLines ≤ s.b.cache.length then
        let s := s.writeLine old
        { s with b := { s.b with cache := keep ++ [l] } }
      else { s with b := { s.b with cache := s.b.cache ++ [l] } }
    | [] => { s with b := { s.b with cache := [l] } }

def State.line (s : State) (key : Nat) : Line := (s.cached (key / 64)).getD (s.fill (key / 64))

/-- A load of `n` aligned bytes through the cache; a marked word is cause 7, but not one that the hart's own buffer writes whole. -/
def State.cacheLoad (s : State) (key n : Nat) : Except Nat (Nat × State) :=
  let l := s.line key
  if l.bad.getLsbD (key % 64 / 8) && !wholeInBuffer s.b.buf (key / 8) then .error 7 else .ok (l.read (key % 64) n, s.putLine l)

/-- A store of `n` aligned bytes through the cache; a partial store to a marked word is cause 7. -/
def State.cacheStore (s : State) (key n v : Nat) : Except Nat State :=
  let l := s.line key
  if l.bad.getLsbD (key % 64 / 8) && n != 8 then .error 7 else .ok (s.putLine (l.write (key % 64) n v))

/-- Writes every dirty line back and leaves the lines clean. -/
def State.cacheWriteback (s : State) : State :=
  let t := s.b.cache.foldl State.writeLine s
  { t with b := { t.b with cache := t.b.cache.map fun l => { l with dirty := 0 } } }

/-- Writes back, then invalidates every line. -/
def State.cacheFlush (s : State) : State :=
  let t := s.b.cache.foldl State.writeLine s
  { t with b := { t.b with cache := [] } }

/-- Writes back and drops the line that holds a key: an atomic or vector access of the hart performs at home (R122, R126). -/
def State.cacheEvict (s : State) (key : Nat) : State :=
  match s.cached (key / 64) with
  | none => s
  | some l =>
    let t := s.writeLine l
    { t with b := { t.b with cache := t.b.cache.filter fun m => m.tag != key / 64 } }

end Sys2Proof.Machine
end

