-- ==== Sys2Proof/Machine/Ops.lean ====
section
/-! DEFINITION. The named operations over registers, program counters, queues and waits; how an instruction issues and how its result
becomes a step (spec/23 R278); the end of braids and tasks (spec/03 R43, R44); taking a trap or interrupt and returning
(spec/09 R157-R163); landings (spec/06 R112, R113). -/

namespace Sys2Proof.Machine

/-! The braid in focus and its harts. -/

def otherHart : Hart → Hart
  | .A => .X
  | .X => .A

def State.ctx (s : State) : Ctx := s.b.ctx
def State.setB (s : State) (b : Braid) : State := { s with b := b }
def State.mapB (s : State) (f : Braid → Braid) : State := { s with b := f s.b }
def State.setCtx (s : State) (c : Ctx) : State := { s with b := { s.b with ctx := c } }
def State.mapCtx (s : State) (f : Ctx → Ctx) : State := { s with b := { s.b with ctx := f s.b.ctx } }
def State.mapBraids (s : State) (f : Braid → Braid) : State := { s with b := f s.b, rest := s.rest.map f }
def State.braids (s : State) : List Braid := s.b :: s.rest
def State.onHart (s : State) (h : Hart) : State := { s with hart := h }

/-- The list with the braid of a number taken out and `cur` left in its place. -/
def swapIn (cur : Braid) (id : Nat) : List Braid → Option (Braid × List Braid)
  | [] => none
  | c :: r =>
    if c.id = id then some (c, cur :: r)
    else match swapIn cur id r with
      | some (x, r') => some (x, c :: r')
      | none => none

/-- The same module with the focus on a braid. -/
def State.focus (s : State) (id : Nat) : Option State :=
  if s.b.id = id then some s
  else match swapIn s.b id s.rest with
    | some (x, r) => some { s with b := x, rest := r }
    | none => none

/-- What `f` does with the focus on a braid, the focus then returning; nothing if there is no such braid. -/
def State.atBraid (s : State) (id : Nat) (f : State → State) : State :=
  match s.focus id with
  | none => s
  | some t => match (f t).focus s.b.id with
    | none => { f t with hart := s.hart }
    | some u => { u with hart := s.hart }

def State.find (s : State) (id : Nat) : Option Braid := s.braids.find? fun b => b.id == id

/-! Registers. -/

def rd {α : Type} (v : Vector α 32) (r : Reg) : α := v.get r.toFin
def wr {α : Type} (v : Vector α 32) (r : Reg) (x : α) : Vector α 32 := v.set r.toNat x r.isLt
/-- The place of a24-a31 in a bank of eight. -/
def bankIx (r : Reg) : BitVec 3 := r.extractLsb' 0 3

/-- `status`.sys: the system handler is active (R162). -/
def State.sysMode (s : State) : Bool := s.b.status.getLsbD 5
/-- The A-hart is in a landing handler and not in the system handler. -/
def State.landing (s : State) : Bool := s.b.ctx.inLand && !s.sysMode

/-- R4, R112, R157: a register of the A-hart in the bank now selected; a0 reads zero. -/
def State.aReg (s : State) (r : Reg) : Word :=
  if r = 0 then 0
  else if r.toNat < 24 then rd s.b.ctx.a r
  else if s.sysMode then s.b.sysb.get (bankIx r).toFin
  else if s.b.ctx.inLand then s.b.ctx.sh.get (bankIx r).toFin
  else rd s.b.ctx.a r

/-- A write of a register of the A-hart; a write of a0 is discarded (R298). -/
def State.setA (s : State) (r : Reg) (v : Word) : State :=
  if r = 0 then s
  else if r.toNat < 24 then s.mapCtx fun c => { c with a := wr c.a r v }
  else if s.sysMode then s.mapB fun b => { b with sysb := b.sysb.set (bankIx r).toNat v (bankIx r).isLt }
  else if s.b.ctx.inLand then s.mapCtx fun c => { c with sh := c.sh.set (bankIx r).toNat v (bankIx r).isLt }
  else s.mapCtx fun c => { c with a := wr c.a r v }

def State.xReg (s : State) (r : Reg) : Word := if r = 0 then 0 else rd s.b.ctx.x r
def State.setX (s : State) (r : Reg) (v : Word) : State :=
  if r = 0 then s else s.mapCtx fun c => { c with x := wr c.x r v }

/-- A scalar register of the executing hart. -/
def State.reg (s : State) (r : Reg) : Word :=
  match s.hart with
  | .A => s.aReg r
  | .X => s.xReg r
def State.setReg (s : State) (r : Reg) (v : Word) : State :=
  match s.hart with
  | .A => s.setA r v
  | .X => s.setX r v

/-- The Hart registers of a hart (R291). -/
def State.hrOf (s : State) : Hart → HartRegs
  | .A => s.b.ctx.ra
  | .X => s.b.ctx.rx
def State.hr (s : State) : HartRegs := s.hrOf s.hart
def State.setHrOf (s : State) (h : Hart) (r : HartRegs) : State :=
  match h with
  | .A => s.mapCtx fun c => { c with ra := r }
  | .X => s.mapCtx fun c => { c with rx := r }
def State.setHr (s : State) (r : HartRegs) : State := s.setHrOf s.hart r

/-- R87: sticky flags are only ever added to here. -/
def State.addFlags (s : State) (f : Flags) : State := s.setHr { s.hr with fsts := s.hr.fsts ||| f }
def State.setEs (s : State) (n : Nat) : State := s.setHr { s.hr with es := BitVec.ofNat 12 n }
/-- R86: one dither-consuming instruction more. -/
def State.useDither (s : State) (used : Bool) : State := if used then s.setHr { s.hr with dord := s.hr.dord + 1 } else s

/-! Program counters and waits. -/

def State.pcOf (s : State) : Hart → Word
  | .A => if s.sysMode then s.b.pcH else s.b.ctx.pcA
  | .X => s.b.ctx.pcX
def State.pc (s : State) : Word := s.pcOf s.hart
def State.setPcOf (s : State) (h : Hart) (v : Word) : State :=
  match h with
  | .A => if s.sysMode then s.mapB fun b => { b with pcH := v } else s.mapCtx fun c => { c with pcA := v }
  | .X => s.mapCtx fun c => { c with pcX := v }
def State.setPc (s : State) (v : Word) : State := s.setPcOf s.hart v

def State.waitOf (s : State) : Hart → Option Wait
  | .A => s.b.waitA
  | .X => s.b.waitX
def State.setWaitOf (s : State) (h : Hart) (w : Option Wait) : State :=
  match h with
  | .A => s.mapB fun b => { b with waitA := w }
  | .X => s.mapB fun b => { b with waitX := w }
def State.setWait (s : State) (w : Option Wait) : State := s.setWaitOf s.hart w

def State.ended (s : State) : Hart → Bool
  | .A => s.b.ctx.endA
  | .X => s.b.ctx.endX

/-- The hart completed an instruction and goes on at `v`: no wait, one more retired (R151), and the X-hart's prefix is spent (R64). -/
def State.goTo (s : State) (v : Word) : State :=
  let s := (s.setPc v).setWait none
  match s.hart with
  | .A => s.mapB fun b => { b with retA := b.retA + 1 }
  | .X => s.mapB fun b => { b with retX := b.retX + 1, ctx := { b.ctx with xc := { b.ctx.xc with pfl := b.ctx.xc.pfl &&& 0x7FF } } }

/-- The hart completed the instruction at its address. -/
def State.retire (s : State) : State := s.goTo (s.pc + 4)

/-! Issue, and the result of an instruction. -/

/-- What an instruction comes to: completed, a trap of a cause with its `eei` (the hart's address being the trap's `epc`), or a wait. -/
inductive Res where
  | done (s : State)
  | trap (s : State) (cause : Nat) (eei : Word)
  | wait (s : State) (w : Wait)
deriving DecidableEq, Repr

def Res.bind (r : Res) (k : State → Res) : Res :=
  match r with
  | .done s => k s
  | .trap s c e => .trap s c e
  | .wait s w => .wait s w

/-- The state a result leaves, whatever it is. -/
def Res.state : Res → State
  | .done s => s
  | .trap s _ _ => s
  | .wait s _ => s

def Level.rank : Level → Nat
  | .user => 0
  | .system => 1
  | .firmware => 2

/-- Which harts may execute an instruction (R278 check 3). -/
inductive Harts where
  | both
  | onlyA
  | onlyX
deriving DecidableEq, Repr

def Harts.allow : Harts → Hart → Bool
  | .both, _ => true
  | .onlyA, h => h == .A
  | .onlyX, h => h == .X

/-- `pfl`.valid: the next X instruction is a successor (R62). -/
def State.prefixed (s : State) : Bool := s.hart == .X && s.b.ctx.xc.pfl.getLsbD 11
/-- R65: the prefix is taken away. -/
def State.dropPrefix (s : State) : State :=
  s.mapCtx fun c => { c with xc := { c.xc with pfl := c.xc.pfl &&& 0x7FF } }

/-- R278 checks 3, 5, 6 and 7: the hart, the landing handler, the successor of `pfx`, the level. `vec` says that the instruction's
major is one of 0x1A to 0x21, `land` that a landing handler may execute it. -/
def State.issue (s : State) (who : Harts) (level : Level) (land vec : Bool) (k : State → Res) : Res :=
  if !who.allow s.hart then .trap s 1 0
  else if s.hart == .A && s.landing && !land then .trap s 1 0
  else if s.prefixed && !vec then .trap s.dropPrefix 11 0
  else if s.b.level.rank < level.rank then .trap s 2 0
  else k s

/-! Tasks and their ends. -/

def State.mapTask (s : State) (t : Nat) (f : Task → Task) : State :=
  { s with tasks := s.tasks.map fun x => if x.id = t then f x else x }

def State.thisTask (s : State) : Option Task := s.task? s.b.task
/-- The braid's task runs in deterministic mode (R27). -/
def State.det (s : State) : Bool := match s.thisTask with | some t => t.det | none => false

/-- R43, R108: the braid's streams are closed. -/
def closeStreams (c : Ctx) : Ctx := { c with streams := c.streams.map fun t => { t with st := .idle, trigs := [], fault := none } }

/-- R43, R174, R206: slices, planes and accumulators returned. -/
def detach (b : Braid) : Braid :=
  { b with ctx := { b.ctx with xc := { b.ctx.xc with mgrant := 0 }, mx := .init }, tab := .init }

/-- R43: what a braid that retires or is ended gives up; its streams end with it (log entry 24). -/
def endBraid (b : Braid) : Braid :=
  let b := detach b
  { b with
    live := false
    left := false
    ctx := { closeStreams b.ctx with
      lq := .replicate 4 [], sq := .replicate 4 [], tqa := [], tqx := [], kq := [], grants := [], xt := [] }
    waitA := none
    waitX := none
    monitor := false
    buf := []
    loaded := none
    entryCtx := none
    endS := false
    askAge := none
    memDone := 0
    atRel := none
    agreedA := false
    agreedX := false }

/-- R109: a trigger's job that will not fire is discarded. -/
def discardJobs (of : Job → Bool) (js : List Job) : List Job :=
  js.map fun j => if j.st = .registered ∧ of j then { j with st := .discarded } else j

/-- Ends the braids a test names, and discards the triggers they hold. Vector stores that they have issued perform later; the task's
completion waits for them (R44). -/
def State.endBraids (s : State) (of : Braid → Bool) : State :=
  let gone := (s.braids.filter fun b => of b && (b.live || b.left)).map (·.id)
  let s := s.mapBraids fun b => if of b && (b.live || b.left) then endBraid b else b
  { s with jobs := discardJobs (fun j => gone.contains j.braid) s.jobs }

/-- R44, R161: the task fails with a cause and its braids end, so that none of its work follows its completion word. A braid of no task
(a boot core's) has none to fail. -/
def State.failTask (s : State) (t cause : Nat) : State :=
  if (s.task? t).isNone then s
  else (s.mapTask t fun x => if x.failed.isNone && x.st != .done then { x with failed := some cause } else x).endBraids
    fun b => b.task == t

/-- R167: a task whose braids have all left or ended is pre-empted, if any has left. -/
def State.gangLeft (s : State) (t : Nat) : State :=
  if (s.braids.all fun b => b.task != t || !b.live) && s.braids.any fun b => b.task == t && b.left then
    s.mapTask t fun x => if x.st = .running ∨ x.st = .preempting then { x with st := .preempted } else x
  else s

/-- Both harts have ended: the braid retires (R43). -/
def State.retireBraid (s : State) : State :=
  ({ s.mapB endBraid with jobs := discardJobs (fun j => j.braid == s.b.id) s.jobs } : State).gangLeft s.b.task

/-! Replica sets (R241). -/

def RSet.has (r : RSet) (b : Braid) : Bool := r.task == b.task && r.idx == b.idx && r.members.any (·.1 == b.id)

/-- The replica set of the braid in focus. -/
def State.rset (s : State) : Option RSet := s.sets.find? fun r => r.has s.b
def State.replicated (s : State) : Bool := s.rset.isSome

/-! Traps, interrupts and the return from them. -/

def levelBits : Level → BitVec 2
  | .user => 0
  | .system => 1
  | .firmware => 2
def levelOf (p : BitVec 2) : Level := if p = 0 then .user else if p = 1 then .system else .firmware

def hartBit : Hart → BitVec 1
  | .A => 0
  | .X => 1

/-- An address register's bits [56:2] (R114, R162). -/
def addrMask : Word := 0x01FFFFFFFFFFFFFC

/-- R162's `status` at entry: pp, hart, inl, ie cleared, pie, sys. -/
def statusAt (b : Braid) (h : Hart) : BitVec 12 :=
  levelBits b.level ++ hartBit h ++ BitVec.ofBool b.ctx.inLand ++ (0 : BitVec 1) ++ BitVec.ofBool (b.status.getLsbD 7) ++
    (1 : BitVec 1) ++ (0 : BitVec 5)

/-- R157: entry to the system handler for hart `h`; the context as it stands is what a `ctxsave` saves (R167). A trap inside the handler
is a double trap: the task fails with the cause, and firmware has a health event (R161). An `mwait` under way gives up its monitor entry
(R319). What an interrupted A-hart access or release has done so far waits for the return (log entries 66 and 72). -/
def State.enter (s : State) (h : Hart) (cause : Nat) (epc eei : Word) : State :=
  if s.sysMode then ((s.failTask s.b.task cause).endBraids fun b => b.id == s.b.id).health
  else
    let s := s.setPcOf h (epc &&& addrMask)
    let s := s.setHrOf h { s.hrOf h with eei := eei }
    (s.mapB fun b =>
      { b with
        cause := BitVec.ofNat 8 cause
        epc := epc &&& addrMask
        status := statusAt b h
        level := .system
        pcH := b.tvec
        entryCtx := some b.ctx
        waitA := none
        waitX := none
        monitor := false
        memDone := 0
        memHeld := b.memDone
        atRel := none
        agreedA := false
        agHeld := b.agreedA }).onHart .A

/-- A trap of hart `h`. In a replica set the hart waits at its instruction until every member has come to the trap with its other hart at the
same place, so that all of them enter the handler with one context (R157, R305; log entry 95). -/
def State.raise (s : State) (h : Hart) (cause : Nat) (epc eei : Word) : State :=
  if s.replicated && !s.sysMode then (s.setPcOf h (epc &&& addrMask)).setWaitOf h (some (.trap cause eei false))
  else s.enter h cause epc eei

/-- The module after a result: a trap enters the handler, a wait leaves the hart at its instruction (R23, R42, R157). -/
def Res.after : Res → State
  | .done s => s
  | .trap s c e => s.raise s.hart c s.pc e
  | .wait s w => s.setWait (some w)

/-- A result becomes a step. -/
def Res.settle (r : Res) : Host.Outcome State Fault Refusal := .next r.after

/-- The interrupts 35, 32 and 34 pending at a braid, in bits 0, 1 and 2. -/
def Braid.irqs (b : Braid) : BitVec 3 := BitVec.ofBool b.irq34 ++ BitVec.ofBool b.irq32 ++ BitVec.ofBool b.irq35

/-- Interrupt 35 before 32 before 34 (R160). -/
def pickIrq (m : BitVec 3) : Option Nat :=
  if m.getLsbD 0 then some 35 else if m.getLsbD 1 then some 32 else if m.getLsbD 2 then some 34 else none
def Braid.irq (b : Braid) : Option Nat := pickIrq b.irqs

/-- The interrupt that can be taken: `status`.ie is 1 (R160), and in a set it was pending at the last release (R151). -/
def State.takeable (s : State) : Option Nat :=
  if s.b.status.getLsbD 7 then pickIrq (if s.replicated then s.b.irqs &&& s.b.due else s.b.irqs) else none

/-- The hart an interrupt stops: the A-hart, or the X-hart of a braid whose A-hart has ended (log entry 25). -/
def State.irqHart (s : State) : Hart := if s.b.ctx.endA then .X else .A

/-- An interrupt that is taken is pending no more, nor due at the last release. -/
def clearIrq (n : Nat) (b : Braid) : Braid :=
  if n = 35 then { b with irq35 := false, due := b.due &&& 6 }
  else if n = 32 then { b with irq32 := false, due := b.due &&& 5 }
  else { b with irq34 := false, due := b.due &&& 3 }

/-- A hart that waits in `idle` completes it (R163). -/
def State.endIdle (s : State) (h : Hart) : State := if s.waitOf h = some .idle then (s.onHart h).retire else s

/-- What an interrupt completes first: an `idle` that waits for one (R163), and an `mwait` that interrupt 32 ends, with status 3 (R319). In
a set the leader has completed them before it and forwarded what they return (R147, R305; log entry 22). -/
def State.endWaits (s : State) (n : Nat) : State :=
  if s.replicated then s
  else
    let s := (s.endIdle .A).endIdle .X
    match n, s.b.waitA with
    | 32, some (.word d _ _) => ((s.onHart .A).setA d 3).retire
    | _, _ => s

/-- R160: the braid takes the interrupt that can be taken. -/
def State.takeInterrupt (s : State) : State :=
  match s.takeable with
  | none => s
  | some n =>
    let s := ((s.mapB (clearIrq n)).endWaits n).onHart s.hart
    s.enter s.irqHart n (s.pcOf s.irqHart) 0

/-- R163: return from the handler, into the landing handler if `status`.inl says so. A context that `ctxload` read takes effect now (R167),
with its own in-handler state (log entry 50). -/
def State.leaveHandler (s : State) : State :=
  let h : Hart := if s.b.status.getLsbD 9 then .X else .A
  let epc := s.b.epc
  let s := s.mapB fun b =>
    { b with
      level := levelOf (b.status.extractLsb' 10 2)
      status := (b.status &&& 0xF5F) ||| (if b.status.getLsbD 6 then 0x080 else 0)
      ctx := b.loaded.getD { b.ctx with inLand := b.status.getLsbD 8 }
      memDone := if b.loaded.isSome then 0 else b.memHeld
      memHeld := 0
      agreedA := b.loaded.isNone && b.agHeld
      agreedX := b.loaded.isNone && b.agreedX
      agHeld := false
      loaded := none
      entryCtx := none }
  s.setPcOf h epc

/-! Landings (R112, R113). -/

/-- The lowest number set in eight bits. -/
def lowest8 (m : BitVec 8) : Option Nat := (List.range 8).find? fun i => m.getLsbD i

/-- R112: the A-hart enters the landing handler of stream `n`. Its waiting instruction has not performed. -/
def State.enterLanding (s : State) (n : Nat) : State :=
  s.mapB fun b =>
    { b with
      waitA := none
      monitor := false
      atRel := none
      landDue := b.landDue &&& ~~~((1 : BitVec 8) <<< n)
      ctx := { b.ctx with
        landPend := b.ctx.landPend &&& ~~~((1 : BitVec 8) <<< n)
        retLatch := b.ctx.pcA
        inLand := true
        sh := b.ctx.sh.set 0 (BitVec.ofNat 64 n)
        pcA := b.ctx.ac.lvec } }

/-! Streams by number (R104). -/

def streamNos : List (BitVec 3) := [0, 1, 2, 3, 4, 5, 6, 7]
def Ctx.stream (c : Ctx) (n : BitVec 3) : Stream := c.streams.get n.toFin
def Ctx.setStream (c : Ctx) (n : BitVec 3) (t : Stream) : Ctx := { c with streams := c.streams.set n.toNat t n.isLt }
def State.stream (s : State) (n : BitVec 3) : Stream := s.b.ctx.stream n
def State.setStream (s : State) (n : BitVec 3) (t : Stream) : State := s.mapCtx fun c => c.setStream n t

/-! Queues (R22, R23). -/

def State.lqOf (s : State) (q : BitVec 2) : List Entry := s.b.ctx.lq.get q.toFin
def State.sqOf (s : State) (q : BitVec 2) : List Entry := s.b.ctx.sq.get q.toFin
def State.setLq (s : State) (q : BitVec 2) (l : List Entry) : State :=
  s.mapCtx fun c => { c with lq := c.lq.set q.toNat l q.isLt }
def State.setSq (s : State) (q : BitVec 2) (l : List Entry) : State :=
  s.mapCtx fun c => { c with sq := c.sq.set q.toNat l q.isLt }

/-- The head a pop takes: a partial load-queue entry is not yet there (R102). -/
def State.lqHead (s : State) (q : BitVec 2) : Option Entry :=
  match s.lqOf q with
  | e :: _ => if e.part.isNone then some e else none
  | [] => none
/-- The head of a store queue: an entry that an X instruction has begun is not yet there (log entry 27). -/
def State.sqHead (s : State) (q : BitVec 2) : Option Entry :=
  match s.sqOf q with
  | e :: _ => if e.part.isNone then some e else none
  | [] => none
def State.popLq (s : State) (q : BitVec 2) : State := s.setLq q (s.lqOf q).tail
def State.popSq (s : State) (q : BitVec 2) : State := s.setSq q (s.sqOf q).tail
def State.sqRoom (s : State) (q : BitVec 2) : Bool := decide ((s.sqOf q).length < Config.vqDepth)
def State.pushSq (s : State) (q : BitVec 2) (e : Entry) : State := s.setSq q (s.sqOf q ++ [e])
def State.pushLq (s : State) (q : BitVec 2) (e : Entry) : State := s.setLq q (s.lqOf q ++ [e])
/-- The entry an all-false operation leaves (R59, R60). -/
def Entry.none : Entry := ⟨0, true, Option.none⟩

/-- R24: neither of the operations two harts wait on can complete. -/
def State.queueBlocked (s : State) : Wait → Bool
  | .pop (.lq q) => (s.lqHead q).isNone
  | .pop (.sq q) => (s.sqHead q).isNone
  | .pop .tqa => s.b.ctx.tqa.isEmpty
  | .pop .tqx => s.b.ctx.tqx.isEmpty
  | .pop .kq => s.b.ctx.kq.isEmpty
  | .push (.lq q) => decide (Config.vqDepth ≤ (s.lqOf q).length)
  | .push (.sq q) => decide (Config.vqDepth ≤ (s.sqOf q).length)
  | .push .tqa => decide (Config.tokDepth ≤ s.b.ctx.tqa.length)
  | .push .tqx => decide (Config.tokDepth ≤ s.b.ctx.tqx.length)
  | .push .kq => decide (Config.kqDepth ≤ s.b.ctx.kq.length)
  | .push .grant => decide (Config.grantDepth ≤ s.b.ctx.grants.length)
  | _ => false

/-! Slices of a quad (R11, R172). -/

def State.budget (l : List (Nat × Nat)) (n full : Nat) : Nat :=
  match l.find? fun p => p.1 == n with
  | some p => p.2
  | none => full
/-- R50: the lane budget of the braid's core, in EGs. -/
def State.laneBudget (s : State) : Nat := State.budget s.lanes s.b.core 16
def State.sliceBudget (s : State) (quad : Nat) : Nat := State.budget s.slices quad 4
/-- Slices that resident braids of a quad hold. -/
def State.slicesHeld (s : State) (quad : Nat) : Nat :=
  (s.braids.filter fun b => b.live && quadOf b.core == quad).foldl (fun n b => n + b.ctx.xc.mgrant.toNat) 0
/-- The slices of a quad; a boot core has no array (R11). -/
def slicesOf (quad : Nat) : Nat := if quad < 160 then 4 else 0
/-- The slices of the quad that no resident braid holds. -/
def State.freeSlices (s : State) (quad : Nat) : Nat := slicesOf quad - s.slicesHeld quad

/-- R156: the card priority of the braid that asks for slices. -/
def State.askPrio (s : State) (b : Braid) : Nat := match s.task? b.task with | some t => t.prio0 | none => 0
/-- Another braid's request for slices comes before the one of the braid in focus: by card priority, then by age (R156). -/
def State.asksFirst (s : State) (c : Braid) : Bool :=
  let p := s.askPrio c
  let q := s.askPrio s.b
  decide (q < p) || (p == q && decide (c.askAge.getD s.ticks < s.b.askAge.getD s.ticks))
/-- Slices that a braid waits for in `ctxload` (R307), and in a follower's `matt` (R172). -/
def Braid.lacksLoad (b : Braid) : Nat := match b.waitA with | some (.reattach n) => n - b.ctx.xc.mgrant.toNat | _ => 0
def Braid.lacksMatt (b : Braid) : Nat := match b.waitX with | some (.slices _ g) => g | _ => 0
/-- The free slices of the braid's quad that its request may take: those of requests before it are kept, every `ctxload` before any
`matt` (R156, R307). -/
def State.slicesFor (s : State) (load : Bool) : Nat :=
  let others := s.rest.filter fun c => c.live && quadOf c.core == quadOf s.b.core
  let first := others.filter s.asksFirst
  let kept := if load then first.foldl (fun n c => n + c.lacksLoad) 0
    else others.foldl (fun n c => n + c.lacksLoad) 0 + first.foldl (fun n c => n + c.lacksMatt) 0
  s.freeSlices (quadOf s.b.core) - kept
/-- The braid waits for slices, from the moment it first asked. -/
def State.ask (s : State) : State := s.mapB fun b => { b with askAge := some (b.askAge.getD s.ticks) }

/-! Vector stores that have not performed (R117, R122). -/

/-- R116: a braid at core `c` lies within a scope of a hart of another braid at core `d`. -/
def within (scope d c : Nat) : Bool :=
  decide (4 ≤ scope) || (scope == 3 && dieOf c == dieOf d) || (scope == 2 && c == d)

/-- Pending vector stores perform, in order (R122). -/
def State.performAll (s : State) (l : List BufItem) : State :=
  (l.filter (·.home)).foldl (fun s i => s.writeMem i.key i.size i.data) s

/-- The pending items of a braid up to the last that `of` takes: those that perform so that all of them have (R120). -/
def prefixTo (of : BufItem → Bool) : List BufItem → List BufItem × List BufItem
  | [] => ([], [])
  | i :: r =>
    let p := prefixTo of r
    if p.1.isEmpty && !of i then ([], i :: r) else (i :: p.1, p.2)

/-- A braid's vector stores perform, up to the last that `of` takes. -/
def State.performOf (s : State) (id : Nat) (of : BufItem → Bool) : State :=
  match s.find id with
  | none => s
  | some b =>
    let p := prefixTo of b.out
    (s.performAll p.1).mapBraids fun c => if c.id = id then { c with out := p.2 } else c

/-- The vector stores of the braid in focus perform. -/
def State.drainOut (s : State) : State := if s.b.out.isEmpty then s else (s.performAll s.b.out).mapB fun b => { b with out := [] }

/-- Vector stores of the braid in focus perform, up to the last that `of` takes, before an access of its own that they must precede. -/
def State.settleOut (s : State) (of : BufItem → Bool) : State :=
  let p := prefixTo of s.b.out
  if p.1.isEmpty then s else (s.performAll p.1).mapB fun b => { b with out := p.2 }
/-- R118, R122: a scalar access follows the hart's vector stores to its cache line that a release has ordered. -/
def State.settleLine (s : State) (key : Nat) : State := s.settleOut fun i => decide (i.level ≠ 0) && i.meets (key / 64 * 64) 64
/-- R119, R126: an atomic or an `mwait` reads what the hart's vector stores have written before it. -/
def State.settleBytes (s : State) (key n : Nat) : State := s.settleOut fun i => i.meets key n

/-- R117, R118: a release at a scope: at device scope or wider the hart's vector stores perform; at a narrower one they do for the agents in
it, the hart itself always among them, which is noted on them. -/
def State.orderOut (s : State) (scope : Nat) : State :=
  if 4 ≤ scope then s.drainOut
  else if s.b.out.isEmpty then s
  else s.mapB fun b => { b with out := b.out.map fun i => { i with level := max i.level (scope + 1) } }

/-- R117: an acquire at a scope: what other braids' releases have ordered performs, where each hart lies in the other's scope. -/
def State.observe (s : State) (scope : Nat) : State :=
  s.rest.foldl (fun s c => if c.out.isEmpty then s
    else s.performOf c.id fun i => within (i.level - 1) c.core s.b.core && within scope s.b.core c.core) s

/-! Translation contexts. -/

/-- The translation context of the braid's own accesses. -/
def State.ownXlate (s : State) : Xlate := ⟨some s.b.core, s.b.ctx.ac.pgroot.toNat, s.b.ctx.ac.asn, s.b.level == .user⟩

/-- R103 for a scalar access, an `amo` or an element of the braid in the global space. -/
def State.own (s : State) (va size : Nat) (k : Kind) : Except Nat (Nat × State) := s.access s.ownXlate s.b.task va size k true
def State.ownCheck (s : State) (va size : Nat) (k : Kind) : Except Nat (Nat × State) := s.check s.ownXlate s.b.task va size k true

end Sys2Proof.Machine
end

