-- ==== Sys2Proof/Machine/Fabric.lean ====
section
/-! DEFINITION. The fabric space (spec/16 R217-R224): an element at its owner, the chunks of the home bank and how they combine,
status records, and what a sender's `cstat` records. -/

namespace Sys2Proof.Machine

/-! Sums of contributions (R221). -/

/-- The wire format of floating contributions. -/
def wireFmt (w64 : Bool) : Fmt := if w64 then .f64 else .f32

/-- A contribution widened, or for f64 over an f32 wire narrowed, to the wire format. -/
def toWire (t : Reg) (w64 : Bool) (c : Nat) : FVal :=
  match fmtOf t with
  | none => .nan
  | some f => let w := wireFmt w64; w.decode (w.round .rne (f.decode c)).1

/-- An addition rounded RNE in the wire format, and whether it overflowed. -/
def wireAdd (w : Fmt) (x y : FVal × Bool) : FVal × Bool :=
  let (c, fl) := w.round .rne (x.1.add false y.1)
  (w.decode c, x.2 || y.2 || fl &&& flagOF != 0)

/-- One addition of the tree; an absent operand leaves its partner unchanged. -/
def treeAdd (w : Fmt) : Option (FVal × Bool) → Option (FVal × Bool) → Option (FVal × Bool)
  | some x, some y => some (wireAdd w x y)
  | some x, none => some x
  | none, y => y

/-- The eight ranks of a node. -/
def nodeSum (w : Fmt) (s : Nat → Option (FVal × Bool)) : Option (FVal × Bool) :=
  let p (i : Nat) := treeAdd w (s i) (s (i + 1))
  treeAdd w (treeAdd w (p 0) (p 2)) (treeAdd w (p 4) (p 6))

/-- The fixed order over all ranks. -/
def fixedSum (w : Fmt) (g : Nat) (s : Nat → Option (FVal × Bool)) : Option (FVal × Bool) :=
  (List.range ((g + 7) / 8)).foldl (fun t n => treeAdd w t (nodeSum w fun i => s (8 * n + i))) none

/-- An element is NaN: for a complex one either part is (R74), for a block its scale says so (R75). -/
def nanElem (t : Reg) (c : Nat) : Bool :=
  if isBlock t then c % 256 == 255
  else match fmtOf t with
    | some f => (f.decode c).isNan || (isComplex t && (f.decode (c / 2 ^ (sewOf t / 2))).isNan)
    | none => false

/-- The canonical NaN of a type (R73): both parts of a complex one, and a block of scale 0xFF, whose other bytes no rule gives (R222; log entry
100). -/
def nanOf (t : Reg) : Nat :=
  if isBlock t then 255 + 256 * (Config.nanBlock 0 []).toNat
  else match fmtOf t with
    | some f =>
      let n := (f.round .rne .nan).1
      if isComplex t then n + 2 ^ (sewOf t / 2) * n else n
    | none => 0

/-- An element of a completed chunk from what the ranks delivered: its code, and whether a sum overflowed. A NaN of any rank makes it the
canonical NaN, of a copy too (R222). -/
def combine (c : Chunk) (at_ : Nat → Option Nat) : Option (Nat × Bool) :=
  let ranks := List.range c.members.length
  let xs := ranks.filterMap at_
  match xs with
  | [] => none
  | x0 :: rest =>
    if c.op = 4 then some (if xs.any (nanElem c.ty) then nanOf c.ty else x0, false)
    else match fmtOf c.ty with
      | none =>
        let w := sewOf c.ty
        let f (a b : Int) : Int := if c.op = 1 then a + b else if c.op = 2 then max a b else min a b
        some (ofSigned w (rest.foldl (fun a x => f a (intVal c.ty x)) (intVal c.ty x0)), false)
      | some fm =>
        if c.op = 1 then
          let w := wireFmt c.w64
          let s (r : Nat) : Option (FVal × Bool) := (at_ r).map fun x => (toWire c.ty c.w64 x, false)
          let t := if c.arr then c.order.foldl (fun t r => treeAdd w t (s r)) none else fixedSum w c.members.length s
          t.map fun v => ((fm.round .rne v.1).1, v.2)
        else
          let f (a b : FVal) : FVal := if c.op = 2 then a.max b else a.min b
          some ((fm.round .rne (rest.foldl (fun a x => f a (fm.decode x)) (fm.decode x0))).1, false)

/-! The home bank (R219, R220, R223). -/

/-- The die of a key (R98). -/
def dieOfKey (key : Nat) : Nat := if key < 2 ^ 44 then key / 2 ^ 37 else if key < 2 ^ 45 then (key - 2 ^ 44) / 2 ^ 42 else dieOf ((key - 2 ^ 45) / 2 ^ 20)

def Chunk.sameGroup (c d : Chunk) : Bool := c.members == d.members && c.status == d.status

/-- What a rank delivered at an offset. -/
def Chunk.data (c : Chunk) (rank off : Nat) : Option Nat :=
  (c.slots.find? fun x => x.1 == rank && x.2.1 == off).map (·.2.2.1)
/-- Bytes a rank has delivered, and bytes that any rank has. -/
def Chunk.filled (c : Chunk) (rank : Nat) : Nat := (c.slots.filter fun x => x.1 == rank).foldl (fun n x => n + x.2.2.2) 0
def Chunk.covered (c : Chunk) : Nat :=
  let offs := c.slots.foldl (fun (l : List (Nat × Nat)) x => if l.any (·.1 == x.2.1) then l else (x.2.1, x.2.2.2) :: l) []
  offs.foldl (fun n x => n + x.2) 0

/-- An element put in its slot; a repeated one replaces the slot's value (R219). -/
def Chunk.put (c : Chunk) (rank off data size : Nat) : Chunk :=
  let old := c.slots.any fun x => x.1 == rank && x.2.1 == off
  let c' := { c with slots :=
    if old then c.slots.map fun x => if x.1 = rank ∧ x.2.1 = off then (rank, off, data, size) else x
    else c.slots ++ [(rank, off, data, size)] }
  if c'.filled rank = c.stride ∧ !c.order.contains rank then { c' with order := c.order ++ [rank] } else c'

/-- Every slot is full; for copy, every element has come from some rank (log entry 26). -/
def Chunk.full (c : Chunk) : Bool :=
  if c.op = 4 then decide (c.covered = c.stride) else c.order.length == c.members.length

/-- Writes bytes at a virtual address of this module for the home bank, if they translate. -/
def State.homeWrite (s : State) (x : Xlate) (va size data : Nat) : State :=
  match s.check x 0 va size .store false with
  | .ok (key, s) => s.writeMem key size data
  | .error _ => s

/-- A result of the home bank on its way to memory: an ordinary load may still find the bytes as they were (R130). -/
def State.homeResult (s : State) (x : Xlate) (va size data : Nat) : State :=
  match s.check x 0 va size .store false with
  | .ok (key, s) => { s with xres := s.xres ++ [(key, size, data)] }
  | .error _ => s

/-- The oldest result of a chunk reaches memory. -/
def State.landOne (s : State) : State :=
  match s.xres with
  | [] => s
  | w :: r => ({ s with xres := r } : State).writeMem w.1 w.2.1 w.2.2
/-- R130: every result of a completed chunk has reached memory. -/
def State.landAll (s : State) : State :=
  s.xres.foldl (fun s w => s.writeMem w.1 w.2.1 w.2.2) { s with xres := [] }

/-- R223: the status record, word 0 last. -/
def State.writeStatus (s : State) (c : Chunk) (state nans : Nat) (ovf : Bool) : State :=
  let x : Xlate := ⟨none, c.root.toNat, c.asn, false⟩
  let base := c.status.toNat + 64 * (c.q / c.members.length)
  let mask := (List.range c.members.length).foldl (fun m r => if c.filled r = c.stride then m + 2 ^ r else m) 0
  let word := (c.rounds + 1) % 2 ^ 16 * 2 ^ 48 + nans % 2 ^ 24 * 2 ^ 24 + (if c.w64 then 2048 else 0) + (if c.arr then 1024 else 0)
    + (if ovf then 512 else 0) + state
  let s := (List.range 4).foldl (fun s i => s.homeWrite x (base + 8 + 8 * i) 8 (mask / 2 ^ (64 * i) % 2 ^ 64)) s
  s.homeWrite x base 8 word

def closeChunk (c : Chunk) : Chunk := { c with slots := [], order := [], isOpen := false, rounds := c.rounds + 1 }

/-- R219, R221, R222: a full chunk is combined, its result goes to the owner's bytes, and its status record is written. -/
def State.completeChunk (s : State) (c : Chunk) : State :=
  let size := bytesOf c.ty
  let x : Xlate := ⟨none, c.root.toNat, c.asn, false⟩
  let step (acc : State × Nat × Bool) (i : Nat) : State × Nat × Bool :=
    match combine c (fun r => c.data r (i * size)) with
    | some (v, ovf) => (acc.1.homeResult x (c.q * c.stride + i * size) size v, acc.2.1 + (if nanElem c.ty v then 1 else 0), acc.2.2 || ovf)
    | none => acc
  let (s, nans, ovf) := (List.range (c.stride / size)).foldl step (s, 0, false)
  s.writeStatus c 1 nans ovf

def Chunk.isFor (c : Chunk) (q : Nat) (members : List Nat) (status : Word) : Bool :=
  c.q == q && c.members == members && c.status == status

/-- Puts a chunk's new value in the bank, completing it if it is full. -/
def State.settleChunk (s : State) (c : Chunk) : State :=
  let keep := s.chunks.filter fun d => !(d.isFor c.q c.members c.status)
  if c.full then { s.completeChunk c with chunks := keep ++ [closeChunk c] } else { s with chunks := keep ++ [c] }

def openCount (s : State) (c : Chunk) : Nat := (s.chunks.filter fun d => d.isOpen && d.die == c.die && d.sameGroup c).length

/-- R224: a chunk completes with state 2, its destination unchanged. -/
def State.loseChunk (s : State) (c : Chunk) : State := s.writeStatus c 2 0 false

def State.isLost (s : State) (m : Nat) : Bool := s.lost.any fun x => x.toNat == m

/-- R224: a chunk of a group with a lost member ends, and takes no more elements (log entry 68). -/
def State.endLost (s : State) (c : Chunk) : State :=
  { s.loseChunk c with
    chunks := (s.chunks.filter fun d => !(d.isFor c.q c.members c.status)) ++ [{ closeChunk c with dead := true }] }

/-- The chunk that an element belongs to, as it stands at its home or newly opened, and whether it is open there already. -/
def State.chunkFor (s : State) (die : Nat) (e : FabElem) : Chunk × Bool :=
  let q := e.va.toNat / e.stride
  let fresh : Chunk := ⟨q, die, e.op, e.ty, e.stride, e.arr, e.w64, e.status, e.members, e.root, e.asn, [], [], true, 0, false⟩
  match s.chunks.find? fun c => c.isFor q e.members e.status with
  | some c => if c.isOpen then (c, true) else ({ fresh with rounds := c.rounds, dead := c.dead }, false)
  | none => (fresh, false)

/-- R219, R220: a contribution that has passed the owner's checks fills its slot, opening the chunk or its next round; none if `room`
chunks of the group are open at the die already. In a group with a lost member nothing waits: a chunk's first element ends it with
state 2, and later ones are discarded (R224; log entry 68). -/
def State.contributeIn (s : State) (room die : Nat) (e : FabElem) : Option State :=
  let p := s.chunkFor die e
  let c := p.1.put e.rank (e.va.toNat % e.stride) e.data e.size
  if p.1.dead then some s
  else if e.members.any s.isLost then some (s.endLost c)
  else if p.2 || decide (openCount s p.1 < room) then some (s.settleChunk c)
  else none
def State.contribute (s : State) (die : Nat) (e : FabElem) : Option State := s.contributeIn Config.openChunks die e

/-- The plane that carries a chunk's elements: q mod 16 (R217), or with its port failed the next whose port works (R18; log entry 62);
none if none does. -/
def State.planeFor (s : State) (q : Nat) : Option Nat :=
  ((List.range 16).find? fun i => s.ports.getLsbD ((q + i) % 16)).map fun i => (q + i) % 16
def State.planeOf (s : State) (e : FabElem) : Option Nat := s.planeFor (e.va.toNat / e.stride)
/-- The member that issued an element. -/
def senderOf (e : FabElem) : Nat := e.members.getD e.rank 0
/-- Two elements travel on one channel (R217). -/
def State.sameChannel (s : State) (a e : FabElem) : Bool := senderOf a == senderOf e && s.planeOf a == s.planeOf e
/-- An element waiting on a channel keeps later ones of it waiting (R217, R220). -/
def State.channelBusy (s : State) (e : FabElem) : Bool := s.arrivals.any fun a => s.sameChannel a.e e

/-- What becomes of a store element at its owner: it is taken, discarded (R218), or has no room (R220). -/
inductive AtOwner where
  | taken
  | bad
  | stalled
deriving DecidableEq, Repr

/-- R218, R219: a store element at this module as owner, translated in `x` and checked against task `t`. A plain store follows the results
of the chunks before it. -/
def State.performAtOwner (s : State) (x : Xlate) (t : Nat) (e : FabElem) : State × AtOwner :=
  match s.access x t e.va.toNat e.size .store false with
  | .error _ => (s, .bad)
  | .ok (key, u) =>
    if e.op = 0 then (u.landAll.writeMem key e.size e.data, .taken)
    else match u.contribute (dieOfKey key) e with
      | some v => (v, .taken)
      | none => (s, .stalled)

/-- The same behind what waits on its channel. -/
def State.storeAtOwner (s : State) (x : Xlate) (t : Nat) (e : FabElem) : State × AtOwner :=
  if s.channelBusy e then (s, .stalled) else s.performAtOwner x t e

/-- R218: a load element at this module as owner, under the stores that its hart has pending; zero if it fails. -/
def State.loadAtOwner (s : State) (x : Xlate) (t va size : Nat) (pending : List BufItem) : State × Nat × Bool :=
  match s.check x t va size .load false with
  | .error _ => (s, 0, true)
  | .ok (key, s) => if s.poisonUnder pending key size .load then (s, 0, true) else (s, underItems pending key size (s.readMem key size), false)

/-! The sender's side. -/

def cstatErr (c : BitVec 16) : BitVec 16 := c ||| 2
/-- R216, R224: LOST, with the first member number kept. -/
def cstatLost (m : Nat) (c : BitVec 16) : BitVec 16 := if c.getLsbD 0 then c else (c &&& 0x00FF) ||| BitVec.ofNat 16 (m * 256) ||| 1

def State.mapCstat (s : State) (f : BitVec 16 → BitVec 16) : State := s.mapCtx fun c => { c with ac := { c.ac with cstat := f c.ac.cstat } }
def State.senderErr (s : State) (bad : Bool) : State := if bad then s.mapCstat cstatErr else s

/-- A free value from outside the module: `n` bytes of another member's memory (log entry 20). -/
def State.remoteRead (s : State) (n : Nat) : State × Nat × Bool :=
  let bytes := (List.range n).foldr (fun i v => (Config.remoteByte (s.free + i)).toNat + 256 * v) 0
  ({ s with free := s.free + n + 1 }, if Config.remoteFails (s.free + n) then 0 else bytes, Config.remoteFails (s.free + n))

/-- The group the braid's `cgrp` latched, if the fabric space can be used (R217). -/
def Ctx.fabric (c : Ctx) : Option Group := if c.ac.cgrp = 0 ∨ c.ac.cstr = 0 then none else c.grp

/-- The member that owns an address (R217). -/
def Group.owner (g : Group) (stride va : Nat) : Nat := g.members.getD (va / stride % g.members.length) 0
def Group.rankOf (g : Group) (m : Nat) : Nat := g.members.findIdx fun x => x == m

/-- An element of the braid in focus as it travels. -/
def State.elem (s : State) (g : Group) (stride : Nat) (op : BitVec 3) (ty : BitVec 5) (va : Word) (size data : Nat) : FabElem :=
  ⟨g.rankOf s.lmember.toNat, op, ty, size, va, data, stride, g.arr, g.w64, g.status, g.members, s.b.ctx.ac.pgroot, s.b.ctx.ac.asn⟩

/-- R218, R224: a store element of the braid in focus performed: at this module if it is the owner, discarded with LOST if the owner is
lost or no port works, else sent on its plane, where its owner may discard it with ERR (log entry 20). None if it has no room (R220). -/
def State.fabricStore (s : State) (g : Group) (e : FabElem) : Option State :=
  let owner := g.owner e.stride e.va.toNat
  if s.isLost owner then some (s.mapCstat (cstatLost owner))
  else if owner = s.lmember.toNat then
    match s.storeAtOwner s.ownXlate s.b.task e with
    | (_, .stalled) => none
    | (t, .bad) => some (t.mapCstat cstatErr)
    | (t, .taken) => some t
  else match s.planeOf e with
    | none => some (s.mapCstat (cstatLost owner))
    | some p => some (({ s with fabOut := s.fabOut ++ [(p, e)], free := s.free + 1 } : State).senderErr (Config.remoteFails s.free))

/-- A byte that the hart's own pending plain fabric stores to a member give, over the byte of memory (R122, R218). -/
def fabByte (l : List BufItem) (owner : Nat) (va old : Nat) : Nat :=
  l.foldl (fun v i =>
    if i.space == 3 && i.op == 0 && i.grp.any (fun g => g.owner i.stride i.va.toNat == owner) && decide (i.va.toNat ≤ va ∧ va < i.va.toNat + i.size)
    then i.data / 2 ^ (8 * (va - i.va.toNat)) % 256 else v) old

/-- R218: a load element, under the hart's own pending stores. What a lost member returns is as free as another member's bytes (log entry
20). -/
def State.fabricLoad (s : State) (g : Group) (va : Word) (size : Nat) : State × Nat :=
  let owner := g.owner s.b.ctx.ac.cstr.toNat va.toNat
  let s := if s.isLost owner then s.mapCstat (cstatLost owner) else s
  if owner = s.lmember.toNat then
    let (s, v, bad) := s.loadAtOwner s.ownXlate s.b.task va.toNat size (s.b.buf ++ s.b.out)
    (s.senderErr bad, v)
  else
    let (s, v, bad) := s.remoteRead size
    let v := if s.b.buf.isEmpty then v
      else (List.range size).foldr (fun i r => fabByte s.b.buf owner (va.toNat + i) (v / 2 ^ (8 * i) % 256) + 256 * r) 0
    (s.senderErr bad, v)

/-- R217: a load element of the braid in focus to this module stays behind the elements that wait on its channel. -/
def State.loadHeld (s : State) (g : Group) (va : Word) (size : Nat) : Bool :=
  g.owner s.b.ctx.ac.cstr.toNat va.toNat == s.lmember.toNat &&
    s.channelBusy (s.elem g s.b.ctx.ac.cstr.toNat 0 s.hr.vt va size 0)

end Sys2Proof.Machine
end

