-- ==== Sys2Proof/Machine/Replica.lean ====
section
/-! DEFINITION. Releases and acquires (spec/07 R96, R117), how a store element performs or waits in the release buffer, and replica
sets (spec/19): signatures R243, release points R245, forwarded values R247 and R248, disagreement R249 to R251. -/

namespace Sys2Proof.Machine

/-! Releases and acquires of the hart (R117): its scalar cache (R96) and its vector stores (R122); the X-hart issues no memory access
(R118). -/

/-- A release: at core scope or wider dirty bytes are written back (R96), and the vector stores are ordered for the agents in the scope, at any
scope for the hart itself (R118, R122). -/
def State.release (s : State) (scope : Nat) : State :=
  if s.hart == .A then (if 2 ≤ scope then s.cacheWriteback else s).orderOut scope else s
/-- An acquire: at core scope or wider the hart sees what releases whose scopes reach it have ordered, and dirty bytes are written back and
every line invalidated (R96). -/
def State.acquire (s : State) (scope : Nat) : State :=
  if s.hart == .A && decide (2 ≤ scope) then (s.observe scope).cacheFlush else s

def scopeDie : Nat := 3
def scopeDevice : Nat := 4

/-! Sets. -/

def State.mapSet (s : State) (r : RSet) (f : RSet → RSet) : State :=
  { s with sets := s.sets.map fun q => if q.task = r.task ∧ q.idx = r.idx then f q else q }
def State.members (s : State) (r : RSet) : List Braid := s.braids.filter fun b => r.has b
def State.leaderOf (s : State) (r : RSet) : Option Braid := (s.members r).find? fun b => b.rep == r.leader

/-! Signatures (R243). -/

def crcBit (c : Word) : Word := if c.getLsbD 63 then (c <<< 1) ^^^ 0x42F0E1EBA9EA3693 else c <<< 1
def crcByte (c : Word) (b : Nat) : Word := (List.range 8).foldl (fun c _ => crcBit c) (c ^^^ (BitVec.ofNat 64 b <<< 56))
/-- Sig(h, rec). -/
def crcRecord (c : Word) (rec : List Nat) : Word := rec.foldl crcByte c
def leBytes (n v : Nat) : List Nat := (List.range n).map fun i => v / 2 ^ (8 * i) % 256

def Braid.sign (b : Braid) (h : Hart) (rec : List Nat) : Braid :=
  match h with
  | .A => { b with crcA := crcRecord b.crcA rec }
  | .X => { b with crcX := crcRecord b.crcX rec }
/-- A store element's record: the space and address as formed, the size, the data. -/
def storeRecord (space : BitVec 2) (va : Word) (size data : Nat) : List Nat :=
  leBytes 8 ((BitVec.setWidth 64 space <<< 57 ||| va).toNat) ++ [size] ++ leBytes size data
/-- The record of an operation of R247: its word and the registers it reads. -/
def opRecord (i : Instr) (inputs : List Word) : List Nat :=
  leBytes 4 ((encode i).getD 0).toNat ++ inputs.flatMap fun w => leBytes 8 w.toNat

/-! Store elements and loads under the release buffer (R131, R244). -/

/-- R246: the buffer has no room for an element of a size. -/
def State.bufferFull (s : State) (size : Nat) : Bool :=
  s.replicated && (decide (Config.bufElems < s.b.buf.length + 1) ||
    decide (Config.bufBytes < s.b.buf.foldl (fun n i => n + i.size) 0 + size))

/-- A store element of the A-hart as it is issued; its bytes lie at `key` but for a fabric store that `homeKey` finds no place for. -/
def State.item (s : State) (space : BitVec 2) (va : Word) (key size data : Nat) (ticketed : Bool) : BufItem :=
  ⟨space, va, key, size, data, s.b.ctx.ac.cop, s.hr.vt, s.b.ctx.fabric, s.b.ctx.ac.cstr.toNat, ticketed, space != 3, 0⟩

/-- Where the bytes of a plain fabric store of the braid lie, if this module owns them (R217, R218). -/
def State.homeKey (s : State) (g : Group) (va : Word) (n : Nat) : Option Nat :=
  if s.b.ctx.ac.cop = 0 ∧ g.owner s.b.ctx.ac.cstr.toNat va.toNat = s.lmember.toNat then
    match s.check s.ownXlate s.b.task va.toNat n .store false with
    | .ok (key, _) => some key
    | .error _ => none
  else none
/-- A fabric store element as it is issued. -/
def State.fabItem (s : State) (g : Group) (va : Word) (n x : Nat) : BufItem :=
  match s.homeKey g va n with
  | some key => { s.item 3 va key n x false with home := true }
  | none => s.item 3 va 0 n x false

/-- A store element of the A-hart outside the scalar cache and the fabric: put in the release buffer and signed, kept for later if the
turn says so (R122) and it touches no poisoned word, or performed behind the vector stores before it. The caller has made its checks and
found its key. -/
def State.commit (s : State) (i : BufItem) : State :=
  if s.replicated then
    s.mapB fun b => ({ b with buf := b.buf ++ [i] } : Braid).sign .A (storeRecord i.space i.va i.size i.data)
  else if i.space ≠ 0 then s.writeMem i.key i.size i.data
  else if s.lazy && !i.ticketed && !s.poisoned i.key i.size then s.mapB fun b => { b with out := b.out ++ [i] }
  else
    let s := if i.ticketed then { s with ticket := s.ticket + 1 } else s
    s.drainOut.writeMem i.key i.size i.data

/-- What stands between the A-hart's vector unit and memory: the release buffer, or its vector stores that have not performed. -/
def State.pending (s : State) : List BufItem := s.b.buf ++ s.b.out

/-- Bytes read under the release buffer. -/
def State.overBuffer (s : State) (key n v : Nat) : Nat := underItems s.b.buf key n v

/-- R247: the bytes of a load are in a shared-mutable region or in no region of the footprint. -/
def State.mustForward (s : State) (va n : Nat) : Bool :=
  s.replicated && match s.thisTask with
    | none => true
    | some t =>
      t.regions.any (fun r => r.mode == 3 && decide (r.base < va + n ∧ va < r.base + r.len)) ||
        !footprintOk t.regions va n .load

/-! Forwarded values (R247, R248). -/

def State.fwd (s : State) : Nat := match s.hart with | .A => s.b.fwdA | .X => s.b.fwdX
def State.tookFwd (s : State) : State :=
  match s.hart with
  | .A => s.mapB fun b => { b with fwdA := b.fwdA + 1, tookA := max b.tookA (b.fwdA + 1) }
  | .X => s.mapB fun b => { b with fwdX := b.fwdX + 1 }
def RSet.log (r : RSet) : Hart → List Nat
  | .A => r.logA
  | .X => r.logX
def State.logValue (s : State) (r : RSet) (v : Nat) : State :=
  let h := s.hart
  s.mapSet r fun q => match h with
    | .A => { q with logA := q.logA ++ [v] }
    | .X => { q with logX := q.logX ++ [v] }

/-- What the leader does once for its set, when `ready` finds no wait: its value is forwarded, and a rerun takes it from the log without
doing it again (R247, R248). Outside replica execution the braid does it. An instruction that waits after it is under `Res.replay`. -/
def State.onceWhen (s : State) (ready : State → Option Wait) (op : State → State × Nat) (k : State → Nat → Res) : Res :=
  let own (after : State → Nat → State) : Res :=
    match ready s with
    | some w => .wait s w
    | none => k (after (op s).1 (op s).2) (op s).2
  match s.rset with
  | none => own fun s _ => s
  | some r =>
    match (r.log s.hart)[s.fwd]? with
    | some x => k s.tookFwd x
    | none => if s.b.rep = r.leader then own fun s x => (s.logValue r x).tookFwd else .wait s .forward

/-- A value that the leader decides when `ready` finds no wait, and every replica takes (R247). -/
def State.decided (s : State) (ready : State → Option Wait) (v : State → Nat) (k : State → Nat → Res) : Res :=
  s.onceWhen ready (fun s => (s, v s)) k

/-- A value decided without a wait. -/
def State.forward (s : State) (v : State → Nat) (k : State → Nat → Res) : Res := s.decided (fun _ => none) v k

/-- An operation that the leader performs once, its value forwarded (R247). -/
def State.once (s : State) (op : State → State × Nat) (k : State → Nat → Res) : Res := s.onceWhen (fun _ => none) op k

/-- The braid decides for its set, or is in none. -/
def State.leads (s : State) : Bool :=
  match s.rset with
  | none => true
  | some r => s.b.rep == r.leader

/-- An instruction that waits after values it took takes them again when it is executed again. -/
def Res.replay (s : State) : Res → Res
  | .wait t w => .wait (t.mapB fun b => { b with fwdA := s.b.fwdA, fwdX := s.b.fwdX }) w
  | .done t => .done t
  | .trap t c e => .trap t c e

/-! Releases of a set (R245). -/

def Braid.count (b : Braid) : Hart → Nat
  | .A => b.retA
  | .X => b.retX
def Braid.wait (b : Braid) : Hart → Option Wait
  | .A => b.waitA
  | .X => b.waitX
/-- Where a hart stands. -/
def Braid.pos (b : Braid) : Hart → Pos
  | .A => ⟨b.retA, b.ctx.ra.es.toNat, b.memDone⟩
  | .X => ⟨b.retX, b.ctx.rx.es.toNat, 0⟩
/-- A place before another in one hart's order. -/
def Pos.before (p q : Pos) : Bool :=
  decide (p.count < q.count ∨ p.count = q.count ∧ (p.es < q.es ∨ p.es = q.es ∧ p.done < q.done))
def Pos.further (p q : Pos) : Pos := if p.before q then q else p
def Pos.start : Pos := ⟨0, 0, 0⟩

/-- A hart waits to take a trap with its set. -/
def isTrap : Option Wait → Bool
  | some (.trap _ _ _) => true
  | _ => false
def Braid.trapping (b : Braid) : Bool := isTrap b.waitA || isTrap b.waitX

def Braid.agreed (b : Braid) : Hart → Bool
  | .A => b.agreedA
  | .X => b.agreedX
def Braid.setAgreed (b : Braid) (h : Hart) (v : Bool) : Braid :=
  match h with
  | .A => { b with agreedA := v }
  | .X => { b with agreedX := v }

/-- A hart that stops before the place it should run to: at a release point, a forced release or a trap of its own, or in the handler. -/
def Braid.stopped (b : Braid) (h : Hart) : Bool :=
  (b.wait h == some .release && !b.agreed h) || b.wait h == some .forced || isTrap (b.wait h) || (h == .X && b.status.getLsbD 5)

/-- The hart that a member has brought to a release point, or to a trap. -/
def State.releasing (s : State) (r : RSet) : Option Hart := (s.members r).findSome? (·.atRel)

/-- The furthest place that a member reports for a hart. -/
def State.furthest (s : State) (r : RSet) (h : Hart) : Pos := (s.members r).foldl (fun p b => p.further (b.pos h)) .start

/-- Every member stands at the release point, or the trap, of hart `h`, and its other hart has run to the furthest place reported or stopped
before it. -/
def State.allArrived (s : State) (r : RSet) (h : Hart) : Bool :=
  let o := otherHart h
  (s.members r).all fun b => b.atRel == some h && (b.pos o == s.furthest r o || b.stopped o)

/-- Every member stands at one place with both harts, none inside an element group. -/
def State.aligned (s : State) (r : RSet) : Bool :=
  match s.members r with
  | [] => false
  | b :: l => b.memDone == 0 && l.all fun c => c.pos .A == b.pos .A && c.pos .X == b.pos .X

/-- Where a pre-emption stops the set: every member has run to the largest counts reported when it was raised (R151). -/
def State.atStop (s : State) (r : RSet) : Bool :=
  match r.stop with
  | none => false
  | some (ta, tx) => s.aligned r && (s.members r).all fun b => !(b.pos .A).before ta && !(b.pos .X).before tx

/-- R131: lines of a scalar cache that hold performed bytes take their values, clean. -/
def patchLine (key size data : Nat) (l : Line) : Line :=
  (List.range size).foldl (fun l i =>
    if (key + i) / 64 = l.tag then
      { l.write ((key + i) % 64) 1 (data / 2 ^ (8 * i) % 256) with dirty := l.dirty, bad := l.bad }
    else l) l

/-- A line's words that the items write whole are no longer marked (R356). -/
def cleanLine (l : List BufItem) (m : Line) : Line :=
  { m with bad := BitVec.ofNat 8 ((List.range 8).foldl (fun n w =>
      if m.bad.getLsbD w && !wholeInBuffer l (8 * m.tag + w) then n + 2 ^ w else n) 0) }

/-- The lines of a set's scalar caches take what its leader has stored (R131). -/
def State.patchSet (s : State) (r : RSet) (key size data : Nat) : State :=
  s.mapBraids fun b => if r.has b then { b with cache := b.cache.map (patchLine key size data) } else b

/-- R245 steps 1 and 2 for one element of a member's buffer: own-pool elements everywhere, the others by the leader alone. A fabric
element that has no room waits in the fabric (R220); a ticketed one draws its ticket now (R127). -/
def performItem (r : RSet) (lead : Bool) (s : State) (i : BufItem) : State :=
  if i.space = 1 then s.writeMem i.key i.size i.data
  else if !lead then s
  else if i.space = 3 then
    match i.grp with
    | some g =>
      let e := s.elem g i.stride i.op i.ty i.va i.size i.data
      match s.fabricStore g e with
      | some t => if i.home then t.patchSet r i.key i.size i.data else t
      | none => { s with arrivals := s.arrivals ++ [⟨e, some s.b.id⟩] }
    | none => s
  else
    let s := if i.ticketed then { s with ticket := s.ticket + 1 } else s
    (s.writeMem i.key i.size i.data).patchSet r i.key i.size i.data

/-- Elements of a member's buffer performed in order; words they cover lose their poison, and their marks in the set's caches (R356). -/
def State.performItems (s : State) (r : RSet) (lead : Bool) (l : List BufItem) : State :=
  let s := l.foldl (performItem r lead) s
  let l := if lead then l.filter (·.space != 3) else l.filter (·.space == 1)
  let s := { s with poison := s.poison.filter fun w => !wholeInBuffer l w }
  s.mapBraids fun c => if r.has c then { c with cache := c.cache.map (cleanLine l) } else c
def performBuffer (r : RSet) (s : State) (b : Braid) : State := s.atBraid b.id fun s => s.performItems r (b.rep == r.leader) b.buf

/-- The braid's checkpoint (R245 step 3). -/
def Braid.checkpoint (b : Braid) : Braid :=
  { b with chk := some ⟨b.ctx, b.level, b.sysb, b.cause, b.epc, b.tvec, b.status, b.pcH, b.endS, b.loaded, b.entryCtx, b.irq32, b.irq34,
      b.irq35, b.hwm, b.binds, b.jobsIssued, b.tab, b.retA, b.retX, b.fwdA, b.fwdX, b.fwdF, b.pairsA, b.pairsX, b.due, b.landDue, b.landAt,
      b.posA, b.posX, b.memDone, b.memHeld,
      b.agreedA, b.agreedX, b.agHeld⟩ }

/-- The lowest stream with a fault not yet delivered (R110). -/
def Ctx.undelivered (c : Ctx) : Option (BitVec 3) :=
  streamNos.find? fun n => (c.stream n).st == .faulted && (c.stream n).fault.isSome && !(c.stream n).told

/-- A fault of the leader's stream as the set takes it at a count, and the leader's record of it delivered. -/
def Braid.faultRec (b : Braid) (ret : Nat) (n : BitVec 3) : FaultRec :=
  ⟨ret, n, ((b.ctx.stream n).fault.getD 0), (b.ctx.stream n).ctr⟩
def Braid.tell (b : Braid) (n : BitVec 3) : Braid := { b with ctx := b.ctx.setStream n { b.ctx.stream n with told := true } }

/-- The leader's hart waits in an instruction that the interrupts now pending end: an `idle` (R163), or an `mwait` that interrupt 32 ends
(R319). It completes before they are taken. -/
def Braid.endsWait (b : Braid) (h : Hart) : Bool :=
  match b.wait h with
  | some .idle => b.irq.isSome
  | some (.word _ _ _) => b.irq32 && b.status.getLsbD 7
  | _ => false
/-- How many instructions more a hart completes after a release before its set takes what was pending there (R151, R160): the one whose
release it is, or one that the interrupt ends. -/
def Braid.ahead (b : Braid) (agreed : Option Hart) (h : Hart) : Nat := if agreed = some h ∨ b.endsWait h = true then 1 else 0

/-- What of a wait an agreed release leaves: nothing of one for the release itself, or for room in the release buffer. -/
def Wait.outlives (agreed : Bool) : Wait → Bool
  | .release => !agreed
  | .forced => false
  | .buffered => false
  | _ => true

/-- What every member has after an agreed release: signatures 0, an empty buffer, the leader's streams, pending landings and `cstat` (R115,
R247), what is to be taken at this release and where (R151), the values `used` of both harts and the faults taken behind it, and a
checkpoint. Inside an element group nothing is taken. -/
def settled (lead : Braid) (agreed : Option Hart) (used : Nat) (b : Braid) : Braid :=
  let land := lead.ctx.landPend &&& b.ctx.landEn
  let inside := b.memDone != 0 && agreed != some Hart.A
  let b := match agreed with
    | some h => b.setAgreed h true
    | none => b
  ({ b with
    crcA := 0, crcX := 0, buf := [], fwdA := 0, fwdX := 0, fwdF := 0, tookA := b.tookA - used, atRel := none
    waitA := b.waitA.filter (Wait.outlives (agreed == some Hart.A)), waitX := b.waitX.filter (Wait.outlives (agreed == some Hart.X))
    due := if inside then 0 else b.irqs
    landDue := if inside then 0 else land
    landAt := b.retA + lead.ahead agreed .A
    posA := b.retA + lead.ahead agreed .A
    posX := b.retX + lead.ahead agreed .X
    ctx := { b.ctx with streams := lead.ctx.streams, landPend := land, ac := { b.ctx.ac with cstat := lead.ctx.ac.cstat } } }).checkpoint

/-- A comparison that failed has been passed: its hart stands there or further (R248). -/
def Braid.passed (b : Braid) (f : Hart × Pos) : Bool := !(b.pos f.1).before f.2

/-- R245: the stores of the members in `r` perform and the release counts. `agreed` is the hart whose release point this is, if it is
no forced release (R246). Forwarded values that no instruction has used yet stay (R248); what an instruction took before its own release
point it takes again. A fault of the leader's streams not yet delivered is taken by every member at this release (R110, R247; log entry
34). A pre-emption that finds the A-hart inside an element group goes on until its end. -/
def State.agree (s : State) (r : RSet) (agreed : Option Hart) : State :=
  match s.leaderOf r with
  | none => s
  | some lead =>
    let ms := s.members r
    let usedA := ms.foldl (fun n b => min n b.fwdA) lead.fwdA
    let usedX := ms.foldl (fun n b => min n b.fwdX) lead.fwdX
    let s := ms.foldl (performBuffer r) s
    let lead := (s.leaderOf r).getD lead
    let fault := if lead.status.getLsbD 5 then none else lead.ctx.undelivered
    let rec_ := fault.map (lead.faultRec (lead.retA + lead.ahead agreed .A))
    let lead := match fault with
      | some n => lead.tell n
      | none => lead
    let s := s.mapBraids fun b => if r.has b then settled lead agreed usedA b else b
    s.mapSet r fun q => { q with
      rel := q.rel + 1, failed := q.failed.filter fun f => !lead.passed f, logA := q.logA.drop usedA, logX := q.logX.drop usedX
      pairs := q.pairs.filter fun p => decide (min lead.pairsA lead.pairsX ≤ p.1)
      trims := q.trims.filter fun p => decide (min lead.pairsA lead.pairsX ≤ p.1)
      logF := q.logF.drop lead.fwdF ++ rec_.toList, stop := if lead.memDone = 0 ∨ agreed = some Hart.A then none else q.stop
      count0 := q.members.length, deg0 := q.degraded }

/-- R249: a member returns to its checkpoint and discards its buffer. The streams of the braid that leads go on, with the grant cursors of
the checkpoint; what has become pending since stays so. -/
def rollback (leads : Bool) (b : Braid) : Braid :=
  match b.chk with
  | none => b
  | some c =>
    let streams := if leads then
        b.ctx.streams.zipWith (fun t old => { t with cursor := old.cursor }) c.ctx.streams
      else c.ctx.streams
    { b with
      ctx := { c.ctx with
        streams := streams, landPend := c.ctx.landPend ||| b.ctx.landPend
        ac := { c.ctx.ac with cstat := c.ctx.ac.cstat ||| b.ctx.ac.cstat } }
      level := c.level, sysb := c.sysb, cause := c.cause, epc := c.epc, tvec := c.tvec, status := c.status, pcH := c.pcH, endS := c.endS
      loaded := c.loaded, entryCtx := c.entryCtx
      irq32 := c.irq32 || b.irq32, irq34 := c.irq34 || b.irq34, irq35 := c.irq35 || b.irq35
      hwm := c.hwm, binds := c.binds, jobsIssued := c.jobsIssued, tab := c.tab
      retA := c.retA, retX := c.retX, fwdA := c.fwdA, fwdX := c.fwdX, fwdF := c.fwdF, pairsA := c.pairsA, pairsX := c.pairsX
      due := c.due, landDue := c.landDue, landAt := c.landAt, posA := c.posA, posX := c.posX
      memDone := c.done, memHeld := c.held, agreedA := c.agreedA, agreedX := c.agreedX, agHeld := c.agHeld
      crcA := 0, crcX := 0, buf := [], waitA := none, waitX := none, monitor := false, atRel := none }

/-- R251. -/
def mismatchInfo (minor : Nat) (a x : Bool) (rel : Nat) : Word :=
  BitVec.ofNat 64 (minor * 2 ^ 34 + (if a then 2 ^ 32 else 0) + (if x then 2 ^ 33 else 0) + rel % 2 ^ 32)

/-- A member takes cause 12 or 13 at the release point of hart `h` (R158). -/
def State.memberTrap (s : State) (id : Nat) (h : Hart) (cause : Nat) (eei : Word) : State :=
  s.atBraid id fun s => (s.mapB fun b => { b with buf := [], atRel := none }).enter h cause (s.pcOf h) eei

/-- The set runs its window again: a comparison has failed that it has not passed (R249). -/
def RSet.rerun (r : RSet) : Bool := !r.failed.isEmpty

/-- R249: a first difference runs the window again; a second at the same release raises cause 12 in each replica and fails the task, whose
streams are the leader's alone. The same release is the one at which its hart stands where it stood (log entry 97). -/
def State.disagree (s : State) (r : RSet) (h : Hart) (a x : Bool) : State :=
  let here : Hart × Pos := (h, (((s.members r).head?.map fun b => b.pos h).getD .start))
  if r.failed.contains here then
    let s := (s.members r).foldl (fun s b => s.memberTrap b.id h 12 (mismatchInfo 0 a x r.rel)) s
    let s := s.mapBraids fun b => if r.has b ∧ b.rep ≠ r.leader then { b with ctx := closeStreams b.ctx } else b
    let s := { s with sets := s.sets.filter fun q => !(q.task == r.task && q.idx == r.idx) }
    s.mapTask r.task fun t => { t with failed := some (t.failed.getD 12) }
  else
    (s.mapBraids fun b => if r.has b then rollback (b.rep == r.leader) b else b).mapSet r fun q => { q with failed := q.failed ++ [here] }

/-- A member leaves its set (R16, R250): the set goes on as a dual set, led by its lowest remaining member if its leader left. -/
def dropMember (id : Nat) (q : RSet) : RSet :=
  let ms := q.members.filter (·.1 != id)
  let lead := if ms.any (·.2 == q.leader) then q.leader else (ms.map (·.2)).foldl min 3
  { q with members := ms, leader := lead, degraded := true }

/-- A braid that comes to lead takes over the streams as the old leader has them, with its own cursors and what it has closed itself. -/
def inheritStreams (old b : Braid) : Braid :=
  { b with ctx := { b.ctx with
      streams := old.ctx.streams.zipWith (fun t own =>
        if own.st = .cancelled ∨ own.st = .idle then own else { t with cursor := own.cursor }) b.ctx.streams
      landPend := b.ctx.landPend ||| (old.ctx.landPend &&& b.ctx.landEn) } }

/-- A member leaves its set. What the set has under way with engines and streams is its leader's from then on; the streams of the braid
that left are closed, and it performs nothing further (R250). -/
def State.leaveSet (s : State) (r : RSet) (id : Nat) : State :=
  let q := dropMember id r
  let t := s.mapSet r (dropMember id)
  match s.find id, t.leaderOf q with
  | some old, some l =>
    { t.mapBraids fun b =>
        if b.id = id then { b with ctx := closeStreams b.ctx }
        else if b.id = l.id ∧ q.leader ≠ r.leader then inheritStreams old b else b with
      jobs := t.jobs.map fun j => if j.braid = id then { j with braid := l.id } else j }
  | _, _ => t

def Braid.sigs (b : Braid) : Word × Word := (b.crcA, b.crcX)

/-- At a release point of a hart each member signs its operation (R243). -/
def State.signAll (s : State) (r : RSet) (agreed : Option Hart) : State :=
  match agreed with
  | some h => s.mapBraids fun b => if r.has b then b.sign h b.relRec else b
  | none => s

/-- R245, R249, R250: the comparison of a set's signatures at a release. -/
def State.compare (s : State) (r : RSet) (h : Hart) (agreed : Option Hart) : State :=
  let s := s.signAll r agreed
  match s.members r with
  | [] => s
  | b0 :: rest =>
    let ms := b0 :: rest
    if rest.all fun b => b.sigs == b0.sigs then s.agree r agreed
    else
      let minority := ms.find? fun b => decide (ms.length = 3) && ((ms.filter fun c => c.sigs == b.sigs).length == 1)
        && ((ms.filter fun c => c.id != b.id).all fun c => (ms.filter fun d => d.sigs == c.sigs).length == 2)
      match minority with
      | some b =>
        let good := (ms.find? fun c => c.id != b.id).getD b0
        let s := s.memberTrap b.id h 13 (mismatchInfo b.rep (b.crcA != good.crcA) (b.crcX != good.crcX) r.rel)
        let s := (s.leaveSet r b.id).health
        let r' := dropMember b.id r
        s.agree r' agreed
      | none => s.disagree r h (ms.any fun b => b.crcA != b0.crcA) (ms.any fun b => b.crcX != b0.crcX)

/-- R151, R246: the release of a set whose members stand at one point, not counted as a release under R117. -/
def State.forceRelease (s : State) (r : RSet) : State := if s.aligned r then s.compare r .A none else s

/-- The leader's hart waits on in the instruction whose release its set has agreed: what was pending there is taken at that instruction, by
every member (R160). -/
def State.waitsOn (s : State) : State :=
  match s.rset with
  | none => s
  | some r =>
    if s.b.rep ≠ r.leader then s
    else match s.hart with
      | .A => s.mapBraids fun b => if r.has b then { b with posA := s.b.retA } else b
      | .X => s.mapBraids fun b => if r.has b then { b with posX := s.b.retX } else b

/-- A release point of a set (R244, R245), with the record that an exactly-once operation adds (R243). `k` is what the instruction does
after it; the hart waits until its set has agreed, and is then executed again. -/
def State.setPoint (s : State) (rec : List Nat) (k : State → Res) : Res :=
  match s.rset with
  | none => k s
  | some r =>
    if s.b.agreed s.hart then
      match k (s.mapB fun b => b.setAgreed s.hart false) with
      | .wait _ w => .wait s.waitsOn w
      | u => u
    else if (s.releasing r).getD s.hart ≠ s.hart then .wait s .release
    else
      let h := s.hart
      let s := (s.mapB fun b => { b with atRel := some h, relRec := rec }).setWait (some .release)
      if s.allArrived r h then .done (s.compare r h (some h)) else .wait s .release

/-- A release point that is a release at a scope (R117); in a set the agreed release is at least that. -/
def State.releasePoint (s : State) (scope : Nat) (rec : List Nat) (k : State → Res) : Res :=
  match s.rset with
  | none => k (s.release scope)
  | some _ => s.setPoint rec k

/-- The A-hart stands where the set takes landings, or both harts where it takes interrupts, not inside a vector access (R151, R247). -/
def State.atReleaseA (s : State) : Bool := !s.replicated || (s.b.memDone == 0 && s.b.retA == s.b.landAt)
def State.atReleaseBoth (s : State) : Bool := !s.replicated || (s.b.memDone == 0 && s.b.retA == s.b.posA && s.b.retX == s.b.posX)

/-- In a set, interrupts and landings due at the last release that are still pending are taken at the boundary after `eret` (R160). -/
def State.standHere (s : State) : State :=
  if s.replicated then s.mapB fun b => { b with posA := b.retA, posX := b.retX, landAt := b.retA } else s

/-- The leader waits on a stream, where it takes a stream fault (R110). -/
def State.waitsOnStream (s : State) : Bool :=
  match s.b.waitA with
  | some (.stream _ _ _) => true
  | some (.trim _ _ _ _) => true
  | some (.trigs _) => true
  | some .drain => true
  | some .engines => true
  | _ => false

/-! Traps of a set (R157, R305). -/

/-- A hart that waits in a trap enters the handler; `sys` and `brk` have completed then. -/
def State.takeTrap (s : State) (h : Hart) : State :=
  match s.waitOf h with
  | some (.trap cause eei past) =>
    let t := s.onHart h
    let t := if past then t.retire else t
    t.enter h cause (t.pcOf h) eei
  | _ => s

/-- Every member of a set takes its trap. -/
def State.takeTraps (s : State) (r : RSet) (h : Hart) : State :=
  (s.members r).foldl (fun t b => t.atBraid b.id fun u => u.takeTrap h) s

/-- The turn of a hart that waits in a trap. The members come to it as they come to a release point, and enter together; a release that the
set is stopped for comes first. A member that is not at a trap where others are has diverged: the comparison says so. -/
def State.trapTurn (s : State) : State :=
  match s.rset with
  | none => s.takeTrap s.hart
  | some r =>
    let h := s.hart
    if (s.releasing r).getD h ≠ h then s
    else
      let t := s.mapB fun b => { b with atRel := some h, relRec := [0] }
      if !t.allArrived r h then t
      else if (t.members r).all fun b => isTrap (b.wait h) then
        if r.stop.isSome then t.compare r h none
        else t.takeTraps r h
      else t.compare r h (some h)

/-- Where the executing hart of a set is held, if it is: with its other hart at a release point, at a forced release, or with the set being
stopped (R151, R245, R246). -/
def State.goal (s : State) : Option Pos :=
  match s.rset with
  | none => none
  | some r => match s.b.atRel with
    | some h => if h = s.hart then none else some (s.furthest r s.hart)
    | none =>
      if (s.releasing r).isSome then none
      else match r.stop with
        | some (ta, tx) => some ((match s.hart with | .A => ta | .X => tx).further (s.furthest r s.hart))
        | none => if s.hart = .X ∧ s.b.waitA = some .forced then some (s.furthest r .X) else none

/-- The element groups from where the hart stands to a place within the same instruction: the one it is inside of ends first. -/
def State.groupsTo (s : State) (p : Pos) : Nat :=
  let at_ := s.b.pos s.hart
  if at_.count ≠ p.count then 0
  else if at_.done ≠ 0 then 1
  else if at_.before p then (p.es - at_.es) / egOf s.hr.vt else 0
/-- The hart stops where its set holds it, also inside a vector instruction (R67). -/
def State.capped (s : State) : State :=
  match s.goal with
  | none => s
  | some p =>
    if s.groupsTo p = 0 then s
    else { s with egStop := some (min (s.groupsTo p) (s.egStop.getD (s.groupsTo p))) }

end Sys2Proof.Machine
end

