-- ==== Sys2Proof/Machine/Operands.lean ====
section
/-! DEFINITION. Operands of the vector unit: elements of registers, masks and the prefix (spec/04 R57-R63), sources and destinations,
and the frames that the X-hart's vector instructions share (spec/26 R328, drops R59, stops R67). -/

namespace Sys2Proof.Machine

/-! Elements. -/

/-- Element `e` of width `w` bits (R47). -/
def getEl (v : VReg) (w e : Nat) : Nat := v.toNat / 2 ^ (w * e) % 2 ^ w
/-- The register with element `e` of width `w` bits replaced. -/
def setEl (v : VReg) (w e x : Nat) : VReg :=
  (v &&& ~~~(BitVec.ofNat 16384 (2 ^ w - 1) <<< (w * e))) ||| (BitVec.ofNat 16384 (x % 2 ^ w) <<< (w * e))
def setEls (v : VReg) (w : Nat) (l : List (Nat × Nat)) : VReg := l.foldl (fun v p => setEl v w p.1 p.2) v

/-- Real and imaginary part of a complex element (R74), each of `w` / 2 bits. -/
def rePart (w c : Nat) : Nat := c % 2 ^ (w / 2)
def imPart (w c : Nat) : Nat := c / 2 ^ (w / 2) % 2 ^ (w / 2)
def ofParts (w re im : Nat) : Nat := re % 2 ^ (w / 2) + im % 2 ^ (w / 2) * 2 ^ (w / 2)

/-! Masks. -/

/-- R57: k0 reads all-true. -/
def State.kReg (s : State) (k : BitVec 4) : Mask := if k = 0 then BitVec.allOnes 2048 else s.b.ctx.k.get k.toFin
def below (n : Nat) : Mask := BitVec.ofNat 2048 (2 ^ min n 2048 - 1)
def State.vlen (s : State) : Nat := s.hr.vl.toNat

/-- R57: a mask written over elements 0 to vl − 1, the rest cleared, and its all-false flag. -/
def State.setK (s : State) (k : BitVec 4) (bits : Mask) : State :=
  let m := bits &&& below s.vlen
  s.mapCtx fun c => { c with
    k := c.k.set k.toNat m k.isLt
    kf := (c.kf &&& ~~~((1 : BitVec 16) <<< k.toNat)) ||| (if m = 0 then (1 : BitVec 16) <<< k.toNat else 0) }

/-- R80: mask bits marked by forerunner saturation; the others stay, and the flag is evaluated over 0 to vl − 1. -/
def State.markK (s : State) (k : BitVec 4) (bits : Mask) : State :=
  if k = 0 ∨ bits = 0 then s
  else
    let m := s.kReg k ||| bits
    s.mapCtx fun c => { c with
      k := c.k.set k.toNat m k.isLt
      kf := (c.kf &&& ~~~((1 : BitVec 16) <<< k.toNat)) ||| (if m &&& below s.vlen = 0 then (1 : BitVec 16) <<< k.toNat else 0) }

/-- Fields of `pfl` (R62). -/
def State.pflCe (s : State) : Bool := s.prefixed && s.b.ctx.xc.pfl.getLsbD 10
def State.pflCopy (s : State) : Reg := s.b.ctx.xc.pfl.extractLsb' 5 5
def State.pflInv (s : State) : Bool := s.b.ctx.xc.pfl.getLsbD 4
def State.pflK (s : State) : BitVec 4 := s.b.ctx.xc.pfl.extractLsb' 0 4

/-- R63: the lent mask, all-true without a prefix. -/
def State.lent (s : State) : Mask :=
  if s.prefixed then (if s.pflInv then ~~~(s.kReg s.pflK) else s.kReg s.pflK) else BitVec.allOnes 2048
/-- R59, R63: the effective mask over 0 to vl − 1. -/
def State.effMask (s : State) (k : BitVec 4) : Mask := s.kReg k &&& s.lent &&& below s.vlen

/-! Sources and destinations. -/

def State.vReg (s : State) (r : Reg) : VReg := rd s.b.ctx.v r

/-- EGs that elements of width `w` up to index `e` reach (R69). -/
def egReach (w e : Nat) : Nat := w * e / 1024 + 1

/-- A vector register with elements written, and its high-water mark (R69). -/
def State.writeV (s : State) (r : Reg) (w : Nat) (l : List (Nat × Nat)) : State :=
  if l.isEmpty then s
  else
    let top := l.foldl (fun n p => max n (egReach w p.1)) 0
    (s.mapCtx fun c => { c with v := wr c.v r (setEls (rd c.v r) w l) }).mapB fun b => { b with hwm := wr b.hwm r (max (rd b.hwm r) top) }

/-- A flagged entry reads as zeros (R188). -/
def Entry.bits (e : Entry) : VReg := if e.flagged then 0 else e.data

/-- The load queue a source pops. -/
def popOf : Src → Option (BitVec 2)
  | .v _ => none
  | .lq q => some q

/-- A source's bits: a register, or the head of a load queue. -/
def State.src (s : State) : Src → VReg
  | .v r => s.vReg r
  | .lq q => match s.lqHead q with
    | some e => e.bits
    | none => 0

/-- R23: the wait of a source that is not there yet. -/
def State.srcWait (s : State) (pop : Option (BitVec 2)) : Option Wait :=
  match pop with
  | some q => if (s.lqHead q).isSome then none else some (.pop (.lq q))
  | none => none

/-- The entry an instruction stopped at an EG boundary has begun (log entry 27). -/
def State.begun (s : State) (q : BitVec 2) : Option Entry :=
  match (s.sqOf q).getLast? with
  | some e => if e.part.isSome then some e else none
  | none => none

/-- R23: the wait of a destination with no room. -/
def State.dstWait (s : State) : Dst → Option Wait
  | .v _ => none
  | .sq q => if (s.begun q).isSome || s.sqRoom q then none else some (.push (.sq q))

def State.popSrc (s : State) (pop : Option (BitVec 2)) : State :=
  match pop with
  | some q => s.popLq q
  | none => s

/-- R328: the elements written, at completion (`part` none) or at a stop; a pushed entry's other elements are zero (R58). -/
def State.writeDst (s : State) (d : Dst) (w : Nat) (l : List (Nat × Nat)) (part : Option Nat) : State :=
  match d with
  | .v r => s.writeV r w l
  | .sq q =>
    match s.begun q with
    | some e => s.setSq q ((s.sqOf q).dropLast ++ [⟨setEls e.data w l, false, part⟩])
    | none => s.pushSq q ⟨setEls 0 w l, false, part⟩

/-- R63: the copy that `pfx` asks for. -/
def State.writeCopy (s : State) (d : Dst) (w : Nat) (l : List (Nat × Nat)) : State :=
  if s.pflCe then
    match d with
    | .v r => if r = s.pflCopy then s else s.writeV s.pflCopy w l
    | .sq _ => s.writeV s.pflCopy w l
  else s

/-! Frames. -/

/-- The element width under `vt`. -/
def State.vw (s : State) : Nat := sewOf s.hr.vt
def State.roundsUnder (s : State) (rounds : Bool) : Bool := rounds && s.hr.sr

/-- A vector instruction completes: `es` is 0, dither is consumed, the hart goes on (R67, R86). -/
def State.vDone (s : State) (rounds : Bool) : State :=
  { ((s.useDither (s.roundsUnder rounds)).setEs 0).retire with egStop := none }

/-- R59: a dropped instruction pops its sources, pushes a flagged entry and writes nothing. -/
def State.vDrop (s : State) (d : Option Dst) (pop : Option (BitVec 2)) (rounds : Bool) : Res :=
  match s.srcWait pop, d.bind s.dstWait with
  | some w, _ => .wait s w
  | none, some w => .wait s w
  | none, none =>
    let s := s.popSrc pop
    let s := match d with
      | some (.sq q) => s.pushSq q Entry.none
      | _ => s
    .done (s.vDone rounds)

/-- What running elements leaves: elements written, flags, saturated elements. -/
structure VOut where
  els : List (Nat × Nat)
  flags : Flags
  sat : Mask

/-- Elements `lo` to `hi` − 1 that a mask makes active. -/
def runEls (m : Mask) (lo hi : Nat) (f : Nat → Nat × Flags × Bool) : VOut :=
  (List.range' lo (hi - lo)).foldl (fun o e =>
    if m.getLsbD e then
      let (x, fl, sat) := f e
      ⟨o.els ++ [(e, x)], o.flags ||| fl, if sat then o.sat ||| ((1 : Mask) <<< e) else o.sat⟩
    else o) ⟨[], 0, 0⟩

/-- Where an instruction that may stop at EG boundaries stops this time (R67). -/
def State.stopAt (s : State) (t : Reg) : Option Nat :=
  match s.egStop with
  | none => none
  | some n =>
    let hi := s.hr.es.toNat + n * egOf t
    if hi < s.vlen then some hi else none

/-- R67, R80: what an instruction that clamps has saturated up to a stop waits for its completion. -/
def State.heldSat (s : State) : Mask := if s.hr.es = 0 then 0 else s.b.ctx.satP
def State.keepSat (s : State) (clamps : Bool) (bits : Mask) : State :=
  if clamps then s.mapCtx fun c => { c with satP := s.heldSat ||| bits } else s
/-- R80: the marks made in one operation when the instruction completes. -/
def State.markSat (s : State) (clamps : Bool) (bits : Mask) : State := if clamps then s.markK s.hr.satk (s.heldSat ||| bits) else s

/-- R328: `ok` the instruction's own decode rule, `clamps` that it marks what it saturates, `k` its mask, `pop` the load queue it reads,
`run` what its elements of a range come to under the effective mask. -/
def State.vEachRun (s : State) (ok clamps : Bool) (d : Dst) (pop : Option (BitVec 2)) (k : BitVec 4) (rounds : Bool)
    (run : State → Mask → Nat → Nat → VOut) : Res :=
  if !ok then .trap s 1 0
  else
    let m := s.effMask k
    if m = 0 then s.vDrop (some d) pop rounds
    else match s.srcWait pop, s.dstWait d with
      | some w, _ => .wait s w
      | none, some w => .wait s w
      | none, none =>
        let w := s.vw
        match s.stopAt s.hr.vt with
        | some hi =>
          let o := run s m s.hr.es.toNat hi
          let t := ((s.writeDst d w o.els (some hi)).writeCopy d w o.els).addFlags o.flags
          .done { (t.keepSat clamps o.sat).setEs hi with egStop := none }
        | none =>
          let o := run s m s.hr.es.toNat s.vlen
          let t := ((s.writeDst d w o.els none).writeCopy d w o.els).addFlags o.flags
          .done (((t.markSat clamps o.sat).popSrc pop).vDone rounds)

/-- R328, element by element: `f` is the instruction's function of the element's index. No element reads what another one writes, and none
saturates. -/
def State.vEach (s : State) (ok : Bool) (d : Dst) (pop : Option (BitVec 2)) (k : BitVec 4) (rounds : Bool)
    (f : State → Nat → Nat × Flags × Bool) : Res :=
  s.vEachRun ok false d pop k rounds fun s m lo hi => runEls m lo hi (f s)

/-- An instruction that is never stopped at an EG boundary and works over the whole of vl: `f` gives the elements it writes. -/
def State.vWhole (s : State) (ok : Bool) (d : Dst) (pop : Option (BitVec 2)) (k : BitVec 4) (rounds : Bool)
    (f : State → Mask → List (Nat × Nat) × Flags) : Res :=
  if !ok then .trap s 1 0
  else
    let m := s.effMask k
    if m = 0 then s.vDrop (some d) pop rounds
    else match s.srcWait pop, s.dstWait d with
      | some w, _ => .wait s w
      | none, some w => .wait s w
      | none, none =>
        let o := f s m
        let t := ((s.writeDst d s.vw o.1 none).writeCopy d s.vw o.1).addFlags o.2
        .done ((t.popSrc pop).vDone rounds)

/-- An instruction whose destination is a mask or an x register: cause 11 under a copying prefix (R65), dropped without a write (R59),
never stopped (R312). -/
def State.vToScalar (s : State) (ok : Bool) (pop : Option (BitVec 2)) (k : BitVec 4) (f : State → Mask → State) : Res :=
  if !ok then .trap s 1 0
  else if s.pflCe then .trap s.dropPrefix 11 0
  else
    let m := s.effMask k
    if m = 0 then s.vDrop none pop false
    else match s.srcWait pop with
      | some w => .wait s w
      | none => .done (((f s m).popSrc pop).vDone false)

/-- The value a VS form takes from an x register (R169). -/
def State.vsScalar (s : State) (r : Reg) : Nat := (s.xReg r).toNat % 2 ^ s.vw

/-- Issue of an X-hart vector instruction (R278). -/
def State.vIssue (s : State) (k : State → Res) : Host.Outcome State Fault Refusal := (s.issue .onlyX .user false true k).settle

/-- Element `e` of a source, and the scalar of a VS form, as functions of the element. -/
def State.elA (s : State) (r : Reg) (e : Nat) : Nat := getEl (s.vReg r) s.vw e
def State.elB (s : State) (b : Src) (e : Nat) : Nat := getEl (s.src b) s.vw e

end Sys2Proof.Machine
end

