-- ==== Sys2Proof/Machine/Scalar.lean ====
section
/-! DEFINITION. The scalar instructions of both harts: arithmetic (spec/24 R298, R299), loads and stores of the A-hart (R314), branches
and jumps (R302, R304, R310), and the token and mask queues (R313). -/

namespace Sys2Proof.Machine

/-! Arithmetic. -/

/-- R298: quotient and remainder. -/
def divS (a b : Word) : Word := if b = 0 then BitVec.allOnes 64 else BitVec.ofInt 64 (a.toInt.tdiv b.toInt)
def divN (a b : Word) : Word := if b = 0 then BitVec.allOnes 64 else BitVec.ofNat 64 (a.toNat / b.toNat)
def remS (a b : Word) : Word := if b = 0 then a else BitVec.ofInt 64 (a.toInt.tmod b.toInt)
def remN (a b : Word) : Word := if b = 0 then a else BitVec.ofNat 64 (a.toNat % b.toNat)
/-- Bits [127:64] of the signed and of the unsigned product. -/
def mulHigh (a b : Word) : Word := BitVec.ofInt 64 (a.toInt * b.toInt / 2 ^ 64)
def mulHighN (a b : Word) : Word := BitVec.ofNat 64 (a.toNat * b.toNat / 2 ^ 64)
/-- The amount of a register shift, B[5:0]. -/
def amount (b : Word) : Nat := (b.extractLsb' 0 6).toNat
def bit (c : Bool) : Word := if c then 1 else 0
def leadingZeros (a : Word) : Word := if a = 0 then 64 else BitVec.ofNat 64 (63 - Nat.log2 a.toNat)
def trailingZeros (a : Word) : Word := BitVec.ofNat 64 (((List.range 64).find? fun i => a.getLsbD i).getD 64)
def oneBits (a : Word) : Word := BitVec.ofNat 64 ((List.range 64).filter fun i => a.getLsbD i).length

/-- A scalar instruction of either hart that writes `d` and goes on. -/
def State.scalar (s : State) (d : Reg) (v : State → Word) : Host.Outcome State Fault Refusal :=
  (s.issue .both .user true false fun s => .done (s.setReg d (v s)).retire).settle

def binary (f : Word → Word → Word) (d a b : Reg) (s : State) : Host.Outcome State Fault Refusal :=
  s.scalar d fun s => f (s.reg a) (s.reg b)

def execAdd (d a b : Reg) (s : State) : Host.Outcome State Fault Refusal := binary (fun a b => a + b) d a b s
def execSub (d a b : Reg) (s : State) : Host.Outcome State Fault Refusal := binary (fun a b => a - b) d a b s
def execMul (d a b : Reg) (s : State) : Host.Outcome State Fault Refusal := binary (fun a b => a * b) d a b s
def execMulh (d a b : Reg) (s : State) : Host.Outcome State Fault Refusal := binary (fun a b => mulHigh a b) d a b s
def execMulhn (d a b : Reg) (s : State) : Host.Outcome State Fault Refusal := binary (fun a b => mulHighN a b) d a b s
def execDiv (d a b : Reg) (s : State) : Host.Outcome State Fault Refusal := binary (fun a b => divS a b) d a b s
def execDivn (d a b : Reg) (s : State) : Host.Outcome State Fault Refusal := binary (fun a b => divN a b) d a b s
def execRem (d a b : Reg) (s : State) : Host.Outcome State Fault Refusal := binary (fun a b => remS a b) d a b s
def execRemn (d a b : Reg) (s : State) : Host.Outcome State Fault Refusal := binary (fun a b => remN a b) d a b s
def execAnd (d a b : Reg) (s : State) : Host.Outcome State Fault Refusal := binary (fun a b => a &&& b) d a b s
def execOr (d a b : Reg) (s : State) : Host.Outcome State Fault Refusal := binary (fun a b => a ||| b) d a b s
def execXor (d a b : Reg) (s : State) : Host.Outcome State Fault Refusal := binary (fun a b => a ^^^ b) d a b s
def execShl (d a b : Reg) (s : State) : Host.Outcome State Fault Refusal := binary (fun a b => a <<< amount b) d a b s
def execShr (d a b : Reg) (s : State) : Host.Outcome State Fault Refusal := binary (fun a b => a >>> amount b) d a b s
def execSar (d a b : Reg) (s : State) : Host.Outcome State Fault Refusal := binary (fun a b => a.sshiftRight (amount b)) d a b s
def execMin (d a b : Reg) (s : State) : Host.Outcome State Fault Refusal := binary (fun a b => if a.slt b then a else b) d a b s
def execMax (d a b : Reg) (s : State) : Host.Outcome State Fault Refusal := binary (fun a b => if a.slt b then b else a) d a b s
def execMinn (d a b : Reg) (s : State) : Host.Outcome State Fault Refusal := binary (fun a b => if a.ult b then a else b) d a b s
def execMaxn (d a b : Reg) (s : State) : Host.Outcome State Fault Refusal := binary (fun a b => if a.ult b then b else a) d a b s
def execSeq (d a b : Reg) (s : State) : Host.Outcome State Fault Refusal := binary (fun a b => bit (a == b)) d a b s
def execSne (d a b : Reg) (s : State) : Host.Outcome State Fault Refusal := binary (fun a b => bit (a != b)) d a b s
def execSlt (d a b : Reg) (s : State) : Host.Outcome State Fault Refusal := binary (fun a b => bit (a.slt b)) d a b s
def execSltn (d a b : Reg) (s : State) : Host.Outcome State Fault Refusal := binary (fun a b => bit (a.ult b)) d a b s
def execClz (d a : Reg) (s : State) : Host.Outcome State Fault Refusal := s.scalar d fun s => leadingZeros (s.reg a)
def execCtz (d a : Reg) (s : State) : Host.Outcome State Fault Refusal := s.scalar d fun s => trailingZeros (s.reg a)
def execPop (d a : Reg) (s : State) : Host.Outcome State Fault Refusal := s.scalar d fun s => oneBits (s.reg a)

/-! Immediates (R299). -/

def execAddi (d a : Reg) (i : BitVec 16) (s : State) : Host.Outcome State Fault Refusal := s.scalar d fun s => s.reg a + i.signExtend 64
def execAndi (d a : Reg) (i : BitVec 16) (s : State) : Host.Outcome State Fault Refusal := s.scalar d fun s => s.reg a &&& i.setWidth 64
def execOri (d a : Reg) (i : BitVec 16) (s : State) : Host.Outcome State Fault Refusal := s.scalar d fun s => s.reg a ||| i.setWidth 64
def execXori (d a : Reg) (i : BitVec 16) (s : State) : Host.Outcome State Fault Refusal := s.scalar d fun s => s.reg a ^^^ i.setWidth 64
def execLhi (d a : Reg) (i : BitVec 16) (s : State) : Host.Outcome State Fault Refusal := s.scalar d fun s => s.reg a + (i.signExtend 64 <<< 16)
def execSlti (d a : Reg) (i : BitVec 16) (s : State) : Host.Outcome State Fault Refusal := s.scalar d fun s => bit ((s.reg a).slt (i.signExtend 64))
def execShli (d a : Reg) (n : BitVec 6) (s : State) : Host.Outcome State Fault Refusal := s.scalar d fun s => s.reg a <<< n.toNat
def execShri (d a : Reg) (n : BitVec 6) (s : State) : Host.Outcome State Fault Refusal := s.scalar d fun s => s.reg a >>> n.toNat
def execSari (d a : Reg) (n : BitVec 6) (s : State) : Host.Outcome State Fault Refusal := s.scalar d fun s => (s.reg a).sshiftRight n.toNat

/-! Loads and stores (R314). -/

/-- Bytes of an access. -/
def sizeOf (z : BitVec 3) : Nat := 2 ^ (z.toNat % 4)

/-- R103, R314: a scalar address that may be used, or its cause. -/
def badAddr (va : Word) (n : Nat) : Option Nat :=
  if va.toNat % n ≠ 0 then some 3 else if va.extractLsb' 57 7 ≠ 0 then some 6 else none

/-- R314: the value loaded, sign-extended for sizes 0 to 3. -/
def extend (z : BitVec 3) (v : Nat) : Word :=
  if z.toNat ≤ 3 then BitVec.ofInt 64 (toSigned (8 * sizeOf z) v) else BitVec.ofNat 64 v

/-- A scalar load of the A-hart of `n` bytes, through the cache and under the release buffer, forwarded where R247 says. -/
def State.loadScalar (s : State) (va : Word) (n : Nat) (k : State → Nat → Res) : Res :=
  match badAddr va n with
  | some c => .trap s c va
  | none =>
    match s.ownCheck va.toNat n .load with
    | .error c => .trap s c va
    | .ok (key, t) =>
      match (t.settleLine key).cacheLoad key n with
      | .error c => .trap s c va
      | .ok (v, t) =>
        let v := t.overBuffer key n v
        if t.mustForward va.toNat n then t.forward (fun _ => v) k else k t v

/-- A scalar store of the A-hart: into the cache, or into the release buffer under replica execution. -/
def State.storeScalar (s : State) (va : Word) (n v : Nat) (k : State → Res) : Res :=
  match badAddr va n with
  | some c => .trap s c va
  | none =>
    match s.ownCheck va.toNat n .store with
    | .error c => .trap s c va
    | .ok (key, t) =>
      if t.replicated then
        if t.poisonUnder t.b.buf key n .store then .trap s 7 va
        else if t.bufferFull n then .wait s .forced
        else k (t.commit (t.item 0 va key n v false))
      else match (t.settleLine key).cacheStore key n v with
        | .error c => .trap s c va
        | .ok t => k t

def addrOf (s : State) (a : Reg) (o : BitVec 13) : Word := s.aReg a + o.signExtend 64

def execLd (d a : Reg) (z : BitVec 3) (o : BitVec 13) (s : State) : Host.Outcome State Fault Refusal :=
  (s.issue .onlyA .user true false fun s =>
    s.loadScalar (addrOf s a o) (sizeOf z) fun t v => .done (t.setA d (extend z v)).retire).settle

def execSt (r a : Reg) (z : BitVec 3) (o : BitVec 13) (s : State) : Host.Outcome State Fault Refusal :=
  (s.issue .onlyA .user true false fun s =>
    s.storeScalar (addrOf s a o) (sizeOf z) ((s.aReg r).toNat % 2 ^ (8 * sizeOf z)) fun t => .done t.retire).settle

/-! Branches and jumps. -/

/-- The address `n` words on. -/
def State.target {w : Nat} (s : State) (o : BitVec w) : Word := s.pc + o.signExtend 64 * 4

/-- R302. -/
def branch (c : Word → Word → Bool) (a b : Reg) (o : BitVec 16) (s : State) : Host.Outcome State Fault Refusal :=
  (s.issue .both .user true false fun s =>
    .done (if c (s.reg a) (s.reg b) then s.goTo (s.target o) else s.retire)).settle

def execBeq (a b : Reg) (o : BitVec 16) (s : State) : Host.Outcome State Fault Refusal := branch (fun a b => a == b) a b o s
def execBne (a b : Reg) (o : BitVec 16) (s : State) : Host.Outcome State Fault Refusal := branch (fun a b => a != b) a b o s
def execBlt (a b : Reg) (o : BitVec 16) (s : State) : Host.Outcome State Fault Refusal := branch (fun a b => a.slt b) a b o s
def execBge (a b : Reg) (o : BitVec 16) (s : State) : Host.Outcome State Fault Refusal := branch (fun a b => !a.slt b) a b o s
def execBltn (a b : Reg) (o : BitVec 16) (s : State) : Host.Outcome State Fault Refusal := branch (fun a b => a.ult b) a b o s
def execBgen (a b : Reg) (o : BitVec 16) (s : State) : Host.Outcome State Fault Refusal := branch (fun a b => !a.ult b) a b o s

/-- R310. -/
def execJmp (o : BitVec 26) (s : State) : Host.Outcome State Fault Refusal :=
  (s.issue .both .user true false fun s => .done (s.goTo (s.target o))).settle

def execJal (o : BitVec 26) (s : State) : Host.Outcome State Fault Refusal :=
  (s.issue .both .user true false fun s => .done ((s.setReg 31 (s.pc + 4)).goTo (s.target o))).settle

def execJr (a : Reg) (s : State) : Host.Outcome State Fault Refusal :=
  (s.issue .both .user true false fun s =>
    let t := s.reg a
    if t.extractLsb' 0 2 ≠ 0 then .trap s 3 t
    else if t.extractLsb' 57 7 ≠ 0 then .trap s 6 t
    else .done (s.goTo t)).settle

/-! Tokens and masks (R313, R304). -/

/-- The token queue from the other hart, and the one towards it. -/
def inQueue : Hart → QName
  | .A => .tqx
  | .X => .tqa
def outQueue : Hart → QName
  | .A => .tqa
  | .X => .tqx
def State.tokens (s : State) : Hart → List Word
  | .A => s.b.ctx.tqx
  | .X => s.b.ctx.tqa
def State.dropToken (s : State) : State :=
  match s.hart with
  | .A => s.mapCtx fun c => { c with tqx := c.tqx.tail }
  | .X => s.mapCtx fun c => { c with tqa := c.tqa.tail }

/-- A pop of the token queue from the other hart (R23). -/
def State.popToken (s : State) (k : State → Word → Res) : Res :=
  match s.tokens s.hart with
  | [] => .wait s (.pop (inQueue s.hart))
  | t :: _ => k s.dropToken t

def State.sendToken (s : State) (v : Word) : Res :=
  match s.hart with
  | .A =>
    if Config.tokDepth ≤ s.b.ctx.tqa.length then .wait s (.push .tqa)
    else .done (s.mapCtx fun c => { c with tqa := c.tqa ++ [v] }).retire
  | .X =>
    if Config.tokDepth ≤ s.b.ctx.tqx.length then .wait s (.push .tqx)
    else .done (s.mapCtx fun c => { c with tqx := c.tqx ++ [v] }).retire

def execTsend (a : Reg) (s : State) : Host.Outcome State Fault Refusal :=
  (s.issue .both .user false false fun s => s.sendToken (s.reg a)).settle

def execTrecv (d : Reg) (s : State) : Host.Outcome State Fault Refusal :=
  (s.issue .both .user false false fun s => s.popToken fun s v => .done (s.setReg d v).retire).settle

/-- The flag is evaluated below the X-hart's vl; k0 goes with the flag clear. -/
def execKsend (k : BitVec 4) (s : State) : Host.Outcome State Fault Refusal :=
  (s.issue .onlyX .user false false fun s =>
    if Config.kqDepth ≤ s.b.ctx.kq.length then .wait s (.push .kq)
    else
      let e : KEntry := ⟨s.kReg k, k != 0 && s.kReg k &&& below s.vlen == 0⟩
      .done (s.mapCtx fun c => { c with kq := c.kq ++ [e] }).retire).settle

/-- R304. -/
def branchToken (taken : Bool → Bool) (o : BitVec 16) (s : State) : Host.Outcome State Fault Refusal :=
  (s.issue .both .user false false fun s =>
    s.popToken fun t v => .done (if taken (v != 0) then t.goTo (s.target o) else t.retire)).settle

def execBqt (o : BitVec 16) (s : State) : Host.Outcome State Fault Refusal := branchToken (fun nz => nz) o s
def execBqf (o : BitVec 16) (s : State) : Host.Outcome State Fault Refusal := branchToken (fun nz => !nz) o s

end Sys2Proof.Machine
end

