-- ==== Sys2Proof/Machine/VMask.lean ====
section
/-! DEFINITION. Masks, compares and select of major 0x1C (spec/24 R311, R312, spec/26 R335, R336). -/

namespace Sys2Proof.Machine

/-- A mask destination: elements active in `m` take new bits, the others keep theirs. -/
def State.maskInto (s : State) (kd : BitVec 4) (m bits : Mask) : State := s.setK kd ((s.kReg kd &&& ~~~m) ||| (bits &&& m))

def maskOp (kd : BitVec 4) (f : State → Mask) (s : State) : Host.Outcome State Fault Refusal :=
  s.vIssue fun s => s.vToScalar true none 0 fun s m => s.maskInto kd m (f s)

def execKand (kd ka kb : BitVec 4) (s : State) : Host.Outcome State Fault Refusal := maskOp kd (fun s => s.kReg ka &&& s.kReg kb) s
def execKor (kd ka kb : BitVec 4) (s : State) : Host.Outcome State Fault Refusal := maskOp kd (fun s => s.kReg ka ||| s.kReg kb) s
def execKxor (kd ka kb : BitVec 4) (s : State) : Host.Outcome State Fault Refusal := maskOp kd (fun s => s.kReg ka ^^^ s.kReg kb) s
def execKnot (kd ka : BitVec 4) (s : State) : Host.Outcome State Fault Refusal := maskOp kd (fun s => ~~~(s.kReg ka)) s
def execKmv (kd ka : BitVec 4) (s : State) : Host.Outcome State Fault Refusal := maskOp kd (fun s => s.kReg ka) s
def execKset (kd : BitVec 4) (b : Reg) (s : State) : Host.Outcome State Fault Refusal := maskOp kd (fun s => below (s.xReg b).toNat) s

/-- Set bits of a mask, and the least. -/
def countBits (m : Mask) : Nat := ((List.range 2048).filter fun i => m.getLsbD i).length
def firstBit (m : Mask) : Option Nat := (List.range 2048).find? fun i => m.getLsbD i

def execKpop (d : Reg) (ka : BitVec 4) (s : State) : Host.Outcome State Fault Refusal :=
  s.vIssue fun s => s.vToScalar true none 0 fun s m => s.setX d (BitVec.ofNat 64 (countBits (s.kReg ka &&& m)))
def execKfirst (d : Reg) (ka : BitVec 4) (s : State) : Host.Outcome State Fault Refusal :=
  s.vIssue fun s => s.vToScalar true none 0 fun s m => s.setX d (match firstBit (s.kReg ka &&& m) with
    | some i => BitVec.ofNat 64 i
    | none => BitVec.allOnes 64)

/-- R289: a condition on an order, none of its arms but ne being true of unordered operands. -/
def condOf (c : BitVec 3) (o : Option Ordering) : Bool :=
  match c.toNat, o with
  | 0, some .eq => true
  | 1, some .eq => false
  | 1, _ => true
  | 2, some .lt => true
  | 3, some .lt => true
  | 3, some .eq => true
  | 4, some .gt => true
  | 5, some .gt => true
  | 5, some .eq => true
  | _, _ => false

def intCmp (t : Reg) (a b : Nat) : Option Ordering := some (compare (intVal t a) (intVal t b))
def fpCmp (t : Reg) (a b : Nat) : Option Ordering :=
  match fmtOf t with
  | some f => (f.decode a).cmp (f.decode b)
  | none => none

/-- The mask of elements below vl that a test holds of. -/
def maskOf (n : Nat) (p : Nat → Bool) : Mask :=
  BitVec.ofNat 2048 ((List.range n).foldl (fun m e => if p e then m + 2 ^ e else m) 0)

/-- R335. -/
def compareOp (ok : Reg → Bool) (cmp : Reg → Nat → Nat → Option Ordering) (kd : BitVec 4) (pop : Option (BitVec 2)) (c : BitVec 3)
    (a : State → Nat → Nat) (b : State → Nat → Nat) (s : State) : Host.Outcome State Fault Refusal :=
  s.vIssue fun s => s.vToScalar (ok s.hr.vt) pop 0 fun s m =>
    s.maskInto kd m (maskOf s.vlen fun e => m.getLsbD e && condOf c (cmp s.hr.vt (a s e) (b s e)))

def execVcmp (kd : BitVec 4) (a : Reg) (b : Src) (c : BitVec 3) (s : State) : Host.Outcome State Fault Refusal :=
  compareOp isInt intCmp kd (popOf b) c (fun s => s.elA a) (fun s => s.elB b) s
def execVcmpVs (kd : BitVec 4) (a b : Reg) (c : BitVec 3) (s : State) : Host.Outcome State Fault Refusal :=
  compareOp isInt intCmp kd none c (fun s => s.elA a) (fun s _ => s.vsScalar b) s
def execVfcmp (kd : BitVec 4) (a : Reg) (b : Src) (c : BitVec 3) (s : State) : Host.Outcome State Fault Refusal :=
  compareOp isReal fpCmp kd (popOf b) c (fun s => s.elA a) (fun s => s.elB b) s
def execVfcmpVs (kd : BitVec 4) (a b : Reg) (c : BitVec 3) (s : State) : Host.Outcome State Fault Refusal :=
  compareOp isReal fpCmp kd none c (fun s => s.elA a) (fun s _ => s.vsScalar b) s

/-- R336: the k field selects and does not restrict. -/
def execVsel (d : Dst) (a : Reg) (b : Src) (k : BitVec 4) (s : State) : Host.Outcome State Fault Refusal :=
  s.vIssue fun s => s.vEach true d (popOf b) 0 false fun s e =>
    (if (s.kReg k).getLsbD e then s.elA a e else s.elB b e, 0, false)
def execVselVs (d : Dst) (a b : Reg) (k : BitVec 4) (s : State) : Host.Outcome State Fault Refusal :=
  s.vIssue fun s => s.vEach (decide (sewOf s.hr.vt ≤ 64)) d none 0 false fun s e =>
    (if (s.kReg k).getLsbD e then s.elA a e else s.vsScalar b, 0, false)

end Sys2Proof.Machine
end

