-- ==== Sys2Proof/Machine/VPerm.lean ====
section
/-! DEFINITION. Permutes and moves of major 0x1D (spec/17 R229, R230, spec/12 R186, spec/08 R138, spec/14 R205, spec/26 R332, R337, R341,
R342, spec/27 R344, R345, R349). -/

namespace Sys2Proof.Machine

/-- The active elements below vl, each with a value if the function gives one. -/
def pick (n : Nat) (m : Mask) (f : Nat → Option Nat) : List (Nat × Nat) :=
  (List.range n).filterMap fun e => if m.getLsbD e then (f e).map fun x => (e, x) else none

def execVslideup (d : Dst) (a b : Reg) (k : BitVec 4) (s : State) : Host.Outcome State Fault Refusal :=
  s.vIssue fun s => s.vWhole true d none k false fun s m =>
    let off := (s.xReg b).toNat
    (pick s.vlen m fun e => if off ≤ e then some (s.elA a (e - off)) else none, 0)

def execVslidedn (d : Dst) (a b : Reg) (k : BitVec 4) (s : State) : Host.Outcome State Fault Refusal :=
  s.vIssue fun s => s.vWhole true d none k false fun s m =>
    let off := (s.xReg b).toNat
    (pick s.vlen m fun e => some (if e + off < s.vlen then s.elA a (e + off) else 0), 0)

/-- R187, R344: an unsigned index out of element `e`, 16 bits wide under the block types. -/
def indexEl (t : Reg) (v : VReg) (e : Nat) : Nat :=
  if isBlock t then getEl v 16 e else getEl v (sewOf t) e % 2 ^ 64

def execVperm (d : Dst) (a : Reg) (b : Src) (k : BitVec 4) (s : State) : Host.Outcome State Fault Refusal :=
  s.vIssue fun s => s.vWhole true d (popOf b) k false fun s m =>
    let idx := s.src b
    (pick s.vlen m fun e =>
      let i := indexEl s.hr.vt idx e
      some (if i < s.vlen then s.elA a i else 0), 0)

/-- The active elements' indexes in ascending order. -/
def activeEls (n : Nat) (m : Mask) : List Nat := (List.range n).filter fun e => m.getLsbD e

def execVcompress (d : Dst) (a : Reg) (k : BitVec 4) (s : State) : Host.Outcome State Fault Refusal :=
  s.vIssue fun s => s.vWhole true d none k false fun s m => ((activeEls s.vlen m).mapIdx fun c e => (c, s.elA a e), 0)
def execVexpand (d : Dst) (a : Reg) (k : BitVec 4) (s : State) : Host.Outcome State Fault Refusal :=
  s.vIssue fun s => s.vWhole true d none k false fun s m => ((activeEls s.vlen m).mapIdx fun c e => (e, s.elA a c), 0)
def execViota (d : Dst) (k : BitVec 4) (s : State) : Host.Outcome State Fault Refusal :=
  s.vIssue fun s => s.vWhole (isInt s.hr.vt) d none k false fun s m => ((activeEls s.vlen m).mapIdx fun c e => (e, c % 2 ^ s.vw), 0)

/-- R186: an element is non-zero; −0.0 is not. -/
def nonZero (t : Reg) (c : Nat) : Bool := if isInt t then c != 0 else c % 2 ^ (sewOf t - 1) != 0

def execVnz (d : Dst) (a : Reg) (k : BitVec 4) (s : State) : Host.Outcome State Fault Refusal :=
  s.vIssue fun s => s.vWhole (s.hr.vt != 0 && s.hr.vt != 4 && decide (s.hr.vt.toNat < 12)) d none k false fun s m =>
    let t := (activeEls s.vlen m).filter fun e => nonZero s.hr.vt (s.elA a e)
    ((List.range s.vlen).map fun j => (j, t.getD j 0), 0)

/-- R138, R341. -/
def execVmatch (kd : BitVec 4) (a : Reg) (k : BitVec 4) (s : State) : Host.Outcome State Fault Refusal :=
  s.vIssue fun s => s.vToScalar (!isBlock s.hr.vt) none k fun s m =>
    let first := s.elA a ((firstBit m).getD 0)
    s.setK kd (maskOf s.vlen fun e => m.getLsbD e && s.elA a e == first)

def execVbcast (d : Dst) (b : Reg) (k : BitVec 4) (s : State) : Host.Outcome State Fault Refusal :=
  s.vIssue fun s => s.vEach (decide (sewOf s.hr.vt ≤ 64)) d none k false fun s _ => (s.vsScalar b, 0, false)

/-- R230: the element, sign-extended for i types, or 0 at or beyond vl; an inactive element leaves xd. -/
def execVext (d a b : Reg) (s : State) : Host.Outcome State Fault Refusal :=
  s.vIssue fun s => s.vToScalar (decide (sewOf s.hr.vt ≤ 64)) none 0 fun s m =>
    let i := (s.xReg b).toNat
    if s.vlen ≤ i then s.setX d 0
    else if m.getLsbD i then s.setX d (BitVec.ofInt 64 (intVal s.hr.vt (s.elA a i)))
    else s

def execVmv (d : Dst) (b : Src) (s : State) : Host.Outcome State Fault Refusal :=
  s.vIssue fun s => s.vEach true d (popOf b) 0 false fun s e => (s.elB b e, 0, false)

/-- R345: the types `vrand` accepts, and an element of it. -/
def randOk (t : Reg) : Bool := t == 2 || t == 3 || t == 6 || t == 7 || t == 10 || t == 11
def randEl (t : Reg) (z : Word) : Nat :=
  if t = 10 then (Fmt.f32.round .rne (.fin false (z >>> 40).toNat (-24))).1
  else if t = 11 then (Fmt.f64.round .rne (.fin false (z >>> 11).toNat (-53))).1
  else z.toNat % 2 ^ sewOf t

/-- A dither-consuming instruction whatever the mode (R86): `dord` moves on once, when the instruction completes or is dropped. -/
def spendDither (s0 : State) (r : Res) : Res :=
  match r with
  | .done s =>
    if s.b.retX = s0.b.retX then .done s
    else .done (s.mapCtx fun c => { c with rx := { c.rx with dord := s0.hr.dord + 1 } })
  | r => r

def execVrand (d : Dst) (k : BitVec 4) (s : State) : Host.Outcome State Fault Refusal :=
  s.vIssue fun s => spendDither s (s.vEach (randOk s.hr.vt) d none k false fun s e =>
    (randEl s.hr.vt (dither s.hr e), 0, false))

end Sys2Proof.Machine
end

