-- ==== Sys2Proof/Machine/VMem.lean ====
section
/-! DEFINITION. The A-hart's vector loads and stores (spec/26 R339, R340, spec/27 R350-R353, spec/12 R187, R188, spec/11 R185): the
entries they pop, drops (R60), the access of an element in each space (R55, R56, R103, R217, R218), stops and faults (R67, R102). -/

namespace Sys2Proof.Machine

/-! What an operation pops (R23, R60). -/

/-- What the queues give a vector memory operation: its mask over elements below vl, its data and index entries, and whether it is
dropped. -/
structure Heads where
  m : Mask
  data : VReg
  index : VReg
  drop : Bool

/-- The head of a store queue if one is named, or the wait. -/
def State.needSq (s : State) : Option (BitVec 2) → Except Wait Entry
  | none => .ok ⟨0, false, Option.none⟩
  | some q => match s.sqHead q with
    | some e => .ok e
    | none => .error (.pop (.sq q))

/-- R60: the mask popped from kq if the operation is masked. -/
def State.needKq (s : State) (masked : Bool) : Except Wait (Mask × Bool) :=
  if masked then
    match s.b.ctx.kq with
    | e :: _ => .ok (e.bits &&& below s.vlen, e.flagged)
    | [] => .error (.pop .kq)
  else .ok (below s.vlen, false)

def State.heads (s : State) (masked : Bool) (data index : Option (BitVec 2)) : Except Wait Heads :=
  match s.needKq masked, s.needSq data, s.needSq index with
  | .error w, _, _ => .error w
  | _, .error w, _ => .error w
  | _, _, .error w => .error w
  | .ok (m, fl), .ok d, .ok i => .ok ⟨m, d.data, i.data, fl || m == 0 || d.flagged || i.flagged⟩

def State.popSq? (s : State) : Option (BitVec 2) → State
  | none => s
  | some q => s.popSq q

/-- The pops that completion makes (R154). -/
def State.popHeads (s : State) (masked : Bool) (data index : Option (BitVec 2)) : State :=
  let s := if masked then s.mapCtx fun c => { c with kq := c.kq.tail } else s
  (s.popSq? data).popSq? index

/-- A vector memory operation completes. -/
def State.memEnd (s : State) : State :=
  { ((s.setEs 0).retire).mapB (fun b => { b with memDone := 0 }) with egStop := none }

/-- A vector memory operation stops before element `e`, at an EG boundary (R67). -/
def State.memStop (s : State) (e : Nat) : State := { (s.setEs e).mapB (fun b => { b with memDone := 0 }) with egStop := none }

/-- An access that waits at element `e` with `count` of its operations done, `ops` naming the element of each: `es` is the boundary of the
EG, and `memDone` counts the operations since (R67). -/
def State.memWait (s : State) (ops : List Nat) (count e : Nat) : State :=
  let lo := e - e % egOf s.hr.vt
  (s.setEs lo).mapB fun b => { b with memDone := count - (ops.filter fun i => decide (i < lo)).length }

/-- Where the access stops this time (R67); one that goes on inside an element group comes to its end. -/
def State.memHi (s : State) : Nat :=
  ((if s.b.memDone = 0 then s else { s with egStop := s.egStop.map (max 1) }).stopAt s.hr.vt).getD s.vlen

/-- A trap at element `e` (R67): `es` is its EG boundary, and `eei` names it but for cause 1 (R158). -/
def State.memTrap (s : State) (e cause : Nat) : Res :=
  .trap ((s.setEs (e - e % egOf s.hr.vt)).mapB fun b => { b with memDone := 0 }) cause (if cause = 1 then 0 else BitVec.ofNat 64 e)

/-! Addresses. -/

/-- R55, R56, R103: where an element of a space lies, with the checks but for alignment and poison. -/
def State.place? (s : State) (space : BitVec 2) (va : Word) (n : Nat) (k : Kind) : Except Nat (Nat × State) :=
  match space.toNat with
  | 0 => if va.extractLsb' 57 7 ≠ 0 then .error 6 else s.ownCheck va.toNat n k
  | 1 => if 2 ^ 20 ≤ va.toNat then .error 6 else .ok (poolKey s.b.core va.toNat, s)
  | _ =>
    if s.replicated then .error 6
    else if 2 ^ 28 ≤ va.toNat ∨ Config.dieCores ≤ va.toNat / 2 ^ 20 then .error 6
    else .ok (poolKey (dieOf s.b.core * Config.dieCores + va.toNat / 2 ^ 20) (va.toNat % 2 ^ 20), s)

/-- Addresses of the unit-stride, strided and indexed forms (R339, R350, R187). -/
def State.unit (s : State) (a : Reg) (e : Nat) : Word := s.aReg a + BitVec.ofNat 64 (e * bytesOf s.hr.vt)
def State.strided (s : State) (a st : Reg) (e : Nat) : Word := s.aReg a + BitVec.ofNat 64 e * s.aReg st
def State.indexed (s : State) (a : Reg) (g : BitVec 3) (ix : VReg) (e : Nat) : Word :=
  s.aReg a + BitVec.ofNat 64 ((indexEl s.hr.vt ix (e / 2 ^ g.toNat) * 2 ^ g.toNat + e % 2 ^ g.toNat) * bytesOf s.hr.vt)

/-- R185: bits of two numbers below 16 interleaved, those of the second at even places. -/
def interleave (i j : Nat) : Nat :=
  (List.range 4).foldl (fun n b => n + (if i.testBit b then 2 ^ (2 * b + 1) else 0) + (if j.testBit b then 2 ^ (2 * b) else 0)) 0
/-- R184: fields of `zl`. -/
def State.zSide (s : State) : Nat := 2 ^ (s.b.ctx.ac.zl.extractLsb' 0 3).toNat
def State.zOrder (s : State) (a : Reg) (q : Nat) : Word :=
  let z := s.zSide
  let n := q / (z * z)
  let u := q % (z * z)
  let (i, j) := if s.b.ctx.ac.zl.getLsbD 7 then (u % z, u / z) else (u / z, u % z)
  let pos := 16 * interleave (i / 4) (j / 4) + 4 * (i % 4) + j % 4
  s.aReg a + BitVec.ofNat 64 ((n * z * z + pos) * bytesOf s.hr.vt)
/-- R185's cause-1 rules. -/
def State.zOk (s : State) : Bool :=
  let lt := (s.b.ctx.ac.zl.extractLsb' 0 3).toNat
  decide (2 ≤ lt ∧ lt ≤ 6 ∧ 2 ^ (s.b.ctx.ac.zl.extractLsb' 5 2).toNat * 8 = sewOf s.hr.vt ∧ s.vlen % (s.zSide * s.zSide) = 0) &&
    !isBlock s.hr.vt

/-! Elements. -/

/-- Why an element does not go on. -/
inductive Halt where
  | trap (cause : Nat)
  | wait (w : Wait)

/-- What running operations in order leaves: the state, the values of those done, how many, and the one that halted. -/
structure Run where
  s : State
  vals : List (Nat × Nat)
  count : Nat
  halt : Option (Nat × Halt)

/-- Runs the operations of a list, each naming the element it stands for. -/
def runOps {α : Type} (el : α → Nat) (f : State → α → Except Halt (State × Nat)) : List α → State → List (Nat × Nat) → Nat → Run
  | [], s, vs, n => ⟨s, vs, n, none⟩
  | x :: r, s, vs, n =>
    match f s x with
    | .ok (t, v) => runOps el f r t ((el x, v) :: vs) (n + 1)
    | .error h => ⟨s, vs, n, some (el x, h)⟩

/-- What a load reads, as every replica takes it (R247), or none while the leader has not read it. -/
def State.shared (s : State) (read : State → State × Nat) : Option (State × Nat) :=
  match s.rset with
  | none => some (read s)
  | some r =>
    match (r.log s.hart)[s.fwd]? with
    | some x => some (s.tookFwd, x)
    | none => if s.b.rep = r.leader then some (((read s).1.logValue r (read s).2).tookFwd, (read s).2) else none

/-- R127: an element of `vldo` draws a ticket; in a set the leader's does. -/
def State.drawTicket (s : State) (ticketed : Bool) : State := if ticketed && s.leads then { s with ticket := s.ticket + 1 } else s

/-- R218: a fabric load, its value and `cstat` decided by the leader. -/
def State.fabricLoadEl (s : State) (g : Group) (va : Word) (n : Nat) : Except Halt (State × Nat) :=
  if va.extractLsb' 57 7 ≠ 0 then .error (.trap 6)
  else
    let read (s : State) : State × Nat :=
      let (t, v) := s.fabricLoad g va n
      (t, v * 2 ^ 16 + t.b.ctx.ac.cstat.toNat)
    if s.leads && s.loadHeld g va n then .error (.wait .fabric)
    else match s.shared read with
      | none => .error (.wait .forward)
      | some (t, x) => .ok (t.mapCstat (fun _ => BitVec.ofNat 16 x), x / 2 ^ 16)

/-- The fabric group, if the memory space is the fabric: cause 1 without one comes before every check of the address (R159, R217). -/
def State.fabricSpace (s : State) : Except Halt (Option Group) :=
  if s.b.ctx.ac.mt = 3 then
    match s.b.ctx.fabric with
    | some g => .ok (some g)
    | none => .error (.trap 1)
  else .ok none

/-- A plain fabric store of the braid to bytes of this module waits in the fabric (R220): a later vector access finds them behind it (R122). -/
def State.ownArrival (s : State) (key n : Nat) : Bool :=
  s.arrivals.any fun a => a.by_ == some s.b.id && a.e.op == 0 && (match s.check s.ownXlate s.b.task a.e.va.toNat a.e.size .store false with
    | .ok (k, _) => decide (k < key + n ∧ key < k + a.e.size)
    | .error _ => false)

/-- R339: one element of a load, under the vector stores of the hart that have not performed. In a set an ordered one waits while the release
buffer holds ordered stores, whose tickets come before its own (R127; log entry 98). -/
def State.loadEl (s : State) (va : Word) (n : Nat) (ticketed : Bool) : Except Halt (State × Nat) :=
  let space := s.b.ctx.ac.mt
  match s.fabricSpace with
  | .error h => .error h
  | .ok fab =>
    if va.toNat % n ≠ 0 then .error (.trap 3)
    else match fab with
      | some g => s.fabricLoadEl g va n
      | none => match s.place? space va n .load with
        | .error c => .error (.trap c)
        | .ok (key, t) =>
          if t.poisonUnder t.pending key n .load then .error (.trap 7)
          else if ticketed && t.b.buf.any (·.ticketed) then .error (.wait .buffered)
          else if space = 0 ∧ t.ownArrival key n = true then .error (.wait .fabric)
          else
            let read (t : State) : State × Nat := (t.drawTicket ticketed, underItems t.pending key n (t.readMem key n))
            if space = 0 ∧ t.mustForward va.toNat n then
              match t.shared read with
              | none => .error (.wait .forward)
              | some r => .ok r
            else .ok (read t)

/-! Loads. -/

/-- The load-queue entry that the instruction has begun (R102). -/
def State.begunLq (s : State) (q : BitVec 2) : Option Entry :=
  match (s.lqOf q).getLast? with
  | some e => if e.part.isSome then some e else none
  | none => none

/-- Puts the instruction's entry in its place. -/
def State.putLq (s : State) (q : BitVec 2) (e : Entry) : State :=
  if (s.begunLq q).isSome then s.setLq q ((s.lqOf q).dropLast ++ [e]) else s.pushLq q e

/-- Active elements from `es` to `hi` − 1. -/
def State.activeFrom (s : State) (m : Mask) (hi : Nat) : List Nat :=
  (List.range' s.hr.es.toNat (hi - s.hr.es.toNat)).filter fun e => m.getLsbD e

/-- R339, R187, R188, R102: a vector load; `ok` its own cause-1 rules, `addr` an element's address given the index entry. One that waits reads
its elements from `es` on again. -/
def State.vload (s : State) (ok : Bool) (q : BitVec 2) (index : Option (BitVec 2)) (masked ticketed : Bool) (addr : VReg → Nat → Word) :
    Res :=
  if !ok then .trap s 1 0
  else match s.heads masked none index with
    | .error w => .wait s w
    | .ok h =>
      if (s.begunLq q).isNone && decide (Config.vqDepth ≤ (s.lqOf q).length) then .wait s (.push (.lq q))
      else if h.drop then .done ((s.putLq q Entry.none).popHeads masked none index).memEnd
      else
        let w := s.vw
        let es := s.hr.es.toNat
        let hi := s.memHi
        -- the entry so far: nothing at or above es
        let old : VReg := match s.begunLq q with
          | some e => e.data &&& BitVec.ofNat 16384 (2 ^ (w * es) - 1)
          | none => 0
        let r := runOps id (fun s e => s.loadEl (addr h.index e) (w / 8) ticketed) (s.activeFrom h.m hi) s [] 0
        let data := setEls old w r.vals
        match r.halt with
        | some (e, .trap c) => (r.s.putLq q ⟨data, false, some e⟩).memTrap e c
        | some (_, .wait wt) => .wait (r.s.setB s.b) wt
        | none =>
          if hi < s.vlen then .done ((r.s.putLq q ⟨data, false, some hi⟩).memStop hi)
          else .done ((r.s.putLq q ⟨data, false, none⟩).popHeads masked none index).memEnd

def State.aIssue (s : State) (k : State → Res) : Host.Outcome State Fault Refusal := (s.issue .onlyA .user false false k).settle

def execVld (q : BitVec 2) (a : Reg) (m : Bool) (s : State) : Host.Outcome State Fault Refusal :=
  s.aIssue fun s => s.vload true q none m false fun _ e => s.unit a e
def execVlds (q : BitVec 2) (a st : Reg) (m : Bool) (s : State) : Host.Outcome State Fault Refusal :=
  s.aIssue fun s => s.vload true q none m false fun _ e => s.strided a st e
def execVldx (q : BitVec 2) (a : Reg) (i : BitVec 2) (m : Bool) (g : BitVec 3) (s : State) : Host.Outcome State Fault Refusal :=
  s.aIssue fun s => s.vload (g != 7) q (some i) m false fun ix e => s.indexed a g ix e
def execVldz (q : BitVec 2) (a : Reg) (m : Bool) (s : State) : Host.Outcome State Fault Refusal :=
  s.aIssue fun s => s.vload s.zOk q none m false fun _ e => s.zOrder a e
def execVldo (q : BitVec 2) (a : Reg) (m : Bool) (s : State) : Host.Outcome State Fault Refusal :=
  s.aIssue fun s => s.vload (s.b.ctx.ac.mt == 0) q none m true fun _ e => s.unit a e

/-- R340: no effect but the mask popped. -/
def execVpref (_a : Reg) (m : Bool) (s : State) : Host.Outcome State Fault Refusal :=
  s.aIssue fun s =>
    match s.needKq m with
    | .error w => .wait s w
    | .ok _ => .done (s.popHeads m none none).memEnd

/-! Stores. -/

/-- What a store does in order: an element, or the end of an EG, with the count that `vstn` then writes (R121). -/
inductive StoreOp where
  | el (e : Nat)
  | eg (stop : Nat)

def StoreOp.at_ : StoreOp → Nat
  | .el e => e
  | .eg stop => stop - 1

/-- The operations from `es` to `hi` − 1, EG by EG. -/
def storeOps (m : Mask) (eg es hi : Nat) : List StoreOp :=
  (List.range ((hi - es + eg - 1) / eg)).flatMap fun g =>
    let lo := es + g * eg
    let up := min hi (lo + eg)
    (((List.range' lo (up - lo)).filter fun e => m.getLsbD e).map StoreOp.el) ++ [.eg up]

/-- What stays the same through a store. -/
structure StoreEnv where
  m : Mask
  addr : Nat → Word
  data : VReg
  n : Nat
  eg : Nat
  vl : Nat
  ticketed : Bool
  /-- `vstn`: the progress word's address and key, and the scope -/
  word : Option (Word × Nat × Nat)

/-- Active elements of the EG that holds element `e`. -/
def StoreEnv.egOf (v : StoreEnv) (e : Nat) : List Nat :=
  let lo := e - e % v.eg
  (List.range' lo (min v.eg (v.vl - lo))).filter fun i => v.m.getLsbD i
/-- Where elements lie. -/
def State.keysOf (s : State) (v : StoreEnv) (l : List Nat) : List Nat :=
  l.filterMap fun i =>
    match s.place? s.b.ctx.ac.mt (v.addr i) v.n .store with
    | .ok (key, _) => some key
    | .error _ => none

/-- R356: elements of `n` bytes at the keys write all eight bytes of word `w`. -/
def covers (keys : List Nat) (n w : Nat) : Bool := (List.range 8).all fun i => keys.any fun k => decide (k ≤ 8 * w + i ∧ 8 * w + i < k + n)

/-- R356: elements performed have replaced the poisoned words that they cover. -/
def State.cure (s : State) (v : StoreEnv) (l : List Nat) : State :=
  if s.replicated ∨ s.b.ctx.ac.mt = 3 ∨ s.poison.isEmpty then s
  else { s with poison := s.poison.filter fun w => !covers (s.keysOf v l) v.n w }

/-- A fabric store element of the A-hart as it travels. -/
def State.fabEl (s : State) (g : Group) (v : StoreEnv) (e : Nat) : FabElem :=
  s.elem g s.b.ctx.ac.cstr.toNat s.b.ctx.ac.cop s.hr.vt (v.addr e) v.n (getEl v.data (8 * v.n) e)

/-- R220: the EG that begins at element `e` stays at the sender, for an element waits on the channel of one of its own. -/
def State.egHeld (s : State) (g : Group) (v : StoreEnv) (e : Nat) : Bool :=
  (v.egOf e).head? == some e && (v.egOf e).any fun i =>
    g.owner s.b.ctx.ac.cstr.toNat (v.addr i).toNat == s.lmember.toNat && s.channelBusy (s.fabEl g v i)

/-- R218: element `e` of a fabric store. An EG goes whole or not at all (R67, R220; log entry 99): one of its elements that finds no room waits
in the fabric. -/
def State.fabricStoreEl (s : State) (g : Group) (v : StoreEnv) (e : Nat) : Except Halt (State × Nat) :=
  let va := v.addr e
  if va.extractLsb' 57 7 ≠ 0 then .error (.trap 6)
  else if s.bufferFull v.n then .error (.wait .forced)
  else if s.replicated then .ok (s.commit (s.fabItem g va v.n (getEl v.data (8 * v.n) e)), 0)
  else if s.egHeld g v e then .error (.wait .fabric)
  else
    let t := s.drainOut
    match t.fabricStore g (t.fabEl g v e) with
    | none => .ok ({ t with arrivals := t.arrivals ++ [⟨t.fabEl g v e, some t.b.id⟩] }, 0)
    | some u => .ok (u, 0)

/-- R350: one element of a store, or what follows an EG. An element of 16 bytes is stored, as it is loaded, in one step (R119; log entry 89). -/
def State.storeOp (v : StoreEnv) (s : State) (op : StoreOp) : Except Halt (State × Nat) :=
  let space := s.b.ctx.ac.mt
  match op with
  | .el e =>
    let va := v.addr e
    let x := getEl v.data (8 * v.n) e
    match s.fabricSpace with
    | .error h => .error h
    | .ok fab =>
      if va.toNat % v.n ≠ 0 then .error (.trap 3)
      else match fab with
        | some g => s.fabricStoreEl g v e
        | none => match s.place? space va v.n .store with
          | .error c => .error (.trap c)
          | .ok (key, t) =>
            if t.poisonUnder t.pending key v.n .store && !covers (s.keysOf v (v.egOf e)) v.n (key / 8) then .error (.trap 7)
            else if t.bufferFull v.n then .error (.wait .forced)
            else .ok (t.commit (t.item space va key v.n x v.ticketed), 0)
  | .eg stop =>
    let s := s.cure v (v.egOf (stop - 1))
    match v.word with
    | none => .ok (s, 0)
    | some (va, key, scope) =>
      if s.bufferFull 8 then .error (.wait .forced)
      else
        let t := s.release scope
        .ok (t.commit (t.item 0 va key 8 (min v.vl stop) false), 0)

/-- R218: types that the braid's fabric operation accepts. -/
def fabricType (op : BitVec 3) (t : Reg) : Bool :=
  op == 0 || op == 4 || isReal t || t == 2 || t == 3 || t == 6 || t == 7

/-- R221: a fabric add to a group in arrival-order mode, in deterministic mode. -/
def State.arrivalAdd (s : State) : Bool :=
  s.b.ctx.ac.mt == 3 && s.b.ctx.ac.cop == 1 && s.det && match s.b.ctx.fabric with
    | some g => g.arr
    | none => false

/-- R352: the check of the progress word. -/
def State.progress (s : State) (word : Option (Reg × Nat)) (k : State → Option (Word × Nat × Nat) → Res) : Res :=
  match word with
  | none => k s none
  | some (p, scope) =>
    let va := s.aReg p
    if va.toNat % 8 ≠ 0 then .trap s 3 va
    else if va.extractLsb' 57 7 ≠ 0 then .trap s 6 va
    else match s.ownCheck va.toNat 8 .store with
      | .error c => .trap s c va
      | .ok (key, t) => k t (some (va, key, scope))

/-- R350 to R353: a vector store; `last` is what follows its last element (`vstn` is a release point, R244). -/
def State.vstore (s : State) (ok : Bool) (q : BitVec 2) (index : Option (BitVec 2)) (masked ticketed : Bool) (word : Option (Reg × Nat))
    (addr : VReg → Nat → Word) (last : State → (State → Res) → Res) : Res :=
  if !ok || (s.b.ctx.ac.mt == 3 && !fabricType s.b.ctx.ac.cop s.hr.vt) then .trap s 1 0
  else if s.arrivalAdd then .trap s 19 0
  else match s.heads masked (some q) index with
    | .error w => .wait s w
    | .ok h =>
      if h.drop then .done (s.popHeads masked (some q) index).memEnd
      else s.progress word fun s wd =>
        let hi := s.memHi
        let v : StoreEnv := ⟨h.m, addr h.index, h.data, s.vw / 8, egOf s.hr.vt, s.vlen, ticketed, wd⟩
        let ops := storeOps h.m v.eg s.hr.es.toNat hi
        let r := runOps StoreOp.at_ (State.storeOp v) (ops.drop s.b.memDone) s [] s.b.memDone
        match r.halt with
        | some (e, .trap c) => (r.s.cure v ((v.egOf e).filter fun i => decide (i < e))).memTrap e c
        | some (e, .wait wt) => .wait (r.s.memWait (ops.map StoreOp.at_) r.count e) wt
        | none =>
          if hi < s.vlen then .done (r.s.memStop hi)
          else last (if ops.isEmpty then r.s else r.s.memWait (ops.map StoreOp.at_) r.count (s.vlen - 1)) fun t => .done (t.popHeads masked (some q) index).memEnd

/-- A store that is no release point. -/
def plainEnd (s : State) (k : State → Res) : Res := k s

def execVst (q : BitVec 2) (a : Reg) (m : Bool) (s : State) : Host.Outcome State Fault Refusal :=
  s.aIssue fun s => s.vstore true q none m false none (fun _ e => s.unit a e) plainEnd
def execVsts (q : BitVec 2) (a st : Reg) (m : Bool) (s : State) : Host.Outcome State Fault Refusal :=
  s.aIssue fun s => s.vstore true q none m false none (fun _ e => s.strided a st e) plainEnd
def execVstx (q : BitVec 2) (a : Reg) (i : BitVec 2) (m : Bool) (g : BitVec 3) (s : State) : Host.Outcome State Fault Refusal :=
  s.aIssue fun s => s.vstore (g != 7 && q != i) q (some i) m false none (fun ix e => s.indexed a g ix e) plainEnd
def execVstn (q : BitVec 2) (a p : Reg) (m : Bool) (sc : BitVec 3) (s : State) : Host.Outcome State Fault Refusal :=
  s.aIssue fun s => s.vstore (decide (sc.toNat ≤ 5) && s.b.ctx.ac.mt != 3) q none m false (some (p, sc.toNat)) (fun _ e => s.unit a e)
    fun s k => if s.replicated then s.releasePoint sc.toNat [] k else k s
def execVsto (q : BitVec 2) (a : Reg) (m : Bool) (s : State) : Host.Outcome State Fault Refusal :=
  s.aIssue fun s => s.vstore (s.b.ctx.ac.mt == 0) q none m true none (fun _ e => s.unit a e) plainEnd
/-- R120 allows any order among the elements; the model takes the ascending one (log entry 28). -/
def execVstu (q : BitVec 2) (a : Reg) (m : Bool) (s : State) : Host.Outcome State Fault Refusal :=
  s.aIssue fun s => s.vstore true q none m false none (fun _ e => s.unit a e) plainEnd

end Sys2Proof.Machine
end

