-- ==== Sys2Proof/Machine/VFp.lean ====
section
/-! DEFINITION. Floating vector instructions of major 0x1B (spec/26 R338, spec/14 R204, spec/10 R170) and `vopt` (spec/16 R225,
spec/27 R343). -/

namespace Sys2Proof.Machine

/-- An exact expression's one Round: NaN inputs give the canonical NaN, an invalid expression NaN with NV (R73). -/
def fpRound (f : Fmt) (o : Mode) (inputs : List FVal) (x : FVal) : Nat × Flags :=
  if inputs.any FVal.isNan then (f.nan, 0) else f.result o x.isNan x

/-- An element computed part by part: a real element with Dither index e, or the two parts of a complex one with 2e and 2e + 1 (R338). -/
def fpParts (r : HartRegs) (t : Reg) (e : Nat) (g : Fmt → Mode → Nat → Nat × Flags) : Nat × Flags :=
  match fmtOf t with
  | none => (0, 0)
  | some f =>
    if isComplex t then
      let re := g f (r.mode (2 * e)) 0
      let im := g f (r.mode (2 * e + 1)) 1
      (ofParts (sewOf t) re.1 im.1, re.2 ||| im.2)
    else g f (r.mode e) 0

/-- Part 0 or 1 of an element, as a value. -/
def partVal (f : Fmt) (t : Reg) (c i : Nat) : FVal :=
  if isComplex t then f.decode (if i = 0 then rePart (sewOf t) c else imPart (sewOf t) c) else f.decode c

def fpAdd (sub : Bool) (r : HartRegs) (t : Reg) (e a b : Nat) : Nat × Flags :=
  fpParts r t e fun f o i =>
    let x := partVal f t a i
    let y := partVal f t b i
    fpRound f o [x, y] (x.add o.down (if sub then y.negate else y))

/-- The exact product of two elements, by part: ar·br − ai·bi and ar·bi + ai·br. -/
def productPart (f : Fmt) (t : Reg) (down : Bool) (a b i : Nat) : FVal :=
  if isComplex t then
    let ar := partVal f t a 0
    let ai := partVal f t a 1
    let br := partVal f t b 0
    let bi := partVal f t b 1
    if i = 0 then (ar.mul br).sub down (ai.mul bi) else (ar.mul bi).add down (ai.mul br)
  else (f.decode a).mul (f.decode b)

/-- Every part of an element that a part of a product reads. -/
def partsOf (f : Fmt) (t : Reg) (c : Nat) : List FVal :=
  if isComplex t then [partVal f t c 0, partVal f t c 1] else [f.decode c]

def fpMul (r : HartRegs) (t : Reg) (e a b : Nat) : Nat × Flags :=
  fpParts r t e fun f o i => fpRound f o (partsOf f t a ++ partsOf f t b) (productPart f t o.down a b i)

/-- a × b + d, a × b − d or d − a × b with one Round. -/
def fpFma (negP negD : Bool) (r : HartRegs) (t : Reg) (e a b d : Nat) : Nat × Flags :=
  fpParts r t e fun f o i =>
    let x := partVal f t d i
    let p := if negP && isComplex t then
        -- each product's sign is inverted, so that a zero sum keeps the sign of its terms
        let n (c : Nat) := ofParts (sewOf t) (rePart (sewOf t) c ^^^ f.signBit true) (imPart (sewOf t) c ^^^ f.signBit true)
        productPart f t o.down (n a) b i
      else if negP then (productPart f t o.down a b i).negate
      else productPart f t o.down a b i
    fpRound f o (partsOf f t a ++ partsOf f t b ++ [x]) (p.add o.down (if negD then x.negate else x))

/-- R204: with DZ for a finite non-zero value over zero. -/
def fpDiv (r : HartRegs) (t : Reg) (e a b : Nat) : Nat × Flags :=
  fpParts r t e fun f o _ =>
    let x := f.decode a
    let y := f.decode b
    let q := fpRound f o [x, y] (x.div y)
    (q.1, q.2 ||| flagIf (y.isZero && !x.isZero && !x.isInf && !x.isNan) flagDZ)

def fpSqrt (r : HartRegs) (t : Reg) (e b : Nat) : Nat × Flags :=
  fpParts r t e fun f o _ => fpRound f o [f.decode b] (f.decode b).sqrt

/-- Results with no rounding step. -/
def fpExact (t : Reg) (g : FVal → FVal → FVal) (a b : Nat) : Nat × Flags :=
  match fmtOf t with
  | none => (0, 0)
  | some f =>
    if isComplex t then
      (ofParts (sewOf t) (f.round .rne (g (partVal f t a 0) (partVal f t b 0))).1
        (f.round .rne (g (partVal f t a 1) (partVal f t b 1))).1, 0)
    else ((f.round .rne (g (f.decode a) (f.decode b))).1, 0)

/-- (a + b) − RoundRNE(a + b), exact. -/
def fpTsum (t : Reg) (a b : Nat) : Nat × Flags :=
  match fmtOf t with
  | none => (0, 0)
  | some f =>
    let sum := (f.decode a).add false (f.decode b)
    let s := f.decode (f.round .rne sum).1
    if sum.isNan || sum.isInf || s.isInf then (f.nan, flagNV) else ((f.round .rne (sum.add false s.negate)).1, 0)

/-- A binary floating instruction; the VS form is illegal under c128 (R169). -/
def vFp (ok : Reg → Bool) (rounds : Bool) (f : HartRegs → Reg → Nat → Nat → Nat → Nat × Flags) (d : Dst) (a : Reg) (b : Src)
    (k : BitVec 4) (s : State) : Host.Outcome State Fault Refusal :=
  s.vIssue fun s => s.vEach (ok s.hr.vt) d (popOf b) k rounds fun s e =>
    let x := f s.hr s.hr.vt e (s.elA a e) (s.elB b e)
    (x.1, x.2, false)
def vFpVs (ok : Reg → Bool) (rounds : Bool) (f : HartRegs → Reg → Nat → Nat → Nat → Nat × Flags) (d : Dst) (a b : Reg)
    (k : BitVec 4) (s : State) : Host.Outcome State Fault Refusal :=
  s.vIssue fun s => s.vEach (ok s.hr.vt && s.hr.vt != 17) d none k rounds fun s e =>
    let x := f s.hr s.hr.vt e (s.elA a e) (s.vsScalar b)
    (x.1, x.2, false)

def execVfadd (d : Dst) (a : Reg) (b : Src) (k : BitVec 4) (s : State) : Host.Outcome State Fault Refusal :=
  vFp isFloatArith true (fpAdd false) d a b k s
def execVfaddVs (d : Dst) (a b : Reg) (k : BitVec 4) (s : State) : Host.Outcome State Fault Refusal :=
  vFpVs isFloatArith true (fpAdd false) d a b k s
def execVfsub (d : Dst) (a : Reg) (b : Src) (k : BitVec 4) (s : State) : Host.Outcome State Fault Refusal :=
  vFp isFloatArith true (fpAdd true) d a b k s
def execVfsubVs (d : Dst) (a b : Reg) (k : BitVec 4) (s : State) : Host.Outcome State Fault Refusal :=
  vFpVs isFloatArith true (fpAdd true) d a b k s
def execVfmul (d : Dst) (a : Reg) (b : Src) (k : BitVec 4) (s : State) : Host.Outcome State Fault Refusal :=
  vFp isFloatArith true fpMul d a b k s
def execVfmulVs (d : Dst) (a b : Reg) (k : BitVec 4) (s : State) : Host.Outcome State Fault Refusal :=
  vFpVs isFloatArith true fpMul d a b k s
def execVfdiv (d : Dst) (a : Reg) (b : Src) (k : BitVec 4) (s : State) : Host.Outcome State Fault Refusal :=
  vFp isReal true fpDiv d a b k s
def execVfdivVs (d : Dst) (a b : Reg) (k : BitVec 4) (s : State) : Host.Outcome State Fault Refusal :=
  vFpVs isReal true fpDiv d a b k s
def execVfmin (d : Dst) (a : Reg) (b : Src) (k : BitVec 4) (s : State) : Host.Outcome State Fault Refusal :=
  vFp isReal false (fun _ t _ a b => fpExact t FVal.min a b) d a b k s
def execVfminVs (d : Dst) (a b : Reg) (k : BitVec 4) (s : State) : Host.Outcome State Fault Refusal :=
  vFpVs isReal false (fun _ t _ a b => fpExact t FVal.min a b) d a b k s
def execVfmax (d : Dst) (a : Reg) (b : Src) (k : BitVec 4) (s : State) : Host.Outcome State Fault Refusal :=
  vFp isReal false (fun _ t _ a b => fpExact t FVal.max a b) d a b k s
def execVfmaxVs (d : Dst) (a b : Reg) (k : BitVec 4) (s : State) : Host.Outcome State Fault Refusal :=
  vFpVs isReal false (fun _ t _ a b => fpExact t FVal.max a b) d a b k s

/-- A unary floating instruction. -/
def vFpUnary (ok : Reg → Bool) (rounds : Bool) (f : HartRegs → Reg → Nat → Nat → Nat × Flags) (d : Dst) (b : Src) (k : BitVec 4)
    (s : State) : Host.Outcome State Fault Refusal :=
  s.vIssue fun s => s.vEach (ok s.hr.vt) d (popOf b) k rounds fun s e =>
    let x := f s.hr s.hr.vt e (s.elB b e)
    (x.1, x.2, false)
def execVfsqrt (d : Dst) (b : Src) (k : BitVec 4) (s : State) : Host.Outcome State Fault Refusal := vFpUnary isReal true fpSqrt d b k s
def execVfabs (d : Dst) (b : Src) (k : BitVec 4) (s : State) : Host.Outcome State Fault Refusal :=
  vFpUnary isReal false (fun _ t _ b => fpExact t (fun x _ => x.abs) b b) d b k s
def execVfneg (d : Dst) (b : Src) (k : BitVec 4) (s : State) : Host.Outcome State Fault Refusal :=
  vFpUnary isFloatArith false (fun _ t _ b => fpExact t (fun x _ => x.negate) b b) d b k s

/-- A fused instruction: the destination register is the addend. -/
def vFused (negP negD : Bool) (d a : Reg) (b : Src) (k : BitVec 4) (s : State) : Host.Outcome State Fault Refusal :=
  s.vIssue fun s => s.vEach (isFloatArith s.hr.vt) (.v d) (popOf b) k true fun s e =>
    let x := fpFma negP negD s.hr s.hr.vt e (s.elA a e) (s.elB b e) (s.elA d e)
    (x.1, x.2, false)
def vFusedVs (negP negD : Bool) (d a b : Reg) (k : BitVec 4) (s : State) : Host.Outcome State Fault Refusal :=
  s.vIssue fun s => s.vEach (isFloatArith s.hr.vt && s.hr.vt != 17) (.v d) none k true fun s e =>
    let x := fpFma negP negD s.hr s.hr.vt e (s.elA a e) (s.vsScalar b) (s.elA d e)
    (x.1, x.2, false)
def execVfma (d a : Reg) (b : Src) (k : BitVec 4) (s : State) : Host.Outcome State Fault Refusal := vFused false false d a b k s
def execVfmaVs (d a b : Reg) (k : BitVec 4) (s : State) : Host.Outcome State Fault Refusal := vFusedVs false false d a b k s
def execVfms (d a : Reg) (b : Src) (k : BitVec 4) (s : State) : Host.Outcome State Fault Refusal := vFused false true d a b k s
def execVfmsVs (d a b : Reg) (k : BitVec 4) (s : State) : Host.Outcome State Fault Refusal := vFusedVs false true d a b k s
def execVfnma (d a : Reg) (b : Src) (k : BitVec 4) (s : State) : Host.Outcome State Fault Refusal := vFused true false d a b k s
def execVfnmaVs (d a b : Reg) (k : BitVec 4) (s : State) : Host.Outcome State Fault Refusal := vFusedVs true false d a b k s

def execVtsum (d : Dst) (a : Reg) (b : Src) (k : BitVec 4) (s : State) : Host.Outcome State Fault Refusal :=
  vFp isReal false (fun _ t _ a b => fpTsum t a b) d a b k s

/-! The optimiser step (R225). -/

/-- The new w, m and v of an element and the flags, from g and the old values. Each Round is to f32 with the element's dither. -/
def optElem (x : XRegs) (o : Mode) (g w m v : Nat) : Nat × Nat × Nat × Flags :=
  let f := Fmt.f32
  let val (c : Nat) : FVal := f.decode c
  let reg (c : BitVec 32) : FVal := f.decode c.toNat
  let add (p q : FVal) : FVal := p.add o.down q
  let sub (p q : FVal) : FVal := p.sub o.down q
  let one := FVal.one
  let m1 := fpRound f o [reg x.ob1, val m, val g] (add ((reg x.ob1).mul (val m)) ((sub one (reg x.ob1)).mul (val g)))
  let v1 := fpRound f o [reg x.ob2, val v, val g]
    (add ((reg x.ob2).mul (val v)) (((sub one (reg x.ob2)).mul (val g)).mul (val g)))
  let den := fpRound f o [val v1.1, reg x.oc2, reg x.oeps] (add ((val v1.1).mul (reg x.oc2)).sqrt (reg x.oeps))
  let num := (val m1.1).mul (reg x.oc1)
  let u := fpRound f o [val m1.1, reg x.oc1, val den.1] (num.div (val den.1))
  let w1 := fpRound f o [val w, reg x.olr, val u.1, reg x.owd]
    (sub (val w) ((reg x.olr).mul (add (val u.1) ((reg x.owd).mul (val w)))))
  let dz := flagIf ((val den.1).isZero && !num.isZero && !num.isInf && !num.isNan) flagDZ
  (w1.1, m1.1, v1.1, m1.2 ||| v1.2 ||| den.2 ||| u.2 ||| dz ||| w1.2)

/-- The elements of all three registers, the gradient and the old values read before any is written (R343). -/
def optRun (s : State) (d a : Reg) (m : Mask) (lo hi : Nat) : List (Nat × Nat × Nat × Nat) × Flags :=
  (List.range' lo (hi - lo)).foldl (fun acc e =>
    if m.getLsbD e then
      let (w, mm, v, fl) := optElem s.b.ctx.xc (s.hr.mode e) (s.elA a e) (s.elA d e) (s.elA (d + 1) e) (s.elA (d + 2) e)
      (acc.1 ++ [(e, w, mm, v)], acc.2 ||| fl)
    else acc) ([], 0)

def State.optWrite (s : State) (d : Reg) (l : List (Nat × Nat × Nat × Nat)) (fl : Flags) : State :=
  let w := l.map fun x => (x.1, x.2.1)
  let s := s.writeV d 32 w
  let s := s.writeV (d + 1) 32 (l.map fun x => (x.1, x.2.2.1))
  let s := s.writeV (d + 2) 32 (l.map fun x => (x.1, x.2.2.2))
  (s.writeCopy (.v d) 32 w).addFlags fl

def execVopt (d a : Reg) (k : BitVec 4) (s : State) : Host.Outcome State Fault Refusal :=
  s.vIssue fun s =>
    if s.hr.vt ≠ 10 then .trap s 1 0
    else
      let m := s.effMask k
      if m = 0 then s.vDrop none none true
      else match s.stopAt s.hr.vt with
        | some hi =>
          let o := optRun s d a m s.hr.es.toNat hi
          .done { (s.optWrite d o.1 o.2).setEs hi with egStop := none }
        | none =>
          let o := optRun s d a m s.hr.es.toNat s.vlen
          .done ((s.optWrite d o.1 o.2).vDone true)

end Sys2Proof.Machine
end

