-- ==== Sys2Proof/Machine/VRed.lean ====
section
/-! DEFINITION. Reductions and scans of major 0x1E (spec/05 R88, R89, spec/27 R346, R347). -/

namespace Sys2Proof.Machine

/-- The least power of two that is at least `n`. -/
def pow2Above (n : Nat) : Nat := if n ≤ 1 then 1 else 2 ^ (Nat.log2 (n - 1) + 1)

/-- R88's recursive halving: element i is combined with element i + h. -/
def halve (f : Nat → Nat → Nat → Nat × Flags) : Nat → List Nat → Flags → Nat × Flags
  | 0, l, fl => (l.headD 0, fl)
  | n + 1, l, fl =>
    let h := l.length / 2
    let r := (List.zip (l.take h) (l.drop h)).mapIdx fun i p => f i p.1 p.2
    halve f n (r.map (·.1)) (r.foldl (fun fl x => fl ||| x.2) fl)

/-- A reduction of the active elements over P, the rest being the identity (R88). -/
def reduce (s : State) (m : Mask) (a : Reg) (identity : Nat) (f : Nat → Nat → Nat → Nat × Flags) : Nat × Flags :=
  let p := pow2Above s.vlen
  halve f (Nat.log2 p) ((List.range p).map fun i => if m.getLsbD i && decide (i < s.vlen) then s.elA a i else identity) 0

/-- R73: a NaN is written as the canonical NaN of its type, also by a reduction of a single element. -/
def canonical (t : Reg) (c : Nat) : Nat := if isInt t then c else (fpExact t (fun v _ => v) c c).1

def reduction (ok : Reg → Bool) (rounds : Bool) (identity : Reg → Nat) (f : HartRegs → Reg → Nat → Nat → Nat → Nat × Flags) (d : Dst)
    (a : Reg) (k : BitVec 4) (s : State) : Host.Outcome State Fault Refusal :=
  s.vIssue fun s => s.vWhole (ok s.hr.vt) d none k rounds fun s m =>
    let r := reduce s m a (identity s.hr.vt) (f s.hr s.hr.vt)
    ([(0, canonical s.hr.vt r.1)], r.2)

/-- The least and the greatest value of an integer type. -/
def minCode (t : Reg) : Nat := if isSigned t then 2 ^ (sewOf t - 1) else 0
def maxCode (t : Reg) : Nat := if isSigned t then 2 ^ (sewOf t - 1) - 1 else 2 ^ sewOf t - 1
/-- −0.0 in each part. -/
def negZero (t : Reg) : Nat := if isComplex t then ofParts (sewOf t) (2 ^ (sewOf t / 2 - 1)) (2 ^ (sewOf t / 2 - 1)) else 2 ^ (sewOf t - 1)
def infOf (t : Reg) (neg : Bool) : Nat := match fmtOf t with | some f => f.signBit neg + f.infCode | none => 0

def intStep (f : Int → Int → Int) (_ : HartRegs) (t : Reg) (_ a b : Nat) : Nat × Flags :=
  (ofSigned (sewOf t) (f (intVal t a) (intVal t b)), 0)
def fpStep (f : FVal → FVal → FVal) (_ : HartRegs) (t : Reg) (_ a b : Nat) : Nat × Flags := fpExact t f a b

def execVredsum (d : Dst) (a : Reg) (k : BitVec 4) (s : State) : Host.Outcome State Fault Refusal :=
  reduction isInt false (fun _ => 0) (intStep fun a b => a + b) d a k s
def execVfredsum (d : Dst) (a : Reg) (k : BitVec 4) (s : State) : Host.Outcome State Fault Refusal :=
  reduction isFloatArith true negZero (fpAdd false) d a k s
def execVredmax (d : Dst) (a : Reg) (k : BitVec 4) (s : State) : Host.Outcome State Fault Refusal :=
  reduction isInt false minCode (intStep fun a b => max a b) d a k s
def execVredmin (d : Dst) (a : Reg) (k : BitVec 4) (s : State) : Host.Outcome State Fault Refusal :=
  reduction isInt false maxCode (intStep fun a b => min a b) d a k s
def execVfredmax (d : Dst) (a : Reg) (k : BitVec 4) (s : State) : Host.Outcome State Fault Refusal :=
  reduction isReal false (fun t => infOf t true) (fpStep FVal.max) d a k s
def execVfredmin (d : Dst) (a : Reg) (k : BitVec 4) (s : State) : Host.Outcome State Fault Refusal :=
  reduction isReal false (fun t => infOf t false) (fpStep FVal.min) d a k s

/-- R89: the running sums, an inactive element contributing the identity. -/
def scan (s : State) (m : Mask) (a : Reg) : List (Nat × Nat) × Flags :=
  let t := s.hr.vt
  let x (i : Nat) : Nat := if m.getLsbD i then s.elA a i else if isInt t then 0 else negZero t
  let r := (List.range s.vlen).foldl (fun (acc : List (Nat × Nat) × Nat × Flags) i =>
    let (l, y, fl) := acc
    let (y', f) : Nat × Flags :=
      if isInt t then ((y + x i) % 2 ^ sewOf t, 0)
      else if i = 0 then fpExact t (fun v _ => v) (x i) (x i)
      else fpAdd false s.hr t i y (x i)
    (if m.getLsbD i then l ++ [(i, y')] else l, y', fl ||| f)) ([], 0, 0)
  (r.1, r.2.2)

/-- Under SR a floating scan consumes dither; an integer one has no rounding step (R346, R347). -/
def execVscan (d : Dst) (a : Reg) (k : BitVec 4) (s : State) : Host.Outcome State Fault Refusal :=
  s.vIssue fun s => s.vWhole (decide (s.hr.vt.toNat < 12) || isComplex s.hr.vt) d none k (!isInt s.hr.vt) fun s m => scan s m a

end Sys2Proof.Machine
end

