-- ==== Sys2Proof/Machine/Atomic.lean ====
section
/-! DEFINITION. Scalar atomics and vector atomics (spec/08 R132-R137, spec/26 R331, spec/07 R126, R127). -/

namespace Sys2Proof.Machine

/-! What an atomic makes of the old value, the operand and the compare value (R133). -/

/-- The float type of a width. -/
def fpType (bits : Nat) : Reg := if bits = 32 then 10 else 11

/-- New value and flags from the hart's registers, the width in bits, the dither index, old, b and d. -/
abbrev Update := HartRegs → Nat → Nat → Nat → Nat → Nat → Nat × Flags

def updInt (f : Nat → Int → Int → Int) : Update := fun _ w _ old b _ => (ofSigned w (f w (toSigned w old) (toSigned w b)), 0)
def updNat (f : Nat → Nat → Nat) : Update := fun _ w _ old b _ => (f old b % 2 ^ w, 0)
def updFp (f : FVal → FVal → FVal) : Update := fun _ w _ old b _ => fpExact (fpType w) f old b
def updFadd : Update := fun r w e old b _ => fpAdd false r (fpType w) e old b
/-- R133, code 10: −∞, or the most negative signed integer. -/
def updReset (f : Bool) : Update := fun _ w _ _ _ _ => (if f then infOf (fpType w) true else 2 ^ (w - 1), 0)

/-! Scalar atomics. -/

def amoBytes (o : AmoMod) : Nat := if o.w then 4 else 8

/-- R134's Extend of a 4-byte old value: sign-extended for add, max, min and maxrs with f = 0. -/
def amoExtend (signed : Bool) (o : AmoMod) (old : Nat) : Word :=
  if o.w && signed then BitVec.ofInt 64 (toSigned 32 old) else BitVec.ofNat 64 old

/-- The read and write at home, with the orderings asked for (R126, R127). -/
def amoPerform (o : AmoMod) (key n : Nat) (new : Nat → Nat) (s : State) : State × Nat :=
  let s := if o.rl then s.release o.scope.toNat else s
  let s := s.cacheEvict key
  let old := s.readMem key n
  let s := s.writeMem key n (new old)
  let s := if o.aq && o.rl && o.scope == 4 then { s with ticket := s.ticket + 1 } else s
  (if o.aq then s.acquire o.scope.toNat else s, old)

/-- A follower of a set takes no part in the access, but its acquire is the follower's too (R96, R126, R131). -/
def State.amoFollow (s : State) (o : AmoMod) : State := if s.leads || !o.aq then s else s.acquire o.scope.toNat

/-- R134. `i` is the instruction for its record (R243), `rounds` marks fadd, `readsD` cas. The hart's scalar and vector stores to its bytes
before it have reached memory when it reads (R119, R122). -/
def amo (i : Instr) (rounds signed readsD : Bool) (f : Update) (d a b : Reg) (o : AmoMod) (s : State) :
    Host.Outcome State Fault Refusal :=
  s.aIssue fun s =>
    let va := s.aReg a
    let n := amoBytes o
    if rounds && s.det then .trap s 19 0
    else match badAddr va n with
      | some c => .trap s c va
      | none =>
        match s.ownCheck va.toNat n .atomic with
        | .error c => .trap s c va
        | .ok (key, t) =>
          let t := (t.cacheEvict key).settleBytes key n
          if t.poisonUnder t.b.buf key n .atomic then .trap t 7 va
          else
          let x := (t.aReg b).toNat % 2 ^ (8 * n)
          let y := (t.aReg d).toNat % 2 ^ (8 * n)
          let new (s : State) (old : Nat) := f s.hr (8 * n) 0 old x y
          let inputs := [t.aReg a, t.aReg b] ++ if readsD then [t.aReg d] else []
          t.setPoint (opRecord i inputs) fun t =>
            t.once (amoPerform o key n fun old => (new t old).1) fun t old =>
              .done (((((t.amoFollow o).addFlags (new t old).2).useDither (rounds && t.hr.sr)).setA d (amoExtend signed o old)).retire)

def execAmoAdd (d a b : Reg) (o : AmoMod) (s : State) : Host.Outcome State Fault Refusal :=
  amo (.amoAdd d a b o) false true false (updInt fun _ x y => x + y) d a b o s
def execAmoFadd (d a b : Reg) (o : AmoMod) (s : State) : Host.Outcome State Fault Refusal :=
  amo (.amoFadd d a b o) true false false updFadd d a b o s
def execAmoMax (d a b : Reg) (f : Bool) (o : AmoMod) (s : State) : Host.Outcome State Fault Refusal :=
  amo (.amoMax d a b f o) false (!f) false (if f then updFp FVal.max else updInt fun _ x y => max x y) d a b o s
def execAmoMin (d a b : Reg) (f : Bool) (o : AmoMod) (s : State) : Host.Outcome State Fault Refusal :=
  amo (.amoMin d a b f o) false (!f) false (if f then updFp FVal.min else updInt fun _ x y => min x y) d a b o s
def execAmoMaxn (d a b : Reg) (o : AmoMod) (s : State) : Host.Outcome State Fault Refusal :=
  amo (.amoMaxn d a b o) false false false (updNat max) d a b o s
def execAmoMinn (d a b : Reg) (o : AmoMod) (s : State) : Host.Outcome State Fault Refusal :=
  amo (.amoMinn d a b o) false false false (updNat min) d a b o s
def execAmoXchg (d a b : Reg) (o : AmoMod) (s : State) : Host.Outcome State Fault Refusal :=
  amo (.amoXchg d a b o) false false false (updNat fun _ b => b) d a b o s
def execAmoCas (d a b : Reg) (o : AmoMod) (s : State) : Host.Outcome State Fault Refusal :=
  amo (.amoCas d a b o) false false true (fun _ _ _ old b d => (if old = d then b else old, 0)) d a b o s
def execAmoAnd (d a b : Reg) (o : AmoMod) (s : State) : Host.Outcome State Fault Refusal :=
  amo (.amoAnd d a b o) false false false (updNat fun a b => a &&& b) d a b o s
def execAmoOr (d a b : Reg) (o : AmoMod) (s : State) : Host.Outcome State Fault Refusal :=
  amo (.amoOr d a b o) false false false (updNat fun a b => a ||| b) d a b o s
def execAmoMaxrs (d a b : Reg) (f : Bool) (o : AmoMod) (s : State) : Host.Outcome State Fault Refusal :=
  amo (.amoMaxrs d a b f o) false (!f) false (updReset f) d a b o s

/-! Vector atomics. -/

/-- The first active element that fails a check, with its cause (R331 step 1). -/
def State.firstFailing (s : State) (addr : Nat → Word) (n : Nat) : List Nat → Option (Nat × Nat)
  | [] => none
  | e :: r =>
    let va := addr e
    if va.toNat % n ≠ 0 then some (e, 3)
    else match s.place? s.b.ctx.ac.mt va n .atomic with
      | .error c => some (e, c)
      | .ok (key, t) => if t.poisonUnder t.b.buf key n .atomic then some (e, 7) else t.firstFailing addr n r

/-- The first active element whose address an earlier one has (R137). -/
def firstRepeated (addr : Nat → Word) : List Nat → List Word → Option Nat
  | [], _ => none
  | e :: r, seen => if seen.contains (addr e) then some e else firstRepeated addr r (addr e :: seen)

/-- One element at its home. -/
def State.vamoEl (s : State) (f : Nat → Nat → Nat × Flags) (addr : Nat → Word) (n : Nat) (acc : Flags) (e : Nat) : State × Flags :=
  match s.place? s.b.ctx.ac.mt (addr e) n .atomic with
  | .error _ => (s, acc)
  | .ok (key, t) =>
    let r := f e (t.readMem key n)
    (t.writeMem key n r.1, acc ||| r.2)

/-- The elements in ascending order (log entry 28), and the flags they set. -/
def vamoPerform (f : Nat → Nat → Nat × Flags) (addr : Nat → Word) (n : Nat) (els : List Nat) (s : State) : State × Nat :=
  let r := els.foldl (fun (p : State × Flags) e => p.1.vamoEl f addr n p.2 e) (s, 0)
  (r.1, r.2.toNat)

/-- R136, R137, R331. Under replica execution the leader performs the elements, but own-pool ones act on each replica's pool (R242). The hart's
vector stores perform first (R122), and a dropped one is a release point too (R244), which signs nothing (R243). In a window that runs again a
pool that the elements have reached already is not touched twice (R247, R249; log entry 96). Where nothing performs because two elements share an
address, `es` stays as it was, also when the trap is a failing element's (log entry 75). -/
def vamo (i : Instr) (types : Reg → Bool) (rounds : Bool) (f : Reg → Update) (q : BitVec 2) (a : Reg) (ix : BitVec 2) (m : Bool)
    (s : State) : Host.Outcome State Fault Refusal :=
  s.aIssue fun s =>
    let t := s.hr.vt
    if !types t || q == ix || s.b.ctx.ac.mt == 3 then .trap s 1 0
    else if rounds && s.det then .trap s 19 0
    else match s.heads m (some q) (some ix) with
      | .error w => .wait s w
      | .ok h =>
        let finish (s : State) : Res := .done ((s.useDither (rounds && s.hr.sr)).popHeads m (some q) (some ix)).memEnd
        if h.drop then s.setPoint [] finish
        else
          let s := s.drainOut
          let n := bytesOf t
          let addr (e : Nat) : Word := s.aReg a + BitVec.ofNat 64 (getEl h.index s.vw e * n)
          let act := s.activeFrom h.m s.vlen
          let bad := s.firstFailing addr n act
          match firstRepeated addr act [], bad with
          | some _, some (e, c) => .trap s c (BitVec.ofNat 64 e)
          | some e, none => .trap s 8 (BitVec.ofNat 64 e)
          | none, bad =>
            let stop := match bad with
              | some (e, _) => e - e % egOf t
              | none => (s.stopAt t).getD s.vlen
            let els := act.filter fun e => decide (e < stop)
            let upd (s : State) (e old : Nat) := f t s.hr s.vw e old (getEl h.data s.vw e) 0
            let go (s : State) : State × Nat := vamoPerform (upd s) addr n els s
            let after (s : State) (fl : Nat) : Res :=
              let s := s.addFlags (BitVec.ofNat 8 fl)
              match bad with
              | some (e, c) => s.memTrap e c
              | none => if stop < s.vlen then .done (s.memStop stop) else finish s
            s.setPoint (opRecord i [s.aReg a]) fun s =>
              let again := decide (s.b.fwdA < s.b.tookA)
              s.once go fun t fl => after (if s.b.ctx.ac.mt = 1 && !s.leads && !again then (go t).1 else t) fl

def vamoInt (t : Reg) : Bool := t == 2 || t == 3 || t == 6 || t == 7
def vamoFp (t : Reg) : Bool := t == 10 || t == 11
def updTyped (f : Int → Int → Int) (g : FVal → FVal → FVal) (t : Reg) : Update := fun _ w _ old b _ =>
  if vamoFp t then fpExact t g old b else (ofSigned w (f (intVal t old) (intVal t b)), 0)

def execVamoAdd (q : BitVec 2) (a : Reg) (i : BitVec 2) (m : Bool) (s : State) : Host.Outcome State Fault Refusal :=
  vamo (.vamoAdd q a i m) vamoInt false (fun _ => updNat fun x y => x + y) q a i m s
def execVamoFadd (q : BitVec 2) (a : Reg) (i : BitVec 2) (m : Bool) (s : State) : Host.Outcome State Fault Refusal :=
  vamo (.vamoFadd q a i m) vamoFp true (fun _ => updFadd) q a i m s
def execVamoMax (q : BitVec 2) (a : Reg) (i : BitVec 2) (m : Bool) (s : State) : Host.Outcome State Fault Refusal :=
  vamo (.vamoMax q a i m) (fun t => vamoInt t || vamoFp t) false (updTyped (fun x y => max x y) FVal.max) q a i m s
def execVamoMin (q : BitVec 2) (a : Reg) (i : BitVec 2) (m : Bool) (s : State) : Host.Outcome State Fault Refusal :=
  vamo (.vamoMin q a i m) (fun t => vamoInt t || vamoFp t) false (updTyped (fun x y => min x y) FVal.min) q a i m s

end Sys2Proof.Machine
end

