-- ==== Sys2Proof/Machine/Fetch.lean ====
section
/-! DEFINITION. What happens at a hart's turn before an instruction executes: pending events at its boundary (spec/09 R160), the fetch
(R101, R303) and the decoding of the word (R278); the schedule's turns that are no instruction; a program placed for a fetch. -/

namespace Sys2Proof.Machine

/-! Stream faults (R110). -/

/-- The layout of `eei` for cause 15. -/
def faultInfo (ucause stream index : Nat) : Word := BitVec.ofNat 64 (ucause * 2 ^ 19 + stream * 2 ^ 16 + index % 2 ^ 16)

/-- The fault that the set takes next, if it has come to this hart's count, or if the leader waits in the instruction before it. -/
def State.setFault (s : State) : Option FaultRec :=
  match s.rset with
  | none => none
  | some r => (r.logF[s.b.fwdF]?).filter fun e =>
      e.ret == s.b.retA || (e.ret == s.b.retA + 1 && s.b.rep == r.leader && s.b.agreedA && s.b.waitA.isSome)

/-- R110, R115: a stream fault that the A-hart may take now: at any boundary; in a set the one that the leader decided for this count, and
for the leader the one of a stream it waits on (log entry 34). -/
def State.faultNow (s : State) : Option FaultRec :=
  if s.sysMode || s.b.trapping then none
  else match s.rset with
    | none => s.b.ctx.undelivered.map fun n => s.b.faultRec s.b.retA n
    | some r => match s.setFault with
      | some e => some e
      | none =>
        if s.b.rep == r.leader && s.waitsOnStream then s.b.ctx.undelivered.map fun n => s.b.faultRec s.b.retA n else none

/-- R110: the A-hart takes cause 15. The fault is delivered in the record of the braid that performs the stream; a follower's own record
says what it was told. -/
def State.takeStreamFault (s : State) (e : FaultRec) : State :=
  let s := match s.rset with
    | none => s.mapB fun b => b.tell e.stream
    | some r =>
      let s := if s.setFault.isSome then s.mapSet r fun q => { q with logF := q.logF.modify s.b.fwdF fun e => { e with ret := s.b.retA } }
        else (s.mapSet r fun q => { q with logF := q.logF ++ [e] }).mapB fun b => b.tell e.stream
      let s := s.mapB fun b => { b with fwdF := b.fwdF + 1 }
      if s.leads then s
      else s.setStream e.stream { s.stream e.stream with st := .faulted, fault := some e.cause, told := true, ctr := e.index }
  s.raise .A 15 (s.pcOf .A) (faultInfo e.cause e.stream.toNat e.index)

/-- An interrupt may be taken now (R160, R151). -/
def State.interruptNow (s : State) : Bool := s.takeable.isSome && s.atReleaseBoth && !s.b.trapping
/-- An interrupt is to be taken where the set last released, and no hart has gone beyond (R151). -/
def State.interruptDue (s : State) : Bool :=
  s.replicated && s.takeable.isSome && !s.b.trapping && decide (s.b.retA ≤ s.b.posA ∧ s.b.retX ≤ s.b.posX)

/-- The landing that the A-hart may take now, at user level (R112, R113, R247). -/
def State.landingNow (s : State) : Option Nat :=
  if s.sysMode || s.b.level != .user || s.b.ctx.inLand || s.b.ctx.endA || !s.atReleaseA || s.b.agreedA || s.b.trapping then none
  else lowest8 (if s.replicated then s.b.ctx.landPend &&& s.b.landDue else s.b.ctx.landPend)

/-- R160: the event the boundary takes, if one is pending: a stream fault, then an interrupt, then a landing. -/
def State.boundary (s : State) : Option State :=
  match (if s.hart = .A then s.faultNow else none) with
  | some e => some (s.takeStreamFault e)
  | none =>
    if s.hart = s.irqHart ∧ s.interruptNow then some s.takeInterrupt
    else if s.hart = .A then s.landingNow.map s.enterLanding
    else none

/-! The fetch. -/

/-- The word at the hart's address, or the cause (R101, R303, R310). -/
def State.fetch (s : State) : Except Nat (BitVec 32 × State) :=
  if s.pc.extractLsb' 57 7 ≠ 0 then .error 6
  else match s.access s.ownXlate s.b.task s.pc.toNat 4 .fetch true with
    | .error c => .error c
    | .ok (key, s) => .ok (BitVec.ofNat 32 (s.readMem key 4), s)

/-- The hart can take a turn: its braid is resident, it has not ended, and the system handler has not stopped it (R43, R157). -/
def State.runnable (s : State) : Bool :=
  s.b.live && (match s.hart with
    | .A => if s.sysMode then !s.b.endS else !s.b.ctx.endA
    | .X => !s.sysMode && !s.b.ctx.endX)

/-- The hart of a set is held: where the set stops it, but not inside an element group (R67, R245, R246), or where an interrupt is to be
taken that waits for the other hart (R151). -/
def State.heldBack (s : State) : Bool :=
  (match s.goal with
    | some p => (s.hart == .X || s.b.memDone == 0) && !(s.b.pos s.hart).before p
    | none => false) ||
  (s.interruptDue && (match s.hart with | .A => s.b.retA == s.b.posA | .X => s.b.retX == s.b.posX) &&
    !(s.hart == s.irqHart && s.interruptNow))

/-- R151: a set all of whose members have come to the counts of its pre-emption is released there. -/
def State.stopHere (s : State) : State :=
  match s.rset with
  | none => s
  | some r => if (s.releasing r).isNone && s.atStop r then s.forceRelease r else s

/-- What a hart's turn comes to before execution: a state already reached, or an instruction to execute. -/
inductive Attempt where
  | state (s : State)
  | run (i : Instr) (s : State)

/-- A hart's turn up to execution. -/
def State.attempt (s : State) : Attempt :=
  if !s.runnable then .state s
  else if isTrap (s.waitOf s.hart) then .state s.trapTurn
  else if s.heldBack then .state s.stopHere
  else match s.boundary with
    | some t => .state t
    | none =>
      match s.fetch with
      | .error c => .state (s.raise s.hart c s.pc s.pc)
      | .ok (w, t) =>
        match decode w with
        | .ok i => .run i t.capped
        | .error _ => .state (t.raise t.hart 1 t.pc 0)

/-! Turns that are no instruction. -/

/-- Dirty lines of a die's cache: 128-byte lines in which it differs from the first tier. -/
def Memory.dieLines (d : Nat) : Memory → Nat
  | [] => 0
  | c :: r =>
    (if c.1 / 2 ^ 37 = d ∧ (r.head?.map fun n => n.1 / 128) ≠ some (c.1 / 128) then 1 else 0) + Memory.dieLines d r

/-- R11, R94: a die's cache holds no more than its 128 MiB: one with too many dirty lines writes them back (log entry 61). -/
def dieFit (m : Memory) : Memory :=
  [0, 1, 2, 3].foldl (fun m d => if Config.dieLines < Memory.dieLines d m then m.filter fun c => c.1 / 2 ^ 37 != d else m) m

/-- What comes before every step: it is counted (R46, log entry 6), and the die caches hold what they can. -/
def State.tick (s : State) (rest : List Turn) : State :=
  { s with turns := rest, ticks := s.ticks + 1, dram := dieFit s.dram, egStop := none, lazy := false }

/-- A clean line leaves a scalar cache (R96). -/
def State.dropLine (s : State) (line : Nat) : State :=
  s.mapB fun b => { b with cache := b.cache.filter fun l => !(l.tag == line && l.dirty == 0) }

/-- The die cache writes a 128-byte line back to the first tier (R94). -/
def State.dieWriteback (s : State) (line : Nat) : State :=
  { s with dram := s.dram.filter fun c => c.1 / 128 != line }

/-- A braid that becomes resident takes what is pending at its core (R258). -/
def State.arrive (s : State) (id core : Nat) : State :=
  if s.pend34.contains core then
    { s.mapBraids (fun c => if s.together id c then { c with irq34 := true } else c) with pend34 := s.pend34.filter (· != core) }
  else s

/-- R250: the dispatcher adds a replica under the freed index of a degraded set, on a die the set does not use, from the checkpoint of
the release at which the set stands; it takes what is pending at its core (R258). -/
def State.addReplica (s : State) (t idx core : Nat) : State :=
  match s.sets.find? fun r => r.task == t && r.idx == idx && r.degraded with
  | none => s
  | some r =>
    let ms := s.members r
    match s.leaderOf r, (List.range 3).find? fun i => !(r.members.any (·.2 == i)) with
    | some lead, some rep =>
      let atRelease := ms.all fun b => b.chk.isSome && b.retA == b.posA && b.retX == b.posX && b.memDone == 0 && b.buf.isEmpty
      let free := decide (core < Config.cores) && !(s.outQuads.contains (quadOf core)) &&
        decide ((s.braids.filter fun b => b.live && b.core == core).length < 4) && ms.all (fun b => dieOf b.core != dieOf core)
        && decide (lead.ctx.xc.mgrant.toNat ≤ s.freeSlices (quadOf core))
      if atRelease && free && lead.live then
        let new : Braid := { lead with
          id := s.nextId, core := core, rep := rep, cache := [], monitor := false, savedAt := none, askAge := none
          ctx := { lead.ctx with streams := lead.ctx.streams.map fun x => { x with trigs := [] } } }
        let u : State := { s with
          rest := s.rest ++ [new], nextId := s.nextId + 1
          sets := s.sets.map fun q => if q.task = t ∧ q.idx = idx then
            { q with members := q.members ++ [(s.nextId, rep)], degraded := false, count0 := q.members.length + 1, deg0 := false } else q }
        u.arrive s.nextId core
      else s
    | _, _ => s

/-- The oldest vector store of a braid performs (R122). -/
def State.performOldest (s : State) (id : Nat) : State :=
  match s.find id with
  | none => s
  | some b => match b.out with
    | [] => s
    | i :: r => (s.performAll [i]).mapBraids fun c => if c.id = id then { c with out := r } else c

/-! Firmware and system software (log entries 61, 70 and 71). -/

/-- R160, R265: firmware names the braid of interrupt 35. -/
def State.nameHealth (s : State) (b : Option Nat) : State := { s with healthTo := b }

/-- R11, R17: firmware starts a braid of its own on a boot core that runs none, at firmware level. It has no task. -/
def State.bootBraid (s : State) (core : Nat) (entry : Word) : State :=
  if isBoot core && decide (core < Config.cores + Config.bootCores) && !(s.braids.any fun b => b.live && b.core == core) then
    let b : Braid := { Braid.init with id := s.nextId, live := true, core := core, level := .firmware, ctx := { Ctx.init with pcA := entry, endX := true } }
    { s with rest := s.rest ++ [b], nextId := s.nextId + 1 }
  else s

/-- R265: the prediction and the raw indicators read over the management port. -/
def State.mgmtRead (s : State) : State := { s with mgmtReplies := s.mgmtReplies ++ [⟨s.endOfLife, s.ageing⟩] }

/-- R44: system software in the handler of a trap ends the braid, or its whole task, whose completion word then says why. -/
def State.sysEnd (s : State) (id : Nat) (whole : Bool) : State :=
  match s.find id with
  | none => s
  | some b =>
    if b.live && b.status.getLsbD 5 && decide (b.cause.toNat < 32) then
      if whole then s.failTask b.task b.cause.toNat
      else
        (s.mapTask b.task fun x => if x.failed.isNone && x.st != .done then { x with failed := some b.cause.toNat } else x).endBraids
          fun c => s.together id c
    else s

/-- With no turn given, the focus goes from the A-hart to the X-hart and then to the next braid. -/
def State.rotate (s : State) : State :=
  match s.hart, s.rest with
  | .A, _ => { s with hart := .X }
  | .X, [] => { s with hart := .A }
  | .X, b :: r => { s with hart := .A, b := b, rest := r ++ [s.b] }

/-! A program placed where the next step fetches (log entry 2). -/

/-- The level an instruction needs, for a program placed to run it. -/
def levelFor : Instr → Level
  | .eret => .system
  | .idle => .system
  | .rsig _ => .system
  | .ctxsave _ => .system
  | .ctxsaveLeave _ => .system
  | .ctxload _ => .system
  | .tlbinvAll _ _ => .system
  | .tlbinvAsn _ _ => .system
  | .tlbinvPage _ _ => .system
  | .dcwb _ _ => .firmware
  | .dcinv _ _ => .firmware
  | _ => .user

/-- The majors whose instructions only the X-hart may execute (R286). -/
def xMajor (m : Nat) : Bool := decide (0x1A ≤ m ∧ m ≤ 0x23) || m == 0x2E

def bootRoot : Nat := 0x10000
def bootTable : Nat := 0x20000
def bootCode : Nat := 0x100000

/-- The module with a word placed at address 0x100000 of a resident braid, mapped by one 1 GiB page, and the hart that may execute it
next to move. A braid of its own is made resident if none is in focus. -/
def State.place (s : State) (w : BitVec 32) : State :=
  let m := w.toNat / 2 ^ 26
  let h : Hart := if xMajor m || (m == 0x14 && w.toNat % 64 == 2) then .X else .A
  let level : Level := match decode w with
    | .ok i => levelFor i
    | .error _ => .user
  let mem := ((s.mem.write bootRoot 8 (bootTable + 1)).write bootTable 8 0x5F).write bootCode 4 w.toNat
  let b := if s.b.live then s.b else { s.b with id := s.nextId, live := true }
  let c := closeStreams b.ctx
  let c := { c with ac := { c.ac with pgroot := BitVec.ofNat 64 bootRoot }, landPend := 0, endA := false, endX := false }
  let b := { b with
    ctx := c, level := level, irq32 := false, irq34 := false, irq35 := false, waitA := none, waitX := none, atRel := none, endS := false
    status := if h = .X then b.status &&& 0xFDF else b.status }
  { ({ s with mem := mem, b := b, hart := h, tlb := [], nextId := s.nextId + 1, poison := [] } : State).setPc (BitVec.ofNat 64 bootCode) with
    turns := [.hart b.id h none false] }

end Sys2Proof.Machine
end

