-- ==== Sys2Proof/Machine/Boot.lean ====
section
/-! DEFINITION. Start-up, power, health and units leaving service (spec/21 R261-R265, spec/02 R14-R21, spec/06 R93, R356). -/

namespace Sys2Proof.Machine

/-- The keys of the second tier. -/
def inTier1 (key : Nat) : Bool := decide (2 ^ 44 ≤ key ∧ key < 2 ^ 45)
/-- The keys of the first tier. -/
def inTier0 (key : Nat) : Bool := decide (key < 2 ^ 44)

/-- R15, R16: each of the 160 logical quads has its own working physical quad of its die (42 are built, R11). -/
def remapOk (bad r : List Nat) : Bool :=
  r.length == 160 && (List.range 160).all (fun q => (r.getD q 0) / 42 == q / 40 && !bad.contains (r.getD q 0)) &&
    (List.range 160).all fun q => (r.filter fun p => p == r.getD q 0).length == 1

/-- What a start leaves: everything as at reset but for flash, the failed quads, the named memory, the schedule and the model's own counters;
the cores count from here (R46). -/
def State.cleared (s : State) (keep : Nat → Bool) : State :=
  { State.reset with
    turns := s.turns, mem := s.mem.filter (fun c => keep c.1), poison := s.poison.filter (fun w => keep (8 * w))
    failedCold := s.failedCold, endOfLife := s.endOfLife, ageing := s.ageing, remap := s.remap, badQuads := s.badQuads
    mustCold := s.mustCold, ticks := s.ticks, startTick := s.ticks, free := s.free, nextId := s.nextId, age := s.age }

/-- Step 7 of R261, or management-only service if a die lacks working quads (R16). Without a port no Stavrek link has trained, and there is
no member number (R292). -/
def State.enterService (s : State) (r : StartReport) : State :=
  if remapOk s.badQuads r.remap then
    { s with
      modState := 1, failedCold := 0, mustCold := false, ports := r.ports, remap := r.remap
      lmember := match r.member with
        | some m => if r.ports = 0 then BitVec.allOnes 64 else m.setWidth 64
        | none => BitVec.allOnes 64 }
  else { s with modState := 2 }

/-- COLD_START (R261, R263): nothing survives but flash; the second tier is scrubbed. A third failure in a row leaves the module in
management-only service. -/
def execColdStart (r : StartReport) (s : State) : Host.Outcome State Fault Refusal :=
  let t := s.cleared fun _ => false
  if r.ok then .next (t.enterService r)
  else .next { t with failedCold := s.failedCold + 1, modState := if 3 ≤ s.failedCold + 1 then 2 else 0, mustCold := true }

/-- WARM_START (R261, R263): the first tier is not tested, and the second survives if the expanders stayed powered. A failure is
followed by a cold start, which nothing but a cold start then replaces. -/
def execWarmStart (r : StartReport) (s : State) : Host.Outcome State Fault Refusal :=
  if s.mustCold then .next s
  else
    let t := s.cleared fun k => inTier0 k || (inTier1 k && r.expanders)
    if r.ok then .next (t.enterService r) else .next { t with modState := 0, mustCold := true }

/-- POWER_LOSS (R261): flash is left, and the expanders' bytes, which a warm start finds if they stayed powered. -/
def execPowerLoss (s : State) : Host.Outcome State Fault Refusal := .next { s.cleared inTier1 with modState := 0 }

/-- The member of a triple set on a quad leaves it (R16, R250); a task without such a set fails with cause 0 (R16). The braid ends. -/
def State.loseBraid (s : State) (b : Braid) : State :=
  match s.sets.find? fun r => r.has b && decide (3 ≤ r.members.length) with
  | some r =>
    let s := s.leaveSet r b.id
    (s.endBraids fun c => c.id == b.id).gangLeft b.task
  | none => (s.failTask b.task 0).endBraids fun c => c.id == b.id

/-- QUAD_FAILURE (R16): the logical quad leaves service, and its physical quad for good. -/
def execQuadFailure (q : Nat) (s : State) : Host.Outcome State Fault Refusal :=
  if s.outQuads.contains q then .next s
  else
    let bad := s.remap.getD q 0
    let hit := s.braids.filter fun b => (b.live || b.left) && quadOf b.core == q
    .next ((hit.foldl State.loseBraid { s with outQuads := s.outQuads ++ [q], badQuads := s.badQuads ++ [bad] }).health)

/-- AGEING_PREDICTION (R265): the indicators sampled, the predicted end of life in months, and a health event below 6. -/
def execAgeingPrediction (r : AgeingReport) (s : State) : Host.Outcome State Fault Refusal :=
  let t := { s with endOfLife := r.months, ageing := r.raw }
  .next (if r.months.toNat < 6 then t.health else t)

def setBudget (l : List (Nat × Nat)) (n v : Nat) : List (Nat × Nat) := (n, v) :: l.filter fun p => p.1 != n

/-- POWER_TRIM (R12, R21, R50): a new lane budget or slice budget, which the next grant obeys; grants already given stand. -/
def execPowerTrim (r : TrimUnit) (n : Nat) (s : State) : Host.Outcome State Fault Refusal :=
  match r with
  | .core c => .next { s with lanes := setBudget s.lanes c n }
  | .quad q => .next { s with slices := setBudget s.slices q n }

/-- STAVREK_PORT_FAILURE (R18): the module goes on with its other planes. -/
def execStavrekPortFailure (p : BitVec 4) (s : State) : Host.Outcome State Fault Refusal :=
  .next { s with ports := s.ports &&& ~~~((1 : BitVec 16) <<< p.toNat) }

/-- R253: an error detected at the read of a register array, release buffer, checkpoint or forwarded value: the hart takes cause 7, its
instruction not performed, or a health event says so. In a set the hart that alone comes to a trap is found out by the comparison (log entry
95). -/
def State.arrayError (s : State) (b : Nat) (h : Hart) (asTrap : Bool) (eei : Word) : State :=
  s.atBraid b fun t =>
    if asTrap && (t.onHart h).runnable then t.raise h 7 (t.pcOf h) eei else t.health

/-- UNCORRECTABLE_ERROR (R253, R356): the 8-byte word of memory is poisoned. -/
def execUncorrectableError (u : ErrorUnit) (s : State) : Host.Outcome State Fault Refusal :=
  .next (match u with
    | .memory w => if s.poison.contains w then s else { s with poison := w :: s.poison }
    | .array b h asTrap eei => s.arrayError b h asTrap eei)

end Sys2Proof.Machine
end

