-- ==== Sys2Proof/Machine/Engine.lean ====
section
/-! DEFINITION. Job cards and the engines (spec/18 R231-R240, spec/20 R254, spec/24 R300), the dependence order (spec/03 R30, R41)
and completion words (R44, R355). -/

namespace Sys2Proof.Machine

/-! Bytes of a card. -/

def byteAt (c : List Byte) (i : Nat) : Nat := (c.getD i 0).toNat
/-- `n` bytes from offset `i`, little-endian. -/
def fieldAt (c : List Byte) (i n : Nat) : Nat := (List.range n).foldr (fun k v => byteAt c (i + k) + 256 * v) 0
/-- The bytes from `lo` to `hi` − 1 are zero. -/
def zeroBytes (c : List Byte) (lo hi : Nat) : Bool := (List.range' lo (hi - lo)).all fun i => byteAt c i == 0
def toBytes (n v : Nat) : List Byte := (List.range n).map fun i => BitVec.ofNat 8 (v / 2 ^ (8 * i))

/-- `n` scalar loads of `z` bytes one after another, added to the bytes read before them. -/
def loadBytes (z : Nat) (k : State → List Byte → Res) : Nat → Word → List Byte → State → Res
  | 0, _, l, s => k s l
  | n + 1, va, l, s => s.loadScalar va z fun t v => loadBytes z k n (va + BitVec.ofNat 64 z) (l ++ toBytes z v) t

/-! State headers (R233). -/

/-- A state header. -/
structure Header where
  n : Nat
  ty : Nat
  dbits : Nat
  mbits : Nat
  map : List Nat
  stride : Nat
  swaps : Nat
  seq : Nat

def Header.of (c : List Byte) : Header :=
  ⟨byteAt c 0, byteAt c 1, byteAt c 2, byteAt c 3, (List.range (byteAt c 0)).map fun q => byteAt c (8 + q),
   fieldAt c 64 8, fieldAt c 72 8, fieldAt c 80 8⟩

/-- L, the local bits. -/
def Header.low (h : Header) : Nat := h.n - h.dbits - h.mbits
/-- Bytes of an amplitude. -/
def Header.esz (h : Header) : Nat := if h.ty = 16 then 8 else 16
/-- The limits of R233, with L at least `minL`. -/
def Header.ok (c : List Byte) (minL : Nat) : Bool :=
  let h := Header.of c
  decide (1 ≤ h.n ∧ h.n ≤ 49 ∧ (h.ty = 16 ∨ h.ty = 17) ∧ h.dbits ≤ 2 ∧ h.mbits ≤ 8 ∧ minL + h.dbits + h.mbits ≤ h.n ∧
    h.stride % 65536 = 0 ∧ 2 ^ h.low * h.esz ≤ h.stride) &&
  zeroBytes c 4 8 && zeroBytes c (8 + h.n) 64 && zeroBytes c 88 128 && (List.range h.n).all fun q => h.map.contains q

/-- R236: a state that spans members needs a group with that many. -/
def State.groupOk (s : State) (h : Header) : Bool :=
  h.mbits == 0 || (s.b.ctx.ac.cgrp != 0 && match s.b.ctx.grp with
    | some g => decide (2 ^ h.mbits ≤ g.members.length)
    | none => false)

/-! Cards (R231, R232). -/

def cardOp (c : List Byte) : Nat := byteAt c 0
def cardK (c : List Byte) : Nat := byteAt c 2
def cardNc (c : List Byte) : Nat := byteAt c 3
def cardDst (c : List Byte) : Nat := fieldAt c 8 8
def cardSrc (c : List Byte) : Nat := fieldAt c 16 8
def cardLen (c : List Byte) : Nat := fieldAt c 24 8
def cardBase (c : List Byte) : Nat := fieldAt c 8 8
def cardPtr (c : List Byte) : Nat := fieldAt c 16 8
def cardWord (c : List Byte) : Nat := fieldAt c 40 8
def cardOwned (c : List Byte) : Bool := byteAt c 1 % 2 == 1
def cardTargets (c : List Byte) : List Nat := (List.range (cardK c)).map fun i => byteAt c (24 + i)
def cardControls (c : List Byte) : List Nat := (List.range (cardNc c)).map fun i => byteAt c (28 + i)
def cardPol (c : List Byte) : Nat := byteAt c 32

/-- No number stands twice. -/
def distinct : List Nat → Bool
  | [] => true
  | x :: r => !r.contains x && distinct r

/-- The rules that a card meets by itself: a breach is cause 1 (R236). -/
def cardOk (cls : Nat) (c : List Byte) : Bool :=
  decide (byteAt c 1 ≤ 1) && zeroBytes c 48 64 && decide (cardWord c % 8 = 0) &&
  (if cls = 0 then
    decide (cardOp c ≤ 1 ∧ cardDst c % 8 = 0 ∧ cardSrc c % 8 = 0 ∧ cardLen c % 8 = 0 ∧ 8 ≤ cardLen c ∧ cardLen c ≤ 2 ^ 40) &&
    zeroBytes c 2 8 && (if cardOp c = 0 then fieldAt c 32 8 == 0 else cardSrc c == 0)
  else
    (match cardOp c with
     | 0 => decide (1 ≤ cardK c ∧ cardK c ≤ 3 ∧ cardNc c ≤ 4)
     | 1 => decide (cardK c = 2 ∧ cardNc c = 0 ∧ cardPtr c = 0)
     | 2 => decide (cardK c = 0 ∧ cardNc c = 0 ∧ cardPtr c % 8 = 0)
     | _ => false) &&
    decide (cardBase c % 4096 = 0 ∧ cardPol c < 2 ^ cardNc c) && zeroBytes c 4 8 && zeroBytes c (24 + cardK c) 28 &&
    zeroBytes c (28 + cardNc c) 32 && zeroBytes c 33 40 && distinct (cardTargets c ++ cardControls c))

/-- The address fields, in the order R236 lists them. -/
def cardAddrs (cls : Nat) (c : List Byte) : List Nat :=
  if cls = 0 then [cardDst c, cardSrc c, cardWord c] else [cardBase c, cardPtr c, cardWord c]

/-- Targets and controls lie below n. -/
def qubitsOk (c : List Byte) (h : Header) : Bool := (cardTargets c ++ cardControls c).all fun q => decide (q < h.n)

/-- Reads and checks a card at issue (R236). `k` has the card and the header's bytes. -/
def State.readCard (s : State) (cls : Nat) (va : Word) (k : State → List Byte → List Byte → Res) : Res :=
  loadBytes 8 (fun s c =>
    if !cardOk cls c then .trap s 1 0
    else match (cardAddrs cls c).find? fun a => decide (2 ^ 57 ≤ a) with
      | some a => .trap s 6 (BitVec.ofNat 64 a)
      | none =>
        if cls = 0 then k s c []
        else loadBytes 8 (fun s h =>
          if !Header.ok h 0 || !qubitsOk c (.of h) || !s.groupOk (.of h) then .trap s 1 0 else k s c h) 16 (BitVec.ofNat 64 (cardBase c)) [] s)
    8 va [] s

/-- R238: what a job reads (mode 1) and writes (mode 2). -/
def cardRegions (cls : Nat) (c hd : List Byte) : List Region :=
  if cls = 0 then
    ⟨cardDst c, cardLen c, 2⟩ :: (if cardOp c = 0 then [⟨cardSrc c, cardLen c, 1⟩] else [])
  else
    let h := Header.of hd
    ⟨cardBase c, 4096 + 2 ^ h.dbits * h.stride, 2⟩ ::
      (if cardOp c = 0 then [⟨cardPtr c, 4 ^ cardK c * h.esz, 1⟩] else if cardOp c = 2 then [⟨cardPtr c, 8, 2⟩] else [])

/-! Submission. -/

/-- A job in its place, at the end of the order (R30, R238). -/
def State.enqueue (s : State) (num cls : Nat) (c : List Byte) (image : Option (List Byte)) (hdr : Word) (st : JobState)
    (src : Option (BitVec 3)) (rs : List Region) (mbits : Nat) : State :=
  let j : Job := ⟨s.nextId, s.b.id, s.b.task, num, cls, c, image, hdr, st, 0, s.b.ctx.ac.pgroot, s.b.ctx.ac.asn, s.b.ctx.grp, src, rs,
    s.age, mbits⟩
  { s with jobs := s.jobs ++ [j], nextId := s.nextId + 1, age := s.age + 1 }

def Job.unfinished (j : Job) : Bool := j.st == .registered || j.st == .waiting || j.st == .running

/-- R236: the braid has 64 unfinished jobs that it submitted. -/
def State.jobsFull (s : State) : Bool :=
  decide (64 ≤ (s.jobs.filter fun j => j.braid == s.b.id && j.num != 0 && j.unfinished).length)

/-- R236: a submission: a release point, one wait for a place, and the job's number in `d`; the leader submits once (R247). -/
def State.submit (s : State) (i : Instr) (inputs : List Word) (d : Reg) (job : State → Nat → State) : Res :=
  s.releasePoint scopeDevice (opRecord i inputs) fun s =>
    s.onceWhen (fun s => if s.jobsFull then some .jobs else none) (fun s => (job s (s.b.jobsIssued + 1), s.b.jobsIssued + 1)) fun s n =>
      .done ((s.mapB fun b => { b with jobsIssued := n }).setA d (BitVec.ofNat 64 n)).retire

def State.engineIssue (s : State) (k : State → Res) : Host.Outcome State Fault Refusal :=
  (s.issue .onlyA .user false false fun s => (k s).replay s).settle

def execEjob (d a : Reg) (c : Bool) (s : State) : Host.Outcome State Fault Refusal :=
  s.engineIssue fun s =>
    let aa := s.aReg a
    let cls := if c then 1 else 0
    if aa.toNat % 64 ≠ 0 then .trap s 3 aa
    else s.readCard cls aa fun s card hd =>
      s.submit (.ejob d a c) [aa] d fun s n =>
        s.enqueue n cls card none (BitVec.ofNat 64 (cardBase card)) .waiting none (cardRegions cls card hd) (Header.of hd).mbits

def execAemap (d a b : Reg) (s : State) : Host.Outcome State Fault Refusal :=
  s.engineIssue fun s =>
    let aa := s.aReg a
    let ab := s.aReg b
    if aa.toNat % 4096 ≠ 0 then .trap s 1 0
    else if ab.toNat % 64 ≠ 0 then .trap s 3 ab
    else loadBytes 8 (fun s im =>
      if !Header.ok im 3 || !s.groupOk (.of im) then .trap s 1 0
      else s.submit (.aemap d a b) [aa, ab] d fun s n =>
        s.enqueue n 1 [] (some im) aa .waiting none [⟨aa.toNat, 128, 2⟩] (Header.of im).mbits) 16 ab [] s

/-- R237: state and cause. -/
def State.jobStatus (s : State) (n : Nat) : Nat :=
  if n + 63 < s.b.jobsIssued then 0
  else match s.jobs.find? fun j => j.braid == s.b.id && j.num == n with
    | none => 0
    | some j => match j.st with
      | .registered => 1
      | .waiting => 1
      | .running => 2
      | .completed => 3
      | .failed => j.cause * 256 + 4
      | .discarded => 5

/-- R300: after `estat` has reported a job's end, a load of its completion word finds it: the hart's cache no longer holds the line. -/
def State.seeEnd (s : State) (n : Nat) : State :=
  match s.jobs.find? fun j => s.together j.braid s.b && j.num == n with
  | none => s
  | some j =>
    if cardWord j.card = 0 ∨ 2 ^ 57 ≤ cardWord j.card then s
    else match s.check ⟨none, j.root.toNat, j.asn, true⟩ 0 (cardWord j.card) 8 .load false with
      | .error _ => s
      | .ok (key, t) => t.cacheEvict key

def execEstat (d a : Reg) (s : State) : Host.Outcome State Fault Refusal :=
  (s.issue .onlyA .user false false fun s =>
    let n := (s.aReg a).toNat
    if n = 0 ∨ s.b.jobsIssued < n then .trap s 1 0
    else s.forward (fun s => s.jobStatus n) fun s v =>
      let s := if v % 256 = 3 ∨ v % 256 = 4 then s.seeEnd n else s
      .done (s.setA d (BitVec.ofNat 64 v)).retire).settle

/-! The dependence order (R30, R41). -/

/-- Two regions make an edge: bytes in common, and a pair of modes that R30 lists. -/
def regionEdge (early late : Region) : Bool :=
  decide (early.base < late.base + late.len ∧ late.base < early.base + early.len) &&
  (match early.mode, late.mode with
   | 2, 1 => true
   | 3, 1 => true
   | 1, 2 => true
   | 1, 3 => true
   | 2, 2 => true
   | 2, 3 => true
   | 3, 2 => true
   | _, _ => false)

def edges (early late : List Region) : Bool := early.any fun r => late.any fun q => regionEdge r q

/-- R238, R41: a job of task `t` has no edge against task `u`. -/
def jobKin (t u : Task) : Bool :=
  t.id == u.id || (t.inherit_ && (t.parent == some u.id || (u.inherit_ && u.parent == t.parent)))
/-- R41: two tasks have no edge. -/
def kin (t u : Task) : Bool := jobKin t u || (u.inherit_ && u.parent == some t.id)

def sharesDomain (a b : BitVec 64) : Bool := a &&& b != 0

/-- The card at the head of a queue, which the dispatcher reads now: it stands behind no task that is not dispatched (R148). -/
def State.nextCard (s : State) (q : Nat) : Option CardRef :=
  if s.tasks.any fun t => t.q == q && t.st == .waiting then none else s.cards.find? fun c => c.q == q

/-- R30, R148: an earlier card stands at the moment of its reading: nothing after it starts before its edges are known. -/
def State.unread (s : State) (age : Nat) : Bool := s.cards.any fun c => decide (c.age < age) && s.nextCard c.q == some c

/-- The task's braids have been dispatched, and it is not done. -/
def Task.begun (t : Task) : Bool := t.st == .running || t.st == .preempting || t.st == .preempted

/-- R30: a task waits for an earlier unfinished task or job, and for a later one that started before the card of this one was read (log entry
85). -/
def State.taskBlocked (s : State) (t : Task) : Bool :=
  s.unread t.age ||
  (s.tasks.any fun u => (if u.age < t.age then u.st != .done else u.begun) && !kin t u &&
    sharesDomain u.domain t.domain && edges u.regions t.regions) ||
  s.jobs.any fun j => (if j.age < t.age then j.unfinished else j.st == .running) && (match s.task? j.task with
    | some u => !jobKin u t && sharesDomain u.domain t.domain && edges j.regions t.regions
    | none => false)

/-- R30, R238: a job waits for an earlier unfinished task or job. -/
def State.jobBlocked (s : State) (j : Job) : Bool :=
  match s.task? j.task with
  | none => false
  | some t =>
    s.unread j.age ||
    (s.tasks.any fun u => decide (u.age < j.age) && u.st != .done && !jobKin t u && sharesDomain u.domain t.domain && edges u.regions j.regions) ||
    s.jobs.any fun i => decide (i.age < j.age) && i.unfinished && (match s.task? i.task with
      | some u => sharesDomain u.domain t.domain && edges i.regions j.regions
      | none => false)

/-! Completion words. -/

/-- R355: a completion word in the context of a task, with no footprint check; one that cannot be written, or whose address is not a
multiple of 8 (log entry 64), is lost with a health event. -/
def State.completionWord (s : State) (root : Word) (asn : BitVec 16) (va v : Nat) : State :=
  if va = 0 then s
  else if 2 ^ 57 ≤ va ∨ va % 8 ≠ 0 then s.health
  else match s.check ⟨none, root.toNat, asn, true⟩ 0 va 8 .store false with
    | .error _ => s.health
    | .ok (key, t) => t.writeMem key 8 v

/-! What a job does (R239). An engine's work goes on from access to access; a fault leaves what was done. -/

abbrev Work (α : Type) := Except (State × Nat) (State × α)

def Job.xlate (j : Job) : Xlate := ⟨none, j.root.toNat, j.asn, true⟩

def State.jobKey (s : State) (j : Job) (va n : Nat) (k : Kind) : Work Nat :=
  if 2 ^ 57 < va + n then .error (s, 6)
  else match s.access j.xlate j.task va n k false with
    | .error c => .error (s, c)
    | .ok r => .ok (r.2, r.1)

/-- An access of at most 64 KiB in the parts that lie in one 64 KiB page each: addresses and lengths. -/
def pageParts (va n : Nat) : List (Nat × Nat) :=
  let k := 0x10000 - va % 0x10000
  if n ≤ k then [(va, n)] else [(va, k), (va + k, n - k)]

/-- The keys of the parts of an access, each translated and checked. -/
def State.jobKeys (j : Job) (k : Kind) : List (Nat × Nat) → State → Work (List (Nat × Nat))
  | [], s => .ok (s, [])
  | p :: r, s => match s.jobKey j p.1 p.2 k with
    | .error e => .error e
    | .ok (t, key) => match State.jobKeys j k r t with
      | .error e => .error e
      | .ok (u, l) => .ok (u, (key, p.2) :: l)

def State.jobRead (s : State) (j : Job) (va n : Nat) : Work Nat :=
  match State.jobKeys j .load (pageParts va n) s with
  | .error e => .error e
  | .ok (t, l) => .ok (t, l.foldr (fun p v => t.readMem p.1 p.2 + 2 ^ (8 * p.2) * v) 0)
def State.jobWrite (s : State) (j : Job) (va n v : Nat) : Except (State × Nat) State :=
  match State.jobKeys j .store (pageParts va n) s with
  | .error e => .error e
  | .ok (t, l) => .ok (l.foldl (fun (r : State × Nat) p => (r.1.writeMem p.1 p.2 (r.2 % 2 ^ (8 * p.2)), r.2 / 2 ^ (8 * p.2))) (t, v)).1

/-- Work over a list in order. -/
def workAll {α : Type} (f : State → α → Except (State × Nat) State) : List α → State → Except (State × Nat) State
  | [], s => .ok s
  | x :: r, s => match f s x with
    | .error e => .error e
    | .ok t => workAll f r t

/-- Values collected over a list in order. -/
def workMap {α β : Type} (f : State → α → Work β) : List α → State → Work (List β)
  | [], s => .ok (s, [])
  | x :: r, s => match f s x with
    | .error e => .error e
    | .ok (t, y) => match workMap f r t with
      | .error e => .error e
      | .ok (u, ys) => .ok (u, y :: ys)

/-- A class-0 job: a copy or a fill, 8 bytes at a time. -/
def State.bulkJob (s : State) (j : Job) : Except (State × Nat) State :=
  let c := j.card
  workAll (fun s i =>
    if cardOp c = 1 then s.jobWrite j (cardDst c + 8 * i) 8 (fieldAt c 32 8)
    else match s.jobRead j (cardSrc c + 8 * i) 8 with
      | .error e => .error e
      | .ok (t, v) => t.jobWrite j (cardDst c + 8 * i) 8 v) (List.range (cardLen c / 8)) s

/-- The rank of this module in the job's group. -/
def State.jobRank (s : State) (j : Job) : Nat := match j.grp with | some g => g.rankOf s.lmember.toNat | none => 0

/-- This module holds the amplitude at a physical index. -/
def State.holds (s : State) (j : Job) (h : Header) (p : Nat) : Bool :=
  h.mbits == 0 || decide (p / 2 ^ (h.low + h.dbits) = s.jobRank j)

/-- The key of the amplitude at a physical index. Its page must be backed by its shard's die (R233). -/
def State.ampKey (s : State) (j : Job) (h : Header) (p : Nat) (k : Kind) : Work Nat :=
  let d := p / 2 ^ h.low % 2 ^ h.dbits
  match s.jobKey j (j.hdrAddr.toNat + 4096 + d * h.stride + p % 2 ^ h.low * h.esz) h.esz k with
  | .error e => .error e
  | .ok (t, key) => if dieOfKey key = d then .ok (t, key) else .error (t, 6)

def State.amp (s : State) (j : Job) (h : Header) (p : Nat) : Work Nat :=
  match s.ampKey j h p .load with
  | .error e => .error e
  | .ok (t, key) => .ok (t, t.readMem key h.esz)
def State.setAmp (s : State) (j : Job) (h : Header) (p v : Nat) : Except (State × Nat) State :=
  match s.ampKey j h p .store with
  | .error e => .error e
  | .ok (t, key) => .ok (t.writeMem key h.esz v)

/-- An amplitude that another member holds: free (log entry 20). -/
def State.remoteAmp (s : State) (h : Header) : State × Nat :=
  let r := s.remoteRead h.esz
  (r.1, r.2.1)

def flipBit (x i : Nat) : Nat := x ^^^ 2 ^ i

/-- The exchange of the amplitudes whose indices differ in bits `a` and `p`, `a` 1 and `p` 0 in one and the reverse in the other. -/
def State.swapAmps (s : State) (j : Job) (h : Header) (a p : Nat) : Except (State × Nat) State :=
  if a < h.low + h.dbits then
    workAll (fun s x =>
      if s.holds j h x && x.testBit a && !x.testBit p then
        match s.amp j h x with
        | .error e => .error e
        | .ok (s, u) => match s.amp j h (flipBit (flipBit x a) p) with
          | .error e => .error e
          | .ok (s, v) => match s.setAmp j h x v with
            | .error e => .error e
            | .ok s => s.setAmp j h (flipBit (flipBit x a) p) u
      else .ok s) (List.range (2 ^ h.n)) s
  else
    let peer := match j.grp with | some g => g.members.getD (flipBit (s.jobRank j) (a - h.low - h.dbits)) 0 | none => 0
    if s.isLost peer then .error (s, 6)
    else workAll (fun s x =>
      if s.holds j h x && x.testBit a != x.testBit p then
        match s.amp j h x with
        | .error e => .error e
        | .ok (s, _) => (s.remoteAmp h).1.setAmp j h x (s.remoteAmp h).2
      else .ok s) (List.range (2 ^ h.n)) s

/-- The map and the count of swaps written to the header. -/
def State.writeMap (s : State) (j : Job) (h : Header) : Except (State × Nat) State :=
  match workAll (fun s q => s.jobWrite j (j.hdrAddr.toNat + 8 + q) 1 (h.map.getD q 0)) (List.range h.n) s with
  | .error e => .error e
  | .ok s => s.jobWrite j (j.hdrAddr.toNat + 72) 8 h.swaps

/-- Brings a qubit to a local bit if it is not on one: the highest that no qubit of the card occupies. -/
def State.localise (s : State) (j : Job) (qs : List Nat) (h : Header) (q : Nat) : Work Header :=
  let a := h.map.getD q 0
  if a < h.low then .ok (s, h)
  else
    let busy := qs.map fun x => h.map.getD x 0
    match ((List.range h.low).reverse.find? fun p => !busy.contains p) with
    | none => .error (s, 6)
    | some p => match s.swapAmps j h a p with
      | .error e => .error e
      | .ok s =>
        let h := { h with map := (h.map.map fun b => if b = p then a else if b = a then p else b), swaps := (h.swaps + 1) % 2 ^ 64 }
        match s.writeMap j h with
        | .error e => .error e
        | .ok s => .ok (s, h)

def State.localiseAll (j : Job) (qs : List Nat) : List Nat → State → Header → Work Header
  | [], s, h => .ok (s, h)
  | q :: r, s, h => match s.localise j qs h q with
    | .error e => .error e
    | .ok (s, h) => State.localiseAll j qs r s h

/-! Complex arithmetic of the engines: no flag, no dither (R239). -/

def Header.fmt (h : Header) : Fmt := if h.ty = 16 then .f32 else .f64
def Header.re (h : Header) (c : Nat) : FVal := h.fmt.decode (c % 2 ^ (4 * h.esz))
def Header.im (h : Header) (c : Nat) : FVal := h.fmt.decode (c / 2 ^ (4 * h.esz))
def Header.join (h : Header) (re im : FVal) : Nat := (h.fmt.round .rne re).1 + (h.fmt.round .rne im).1 * 2 ^ (4 * h.esz)

/-- The exact sum of terms. -/
def sumExact : List FVal → FVal
  | [] => .zero
  | x :: r => r.foldl (FVal.add false) x

/-- One output of a group from a row of the matrix. -/
def Header.output (h : Header) (row ins : List Nat) : Nat :=
  if ins.any fun c => (h.re c).isNan || (h.im c).isNan then h.join .nan .nan
  else
    let two (f g : Nat → Nat → FVal) : FVal := sumExact ((List.zipWith (fun u x => [f u x, g u x]) row ins).flatten)
    h.join (two (fun u x => (h.re u).mul (h.re x)) fun u x => ((h.im u).mul (h.im x)).negate)
      (two (fun u x => (h.re u).mul (h.im x)) fun u x => (h.im u).mul (h.re x))

/-- The index of member `c` of a group: the targets' bits spell `c`, t0 lowest. -/
def groupIndex (bits : List Nat) (x c : Nat) : Nat :=
  (bits.zipIdx).foldl (fun v b => if c.testBit b.2 then v + 2 ^ b.1 else v) x

/-- The gate on local bits. -/
def State.applyGate (s : State) (j : Job) (h : Header) : Except (State × Nat) State :=
  let c := j.card
  let bits := (cardTargets c).map fun q => h.map.getD q 0
  let ctl := (cardControls c).map fun q => h.map.getD q 0
  let n := 2 ^ cardK c
  match workMap (fun s i => s.jobRead j (cardPtr c + i * h.esz) h.esz) (List.range (n * n)) s with
  | .error e => .error e
  | .ok (s, m) =>
    workAll (fun s x =>
      if s.holds j h x && bits.all (fun b => !x.testBit b) && ctl.zipIdx.all (fun b => x.testBit b.1 == (cardPol c).testBit b.2) then
        match workMap (fun s i => s.amp j h (groupIndex bits x i)) (List.range n) s with
        | .error e => .error e
        | .ok (s, ins) =>
          workAll (fun s r => s.setAmp j h (groupIndex bits x r) (h.output ((m.drop (n * r)).take n) ins)) (List.range n) s
      else .ok s) (List.range (2 ^ h.n)) s

/-- The norm: one rounding an amplitude, in ascending physical index. -/
def State.normJob (s : State) (j : Job) (h : Header) : Except (State × Nat) State :=
  let sum (s : State) (l : List Nat) : Work Nat :=
    l.foldl (fun r p => match r with
      | .error e => .error e
      | .ok (s, t) =>
        let next (c : Nat) : Nat :=
          (Fmt.f64.round .rne (sumExact [Fmt.f64.decode t, (h.re c).mul (h.re c), (h.im c).mul (h.im c)])).1
        if s.holds j h p then
          match s.amp j h p with
          | .error e => .error e
          | .ok (s, c) => .ok (s, next c)
        else .ok ((s.remoteAmp h).1, next (s.remoteAmp h).2)) (.ok (s, 0))
  match sum s (List.range (2 ^ h.n)) with
  | .error e => .error e
  | .ok (s, t) => s.jobWrite j (cardPtr j.card) 8 t

/-- The header read again when a job starts; one that no longer serves fails the job with cause 6. -/
def State.startHeader (s : State) (j : Job) : Work Header :=
  match workMap (fun s i => s.jobRead j (j.hdrAddr.toNat + 8 * i) 8) (List.range 16) s with
  | .error e => .error e
  | .ok (s, ws) =>
    let c := ws.flatMap (toBytes 8)
    let enough := decide (2 ^ (Header.of c).mbits ≤ (match j.grp with | some g => g.members.length | none => 1))
    if Header.ok c 0 && qubitsOk j.card (.of c) && enough then .ok (s, .of c) else .error (s, 6)

/-- R234: the image written over the header. -/
def State.mapJob (s : State) (j : Job) (im : List Byte) : Except (State × Nat) State :=
  workAll (fun s i => s.jobWrite j (j.hdrAddr.toNat + 8 * i) 8 (if i = 9 ∨ i = 10 then 0 else fieldAt im (8 * i) 8)) (List.range 16) s

/-- All of a job but the advance of seq and the completion word. -/
def State.work (s : State) (j : Job) : Except (State × Nat) State :=
  match j.image with
  | some im => s.mapJob j im
  | none =>
    if j.cls = 0 then s.bulkJob j
    else match s.startHeader j with
      | .error e => .error e
      | .ok (s, h) =>
        let qs := cardTargets j.card ++ cardControls j.card
        match cardOp j.card with
        | 1 =>
          let a := h.map.getD (qs.getD 0 0) 0
          let b := h.map.getD (qs.getD 1 0) 0
          s.writeMap j { h with map := h.map.map fun x => if x = a then b else if x = b then a else x }
        | 2 => s.normJob j h
        | _ => match State.localiseAll j qs qs s h with
          | .error e => .error e
          | .ok (s, h) => s.applyGate j h

/-! Starts and ends (R238). -/

def State.mapJobs (s : State) (id : Nat) (f : Job → Job) : State := { s with jobs := s.jobs.map fun j => if j.id = id then f j else j }
def State.job? (s : State) (id : Nat) : Option Job := s.jobs.find? fun j => j.id == id

/-- An engine of the job's class is free: there are eight amplitude engines (R11); the spec gives no number of copy engines. -/
def State.engineFree (s : State) (cls : Nat) : Bool :=
  cls == 0 || decide ((s.jobs.filter fun j => j.st == .running && j.cls == cls).length < 8)

/-- A job that could start now. -/
def State.startable (s : State) (j : Job) : Bool := j.st == .waiting && !s.jobBlocked j && s.engineFree j.cls

/-- The member bits of the state a job works on, as its header says when the job starts (R239, R240). -/
def State.startMbits (s : State) (j : Job) : Nat :=
  if j.cls = 0 ∨ j.image.isSome then j.mbits
  else match s.startHeader j with
    | .ok r => r.2.mbits
    | .error _ => j.mbits

/-- ENGINE_JOB_START (R238, R239): the first of the jobs that can start does its work; what stops it stays as its cause. -/
def execEngineJobStart (id : Nat) (s : State) : Host.Outcome State Fault Refusal :=
  match s.job? id with
  | none => .next s
  | some j =>
    if s.startable j && !(s.jobs.any fun i => decide (i.age < j.age) && s.startable i) then
      let m := s.startMbits j
      match s.work j with
      | .ok t => .next (t.mapJobs id fun j => { j with st := .running, mbits := m })
      | .error (t, c) => .next (t.mapJobs id fun j => { j with st := .running, mbits := m, cause := c })
    else .next s

/-- R238, R44: the completion word of a job, and then its state (R300). -/
def State.endJob (s : State) (j : Job) (cause : Nat) : State :=
  let root := match s.task? j.task with | some t => t.root | none => j.root
  let asn := match s.task? j.task with | some t => t.asn | none => j.asn
  (s.completionWord root asn (cardWord j.card) (if cause = 0 then 1 else cause * 256 + 3)).mapJobs j.id fun j =>
    { j with st := if cause = 0 then .completed else .failed, cause := cause }

/-- ENGINE_JOB_COMPLETE (R238): seq advances, then the completion word. -/
def execEngineJobComplete (id : Nat) (s : State) : Host.Outcome State Fault Refusal :=
  match s.job? id with
  | none => .next s
  | some j =>
    if j.st = .running ∧ j.cause = 0 then
      if j.cls = 0 then .next (s.endJob j 0)
      else match s.jobRead j (j.hdrAddr.toNat + 80) 8 with
        | .error (t, c) => .next (t.endJob j c)
        | .ok (t, v) => match t.jobWrite j (j.hdrAddr.toNat + 80) 8 ((v + 1) % 2 ^ 64) with
          | .error (t, c) => .next (t.endJob j c)
          | .ok t => .next (t.endJob j 0)
    else .next s

/-- ENGINE_JOB_FAULT (R239): the job fails with the cause that stopped it; seq is not advanced. -/
def execEngineJobFault (id : Nat) (s : State) : Host.Outcome State Fault Refusal :=
  match s.job? id with
  | none => .next s
  | some j => if j.st = .running ∧ j.cause ≠ 0 then .next (s.endJob j j.cause) else .next s

end Sys2Proof.Machine
end

