-- ==== Sys2Proof/Machine/Streams.lean ====
section
/-! DEFINITION. Streams and triggers (spec/06 R104-R110, R115, spec/25 R322, R323): the instructions of major 0x29, and how an element
lands or faults. -/

namespace Sys2Proof.Machine

/-- Issue of a stream instruction: the A-hart only, also in a landing handler (R113). -/
def State.streamIssue (s : State) (k : State → Res) : Host.Outcome State Fault Refusal :=
  (s.issue .onlyA .user true false fun s => (k s).replay s).settle

/-- Stream numbers are five-bit fields below 8. -/
def streamNo (r : Reg) : BitVec 3 := r.setWidth 3

/-- R109: the triggers whose threshold the counter has reached fire. The braid that decides for its set holds them. -/
def State.fireTriggers (s : State) (n : BitVec 3) : State :=
  if !s.leads then s else
  let t := s.stream n
  let due := t.trigs.filter fun g => decide (g.thr ≤ t.ctr)
  let s := s.setStream n { t with trigs := t.trigs.filter fun g => !decide (g.thr ≤ t.ctr) }
  { s with jobs := s.jobs.map fun j => if j.st = .registered ∧ due.any (·.job == j.id) then { j with st := .waiting } else j }

/-! Opening (R105, R322). -/

/-- The checks of one end that give cause 6. -/
def State.badEnd (s : State) (space : BitVec 2) (base : Nat) (bytes : Nat) : Bool :=
  match space.toNat with
  | 1 => decide (2 ^ 20 ≤ base ∨ 2 ^ 20 < base % 2 ^ 20 + bytes)
  | 2 => s.replicated || decide (2 ^ 28 ≤ base ∨ Config.dieCores ≤ base / 2 ^ 20 ∨ 2 ^ 20 < base % 2 ^ 20 + bytes)
  | _ => bytes != 0 && decide (2 ^ 57 < base + bytes)

/-- R111, R112: the stream of the braid in focus has finished; an enabled landing becomes pending. -/
def State.landingDue (s : State) (n : BitVec 3) : State :=
  s.mapCtx fun c => { c with landPend := if c.landEn.getLsbD n.toNat then c.landPend ||| ((1 : BitVec 8) <<< n.toNat) else c.landPend }

/-- A stream that `sopen` opens; one with nothing to copy has finished (R105). -/
def State.openStream (s : State) (n : BitVec 3) (t : Stream) : State :=
  if t.n = 0 then (s.setStream n { t with st := .finished }).landingDue n else s.setStream n t

/-- R105: an active or faulted stream cannot be opened. The leader says whether it is (R115). -/
def State.streamFree (s : State) (n : BitVec 3) (k : State → Res) : Res :=
  s.forward (fun s => if (s.stream n).st = .active ∨ (s.stream n).st = .faulted then 1 else 0) fun s v =>
    if v = 1 then .trap s 1 0 else k s

/-- A faulted stream goes on (R110). -/
def Stream.resumed (t : Stream) : Stream := if t.st = .faulted then { t with st := .active, fault := none, told := false } else t

/-- `sopen` (R105). Where both ends break one check, `eei` names the source (log entry 65). -/
def execSopen (st a b : Reg) (x y : BitVec 2) (s : State) : Host.Outcome State Fault Refusal :=
  s.streamIssue fun s =>
    let n := streamNo st
    let src := s.aReg a
    let dst := s.aReg b
    let ty := s.hr.vt
    let bytes := s.vlen * bytesOf ty
    s.streamFree n fun s =>
    if (x = 3 ∨ y = 3) ∧ s.b.ctx.fabric.isNone then .trap s 1 0
    else if src.toNat % bytesOf ty ≠ 0 then .trap s 3 src
    else if dst.toNat % bytesOf ty ≠ 0 then .trap s 3 dst
    else if s.badEnd x src.toNat bytes then .trap s 6 src
    else if s.badEnd y dst.toNat bytes then .trap s 6 dst
    else s.releasePoint scopeDevice (opRecord (.sopen st a b x y) [src, dst]) fun s =>
      let t : Stream := ⟨.active, src, dst, x, y, s.vlen, ty, 0, 0, [], none, false, s.b.ctx.grp, s.b.ctx.ac.cstr.toNat⟩
      s.once (fun s => ((s.fireTriggers n).openStream n t, 0)) fun s _ =>
        .done (if s.leads then s.setStream n { s.stream n with cursor := 0 } else s.openStream n t).retire

/-- `sopen.r` (R110). The leader resumes the stream once; a follower, or a leader that runs its window again, updates what it has recorded of
it. -/
def execSopenR (st : Reg) (s : State) : Host.Outcome State Fault Refusal :=
  s.streamIssue fun s =>
    let n := streamNo st
    s.once (fun s => if (s.stream n).st = .faulted then (s.setStream n (s.stream n).resumed, 1) else (s, 0)) fun s v =>
      if v = 0 then .trap s 1 0
      else .done (if s.leads then s else s.setStream n (s.stream n).resumed).retire

/-! Waiting and reading (R107). -/

/-- R107: `swait` with a threshold has nothing to wait for. -/
def Stream.reached (t : Stream) (thr : Nat) : Bool := decide (min thr t.n ≤ t.ctr) || t.st == .cancelled || t.st == .idle

def State.doSwait (s : State) (d st : Reg) (thr : Word) : Res :=
  let n := streamNo st
  s.decided (fun s => if (s.stream n).reached thr.toNat then none else some (.stream d st thr)) (fun s => (s.stream n).ctr) fun s v =>
    .done (s.setA d (BitVec.ofNat 64 v)).retire

def execSwait (d a st : Reg) (s : State) : Host.Outcome State Fault Refusal := s.streamIssue fun s => s.doSwait d st (s.aReg a)

def execSavail (d st : Reg) (s : State) : Host.Outcome State Fault Refusal :=
  s.streamIssue fun s => s.forward (fun s => (s.stream (streamNo st)).ctr) fun s v => .done (s.setA d (BitVec.ofNat 64 v)).retire

/-! Cancel and close (R108, R109). -/

/-- R109: the registered jobs of a stream of the braid are discarded. -/
def State.dropTriggers (s : State) (n : BitVec 3) : State :=
  if s.leads then { s with jobs := discardJobs (fun j => j.braid == s.b.id && j.srcStream == some n) s.jobs } else s

/-- R108: an active or faulted stream becomes cancelled. Destination elements at or above the counter keep what they held (log entry 87). -/
def State.cancel (s : State) (n : BitVec 3) : State :=
  let s := s.fireTriggers n
  let t := s.stream n
  if t.st = .active ∨ t.st = .faulted then
    (s.dropTriggers n).setStream n { t with st := .cancelled, trigs := [], fault := none, told := false }
  else s

def execScancel (st : Reg) (s : State) : Host.Outcome State Fault Refusal :=
  s.streamIssue fun s => .done (s.cancel (streamNo st)).retire

def execSclose (st : Reg) (s : State) : Host.Outcome State Fault Refusal :=
  s.streamIssue fun s =>
    let t := s.cancel (streamNo st)
    .done (t.setStream (streamNo st) { t.stream (streamNo st) with st := .idle }).retire

/-! Triggers (R109, R323). -/

/-- What becomes of a trigger registered now: its job's state, and whether it stays pending. -/
def Stream.trigger (t : Stream) (thr : Nat) : JobState :=
  if t.st = .finished ∨ min thr t.n ≤ t.ctr then .waiting else if t.st = .cancelled then .discarded else .registered

def execStrig (st a b : Reg) (c : Bool) (s : State) : Host.Outcome State Fault Refusal :=
  s.streamIssue fun s =>
    let n := streamNo st
    let thr := s.aReg a
    let ca := s.aReg b
    let cls := if c then 1 else 0
    s.forward (fun s => if (s.stream n).st = .idle then 1 else 0) fun s idle =>
    if idle = 1 then .trap s 1 0
    else if ca.toNat % 64 ≠ 0 then .trap s 3 ca
    else s.readCard cls ca fun s card hd =>
      s.releasePoint scopeDevice (opRecord (.strig st a b c) [thr, ca]) fun s =>
        s.onceWhen (fun s => if 4 ≤ (s.stream n).trigs.length then some (.trigs n) else none)
          (fun s =>
            let t := s.stream n
            let js := t.trigger thr.toNat
            let s' := s.enqueue 0 cls card none (BitVec.ofNat 64 (cardBase card)) js (some n) (cardRegions cls card hd) (Header.of hd).mbits
            (if js = .registered then s'.setStream n { t with trigs := t.trigs ++ [⟨min thr.toNat t.n, s.nextId⟩] } else s', 0))
          fun s _ => .done s.retire

/-! An element (R105, R106, R110). -/

/-- The translation context of the braid's streams (log entry 31). -/
def State.streamXlate (s : State) : Xlate := ⟨none, s.b.ctx.ac.pgroot.toNat, s.b.ctx.ac.asn, true⟩

/-- Where an element of a space other than the fabric lies, or its cause. -/
def State.endKey (s : State) (space : BitVec 2) (va n : Nat) (k : Kind) : Except Nat (State × Nat) :=
  match space.toNat with
  | 0 => match s.access s.streamXlate s.b.task va n k false with
    | .error c => .error c
    | .ok r => .ok (r.2, r.1)
  | 1 =>
    let key := poolKey s.b.core va
    if s.poisonHit key n k then .error 7 else .ok (s, key)
  | _ =>
    let key := poolKey (dieOf s.b.core * Config.dieCores + va / 2 ^ 20) (va % 2 ^ 20)
    if s.poisonHit key n k then .error 7 else .ok (s, key)

/-- The cause that another member's owner gives: free among those of R218 (log entry 20). -/
def remoteCause (k : Kind) (draw : Nat) : Nat := [k.fault, 6, 7, 14].getD ((Config.remoteByte draw).toNat % 4) 6

/-- The owner of a fabric end's element (R105, R217). -/
def Stream.owner (t : Stream) (va : Nat) : Nat := match t.grp with | some g => g.owner t.stride va | none => 0

def State.landRead (s : State) (t : Stream) (va n : Nat) : Except Nat (State × Nat) :=
  if t.sx = 3 ∧ t.owner va ≠ s.lmember.toNat then
    let r := s.remoteRead n
    if r.2.2 then .error (remoteCause .load s.free) else .ok (r.1, r.2.1)
  else match s.endKey (if t.sx = 3 then 0 else t.sx) va n .load with
    | .error c => .error c
    | .ok (u, key) => .ok (u, u.readMem key n)

/-- The element sent to another member, as a plain store. -/
def State.streamElem (s : State) (t : Stream) (va n v : Nat) : FabElem :=
  s.elem (t.grp.getD ⟨false, false, 0, []⟩) t.stride 0 t.ty (BitVec.ofNat 64 va) n v

/-- Bytes written at a place of the braid's own pool stand in the pool of every member of its set (R247). -/
def State.poolEverywhere (s : State) (va n v : Nat) : State :=
  match s.rset with
  | none => s.writeMem (poolKey s.b.core va) n v
  | some r => (s.members r).foldl (fun s b => s.writeMem (poolKey b.core va) n v) s

def State.landWrite (s : State) (t : Stream) (va n v : Nat) : Except Nat State :=
  if t.sy = 3 ∧ t.owner va ≠ s.lmember.toNat then
    if Config.remoteFails s.free then .error (remoteCause .store s.free)
    else match s.planeOf (s.streamElem t va n v) with
      | none => .error 6
      | some p => .ok { s with fabOut := s.fabOut ++ [(p, s.streamElem t va n v)], free := s.free + 1 }
  else match s.endKey (if t.sy = 3 then 0 else t.sy) va n .store with
    | .error c => .error c
    | .ok (u, key) => .ok (if t.sy = 1 then u.poolEverywhere va n v else u.writeMem key n v)

/-- The next element of a stream copied, or the cause that stops it: the source's, if both ends fail (log entry 65). Where source and
destination overlap, it reads what earlier elements wrote (log entry 86). -/
def State.landElement (s : State) (n : BitVec 3) : Except Nat State :=
  let t := s.stream n
  let e := bytesOf t.ty
  match s.landRead t (t.src.toNat + t.ctr * e) e with
  | .error c => .error c
  | .ok (u, v) => u.landWrite t (t.dst.toNat + t.ctr * e) e v

/-- R112, R247: a finished stream's landing is pending at the braid, or at every member of its set. -/
def State.finished (s : State) (n : BitVec 3) : State :=
  match s.rset with
  | none => s.landingDue n
  | some r => s.mapBraids fun b => if r.has b && b.ctx.landEn.getLsbD n.toNat then
      { b with ctx := { b.ctx with landPend := b.ctx.landPend ||| ((1 : BitVec 8) <<< n.toNat) } } else b

/-- The stream of the braid in focus can move: the braid is resident, decides for its set, and the stream is active. -/
def State.streaming (s : State) (n : BitVec 3) : Bool := s.b.live && s.leads && (s.stream n).st == .active

/-- R106: an element lands. -/
def State.land (s : State) (n : BitVec 3) : State :=
  if s.streaming n then
    match s.landElement n with
    | .error _ => s
    | .ok u =>
      let t := u.stream n
      let done := decide (t.n ≤ t.ctr + 1)
      let u := u.setStream n { t with ctr := t.ctr + 1, st := if done then .finished else .active }
      if done then u.finished n else u
  else s

/-- R110: an element that cannot be copied stops its stream. -/
def State.landFault (s : State) (n : BitVec 3) : State :=
  if s.streaming n then
    match s.landElement n with
    | .ok _ => s
    | .error c => s.setStream n { s.stream n with st := .faulted, fault := some c, told := false }
  else s

/-- STREAM_ELEMENT_LAND. -/
def execStreamElementLand (b : Nat) (n : BitVec 3) (s : State) : Host.Outcome State Fault Refusal := .next (s.atBraid b fun t => t.land n)
/-- STREAM_ELEMENT_FAULT. -/
def execStreamElementFault (b : Nat) (n : BitVec 3) (s : State) : Host.Outcome State Fault Refusal :=
  .next (s.atBraid b fun t => t.landFault n)
/-- STREAM_TRIGGER_FIRE. -/
def execStreamTriggerFire (b : Nat) (n : BitVec 3) (s : State) : Host.Outcome State Fault Refusal :=
  .next (s.atBraid b fun t => if t.b.live then t.fireTriggers n else t)

end Sys2Proof.Machine
end

