-- ==== Sys2Proof/Machine/Task.lean ====
section
/-! DEFINITION. The task instructions (spec/03 R32-R43), `repq` and `rsig` (spec/19 R252, spec/25 R321), the landing instructions
(spec/06 R111, R113, spec/25 R327) and `pfx` (spec/04 R61, R62, spec/25 R320). -/

namespace Sys2Proof.Machine

/-! Launch (R32, R34). -/

/-- A launch queue holds 256 card addresses; a task whose card was read stays in its place until it is dispatched (R35, R148). -/
def State.queueFull (s : State) (q : BitVec 6) : Bool :=
  decide (256 ≤ (s.cards.filter fun c => c.q == q.toNat).length + (s.tasks.filter fun t => t.q == q.toNat && t.st == .waiting).length)

/-- A card address pushed on a queue, or 1 for a full queue. -/
def State.pushCard (s : State) (q : BitVec 6) (va root : Word) (asn : BitVec 16) (parent : Option Nat) (host : Bool) : State × Nat :=
  if s.queueFull q then (s, 1)
  else ({ s with cards := s.cards ++ [⟨q.toNat, va, root, asn, parent, host, s.age⟩], age := s.age + 1 }, 0)

def execLaunch (d a b : Reg) (s : State) : Host.Outcome State Fault Refusal :=
  (s.issue .onlyA .user false false fun s =>
    let aa := s.aReg a
    let ab := s.aReg b
    if aa.toNat % 256 ≠ 0 then .trap s 3 aa
    else s.releasePoint scopeDevice (opRecord (.launch d a b) [aa, ab]) fun s =>
      s.once (fun s => s.pushCard (ab.setWidth 6) aa s.b.ctx.ac.pgroot s.b.ctx.ac.asn (some s.b.task) false) fun s v =>
        .done (s.setA d (BitVec.ofNat 64 v)).retire).settle

/-! Ends of harts (R43). -/

/-- R43: the A-hart waits for its open streams. -/
def State.drained (s : State) : Bool :=
  match s.hart with
  | .A => streamNos.all fun n => (s.stream n).st != .active && (s.stream n).st != .faulted
  | .X => true

def State.endHart (s : State) : State :=
  match s.hart with
  | .A => s.mapB fun b => { b with endS := s.sysMode, ctx := { b.ctx with endA := true } }
  | .X => s.mapCtx fun c => { c with endX := true }

/-- What `tdone` does after its release: the hart ends, and with its other hart ended the braid retires. -/
def State.finishHart (s : State) : State :=
  let s := match s.hart with
    | .A => streamNos.foldl State.fireTriggers s
    | .X => s
  let s := s.retire.endHart
  if s.ended (otherHart s.hart) then s.retireBraid else s

def State.doTdone (s : State) : Res :=
  (s.decided (fun s => if s.drained then none else some .drain) (fun _ => 0) fun s _ =>
    s.releasePoint scopeDevice [] fun s => .done s.finishHart).replay s

def execTdone (s : State) : Host.Outcome State Fault Refusal := (s.issue .both .user false false State.doTdone).settle

/-- R42: no architectural effect. -/
def execTyield (s : State) : Host.Outcome State Fault Refusal :=
  (s.issue .both .user false false fun s => .done s.retire).settle

/-! Identity and strips (R37-R40). -/

def ceilDiv (a b : Nat) : Nat := (a + b - 1) / b
/-- Strips of a level (R26). -/
def LevelRec.count (l : LevelRec) : Nat := ceilDiv l.extent l.strip
/-- D of R29: the die strips, 1 when no level has kind 3. -/
def Task.dies (t : Task) : Nat :=
  match t.levels.head? with
  | some l => if l.kind = 3 then l.count else 1
  | none => 1
/-- S of R38. -/
def Task.spatial (t : Task) : Nat := t.levels.foldl (fun n l => if l.kind = 2 then n * l.count else n) 1
/-- Braids that deal one group's strips. -/
def Task.perGroup (t : Task) : Nat := t.ncores / t.dies
/-- The die group of a braid's index. -/
def Task.group (t : Task) (c : Nat) : Nat := c / t.perGroup

/-- R38, R39: the strips of braid `c`, first and one past last. -/
def Task.strips (t : Task) (c : Nat) : Nat × Nat :=
  let n := t.spatial
  let k := t.perGroup
  let g := t.group c
  let i := c % k
  let base := g * n
  if t.det then
    let v := t.canon / t.dies
    (base + i * v / k * n / v, base + (i + 1) * v / k * n / v)
  else (base + i * n / k, base + (i + 1) * n / k)

/-- R37. -/
def Task.ident (t : Task) (c sel : Nat) : Nat :=
  match sel with
  | 0 => if t.det then t.canon else t.ncores
  | 1 => c
  | 2 => t.group c
  | 3 => t.ncores
  | _ => match t.levels[(sel - 4) % 4]? with
    | some l => if sel < 8 then l.extent else l.strip
    | none => 0

def execTid (d sel : Reg) (s : State) : Host.Outcome State Fault Refusal :=
  (s.issue .both .user false false fun s =>
    if 12 ≤ sel.toNat then .trap s 1 0
    else
      let v := match s.thisTask with
        | some t => t.ident s.b.idx sel.toNat
        | none => 0
      .done (s.setReg d (BitVec.ofNat 64 v)).retire).settle

def Ctx.cursor (c : Ctx) : Hart → Nat
  | .A => c.curA
  | .X => c.curX
/-- The hart has taken one strip more. -/
def State.nextStrip (s : State) : State :=
  match s.hart with
  | .A => s.mapCtx fun c => { c with curA := c.curA + 1 }
  | .X => s.mapCtx fun c => { c with curX := c.curX + 1 }

/-- R40: the strip number that the hart's cursor stands at, or none when its range is exhausted. -/
def State.stripNo (s : State) : Option Nat :=
  match s.thisTask with
  | none => none
  | some t =>
    let r := t.strips s.b.idx
    let n := r.1 + s.b.ctx.cursor s.hart
    if n < r.2 then some n else none

def execStrip (d : Reg) (s : State) : Host.Outcome State Fault Refusal :=
  (s.issue .both .user false false fun s =>
    let v : Word := match s.stripNo with
      | some n => BitVec.ofNat 64 n
      | none => BitVec.allOnes 64
    let t := if s.stripNo.isSome then s.nextStrip else s
    let t := t.setHr { t.hr with lstrip := v, dord := 0 }
    .done (t.setReg d v).retire).settle

/-! Replica state (R252, R321). -/

/-- R252: the word of `repq`; count and degraded are those of the last release, the same in every replica. -/
def State.replicaWord (s : State) : Word :=
  match s.rset with
  | none => 4
  | some r => BitVec.ofNat 64 (r.rel % 2 ^ 32 * 2 ^ 32 + (if r.rerun then 32 else 0) + (if r.deg0 then 16 else 0)
      + r.count0 % 4 * 4 + s.b.rep % 4)

/-- Every release point before it in the hart's order has been agreed when it executes (R321). -/
def execRepq (d : Reg) (s : State) : Host.Outcome State Fault Refusal :=
  (s.issue .both .user false false fun s => .done (s.setReg d s.replicaWord).retire).settle

/-- R321: the hart's signature, 0 outside replica execution. -/
def execRsig (d : Reg) (s : State) : Host.Outcome State Fault Refusal :=
  (s.issue .both .system false false fun s =>
    let v : Word := if s.replicated then (match s.hart with | .A => s.b.crcA | .X => s.b.crcX) else 0
    .done (s.setReg d v).retire).settle

/-! Landings (R111, R113, R327). -/

def streamBit (r : Reg) : BitVec 8 := (1 : BitVec 8) <<< (streamNo r).toNat

def execUien (st : Reg) (s : State) : Host.Outcome State Fault Refusal :=
  (s.issue .onlyA .user true false fun s => .done (s.mapCtx fun c => { c with landEn := c.landEn ||| streamBit st }).retire).settle

def execUienOff (st : Reg) (s : State) : Host.Outcome State Fault Refusal :=
  (s.issue .onlyA .user true false fun s =>
    .done (s.mapCtx fun c => { c with landEn := c.landEn &&& ~~~(streamBit st), landPend := c.landPend &&& ~~~(streamBit st) }).retire).settle

/-- In a set, landings due at the last release that are still pending are taken at the boundary after `uiret` (R113, R247). -/
def State.landHere (s : State) : State := if s.replicated then s.mapB fun b => { b with landAt := b.retA } else s

def execUiret (s : State) : Host.Outcome State Fault Refusal :=
  (s.issue .onlyA .user true false fun s =>
    if !s.landing then .trap s 1 0
    else .done (((s.mapCtx fun c => { c with inLand := false }).goTo s.b.ctx.retLatch).landHere)).settle

/-! The prefix (R61, R62). -/

def execPfx (k : BitVec 4) (inv : Bool) (c : Reg) (ce : Bool) (s : State) : Host.Outcome State Fault Refusal :=
  (s.issue .onlyX .user false false fun s =>
    let v : BitVec 12 := (1 : BitVec 1) ++ BitVec.ofBool ce ++ c ++ BitVec.ofBool inv ++ k
    .done (s.retire.mapCtx fun x => { x with xc := { x.xc with pfl := v } })).settle

end Sys2Proof.Machine
end

