-- ==== Sys2Proof/Machine/CtlRegs.lean ====
section
/-! DEFINITION. The control registers (spec/23 R291-R295 and the maps they name): levels, scopes, fields, values, and `crr`, `crw`,
`crs`, `crc` with the loads of `trec` (R79) and `cgrp` (R215, R216). -/

namespace Sys2Proof.Machine

/-! The table (R291). -/

inductive Scope where
  | hart
  | a
  | x
  | braid
  | core
  | module
deriving DecidableEq, Repr

/-- A row: scope, levels of reading and writing, and the fields that a write changes: those written as they are, and those that a
written 1 clears. -/
structure CrRow where
  scope : Scope
  read : Level
  write : Option Level
  rw : Word
  w1c : Word

def lowBits (n : Nat) : Word := BitVec.ofNat 64 (2 ^ n - 1)
/-- Bits [56:6] (R79, R216). -/
def recordMask : Word := 0x01FFFFFFFFFFFFC0
/-- Bits [43:16] (R99). -/
def rootMask : Word := 0x00000FFFFFFF0000

/-- A register that user code reads and writes, one that only system code writes, and one that only system code reaches. -/
def userRow (sc : Scope) (rw : Word) : CrRow := ⟨sc, .user, some .user, rw, 0⟩
def sysWrite (sc : Scope) (rw : Word) : CrRow := ⟨sc, .user, some .system, rw, 0⟩
def sysRow (sc : Scope) (rw : Word) : CrRow := ⟨sc, .system, some .system, rw, 0⟩
def fixedRow (sc : Scope) : CrRow := ⟨sc, .user, none, 0, 0⟩

def crRow (n : Nat) : Option CrRow :=
  match n with
  | 0x000 => some (sysWrite .hart (lowBits 12))
  | 0x001 => some (sysWrite .hart (lowBits 5))
  | 0x002 => some (userRow .a (lowBits 2))
  | 0x003 => some (sysWrite .braid (lowBits 12))
  | 0x004 => some (sysWrite .hart (lowBits 12))
  | 0x005 => some (sysWrite .hart (lowBits 64))
  | 0x006 => some (sysWrite .x (lowBits 12))
  | 0x010 => some (userRow .hart (lowBits 8))
  | 0x011 => some ⟨.hart, .user, some .user, 0, lowBits 8⟩
  | 0x012 => some (userRow .hart (lowBits 64))
  | 0x013 => some (sysWrite .hart (lowBits 64))
  | 0x014 => some (userRow .a recordMask)
  | 0x015 => some (userRow .a 0xE7)
  | 0x020 => some (fixedRow .x)
  | 0x021 => some (sysWrite .x (lowBits 64))
  | 0x022 => some (sysWrite .x (lowBits 64))
  | 0x023 => some (sysWrite .x (lowBits 64))
  | 0x024 => some (sysWrite .x (lowBits 64))
  | 0x025 => some (userRow .x (lowBits 64))
  | 0x030 => some (userRow .a recordMask)
  | 0x031 => some (userRow .a (lowBits 3))
  | 0x032 => some (userRow .a (lowBits 21))
  | 0x033 => some ⟨.a, .user, some .user, 0, 3⟩
  | 0x040 => some (userRow .x (lowBits 8))
  | 0x041 => some (userRow .x (lowBits 32))
  | 0x042 => some (userRow .x (lowBits 32))
  | 0x043 => some (userRow .x (lowBits 32))
  | 0x044 => some (userRow .x 1)
  | 0x050 => some (userRow .x (lowBits 32))
  | 0x051 => some (userRow .x (lowBits 32))
  | 0x052 => some (userRow .x (lowBits 32))
  | 0x053 => some (userRow .x (lowBits 32))
  | 0x054 => some (userRow .x (lowBits 32))
  | 0x055 => some (userRow .x (lowBits 32))
  | 0x056 => some (userRow .x (lowBits 32))
  | 0x057 => some (userRow .a (lowBits 64))
  | 0x060 => some (fixedRow .core)
  | 0x061 => some (fixedRow .core)
  | 0x062 => some (fixedRow .core)
  | 0x063 => some (sysWrite .hart (lowBits 64))
  | 0x064 => some (fixedRow .module)
  | 0x070 => some (sysRow .a (lowBits 8))
  | 0x071 => some (sysRow .a addrMask)
  | 0x072 => some (sysRow .a addrMask)
  | 0x073 => some (userRow .a addrMask)
  | 0x074 => some (sysRow .a 0xFE0)
  | 0x080 => some (sysRow .a rootMask)
  | 0x081 => some (sysRow .a (lowBits 16))
  | 0x082 => some (sysRow .module rootMask)
  | 0x083 => some (sysRow .module (lowBits 16))
  | _ => none

/-- The row of a number, and whose copy of a Hart register it names: its own, or with 0x800 added the X-hart's, at system level. -/
def crFind (h : Hart) (n : BitVec 12) : Option (CrRow × Hart × Nat) :=
  if n.toNat < 0x800 then (crRow n.toNat).map fun r => (r, h, n.toNat)
  else match crRow (n.toNat - 0x800) with
    | some r => if r.scope = .hart then some ({ r with read := .system }, .X, n.toNat - 0x800) else none
    | none => none

/-! Values. -/

def wide {w : Nat} (x : BitVec w) : Word := x.setWidth 64

/-- R46: the cycles a core has counted since it started. -/
def State.cyc (s : State) (core : Nat) : Word :=
  (List.range' s.startTick (s.ticks - s.startTick)).foldl (fun n i => n + Config.elapsed core i) 0
/-- R17: a boot core has no logical number. -/
def lcoreOf (core : Nat) : Word := if isBoot core then BitVec.allOnes 64 else BitVec.ofNat 64 core

/-- A register's value; the core registers are read apart, for the leader's is forwarded (R295). -/
def State.crGet (s : State) (h : Hart) (n : Nat) : Word :=
  let r := s.hrOf h
  let c := s.b.ctx
  match n with
  | 0x000 => wide r.vl
  | 0x001 => wide r.vt
  | 0x002 => wide c.ac.mt
  | 0x003 => wide c.vcap
  | 0x004 => wide r.es
  | 0x005 => r.eei
  | 0x006 => wide c.xc.pfl
  | 0x010 => wide r.fctl
  | 0x011 => wide r.fsts
  | 0x012 => r.seed
  | 0x013 => r.dord
  | 0x014 => c.ac.trec
  | 0x015 => wide c.ac.zl
  | 0x020 => wide c.xc.mgrant
  | 0x021 => c.xc.mz
  | 0x022 => c.xc.mscnt
  | 0x023 => c.xc.mvar
  | 0x024 => c.xc.mfro
  | 0x025 => c.xc.mtgt
  | 0x030 => c.ac.cgrp
  | 0x031 => wide c.ac.cop
  | 0x032 => wide c.ac.cstr
  | 0x033 => wide c.ac.cstat
  | 0x040 => wide c.xc.xbase
  | 0x041 => wide c.xc.gdrop
  | 0x042 => wide c.xc.gclip
  | 0x043 => wide c.xc.gtau
  | 0x044 => wide c.xc.gmode
  | 0x050 => wide c.xc.ob1
  | 0x051 => wide c.xc.ob2
  | 0x052 => wide c.xc.olr
  | 0x053 => wide c.xc.oeps
  | 0x054 => wide c.xc.owd
  | 0x055 => wide c.xc.oc1
  | 0x056 => wide c.xc.oc2
  | 0x057 => c.ac.tstep
  | 0x060 => s.cyc s.b.core
  | 0x061 => lcoreOf s.b.core
  | 0x062 => BitVec.ofNat 64 (dieOf s.b.core)
  | 0x063 => r.lstrip
  | 0x064 => s.lmember
  | 0x070 => wide s.b.cause
  | 0x071 => s.b.epc
  | 0x072 => s.b.tvec
  | 0x073 => c.ac.lvec
  | 0x074 => wide s.b.status
  | 0x080 => c.ac.pgroot
  | 0x081 => wide c.ac.asn
  | 0x082 => s.aproot
  | 0x083 => wide s.apasn
  | _ => 0

def State.mapHr (s : State) (h : Hart) (f : HartRegs → HartRegs) : State := s.setHrOf h (f (s.hrOf h))
def State.mapAc (s : State) (f : ARegs → ARegs) : State := s.mapCtx fun c => { c with ac := f c.ac }
def State.mapX (s : State) (f : XRegs → XRegs) : State := s.mapCtx fun c => { c with xc := f c.xc }

/-- R68: `es` is written as a multiple of the EG size of the hart's type. -/
def esValue (t : Reg) (v : Word) : BitVec 12 := BitVec.ofNat 12 (v.toNat % 4096 - v.toNat % 4096 % egOf t)

/-- A register set to a value that its fields can hold. -/
def State.crPut (s : State) (h : Hart) (n : Nat) (v : Word) : State :=
  match n with
  | 0x000 => s.mapHr h fun r => { r with vl := v.setWidth 12 }
  | 0x001 => s.mapHr h fun r => { r with vt := v.setWidth 5 }
  | 0x002 => s.mapAc fun r => { r with mt := v.setWidth 2 }
  | 0x003 => s.mapCtx fun c => { c with vcap := v.setWidth 12 }
  | 0x004 => s.mapHr h fun r => { r with es := esValue r.vt v }
  | 0x005 => s.mapHr h fun r => { r with eei := v }
  | 0x006 => s.mapX fun r => { r with pfl := v.setWidth 12 }
  | 0x010 => s.mapHr h fun r => { r with fctl := v.setWidth 8 }
  | 0x011 => s.mapHr h fun r => { r with fsts := v.setWidth 8 }
  | 0x012 => s.mapHr h fun r => { r with seed := v }
  | 0x013 => s.mapHr h fun r => { r with dord := v }
  | 0x014 => s.mapAc fun r => { r with trec := v }
  | 0x015 => s.mapAc fun r => { r with zl := v.setWidth 8 }
  | 0x021 => s.mapX fun r => { r with mz := v }
  | 0x022 => s.mapX fun r => { r with mscnt := v }
  | 0x023 => s.mapX fun r => { r with mvar := v }
  | 0x024 => s.mapX fun r => { r with mfro := v }
  | 0x025 => s.mapX fun r => { r with mtgt := v }
  | 0x030 => s.mapAc fun r => { r with cgrp := v }
  | 0x031 => s.mapAc fun r => { r with cop := v.setWidth 3 }
  | 0x032 => s.mapAc fun r => { r with cstr := v.setWidth 21 }
  | 0x033 => s.mapAc fun r => { r with cstat := v.setWidth 16 }
  | 0x040 => s.mapX fun r => { r with xbase := v.setWidth 8 }
  | 0x041 => s.mapX fun r => { r with gdrop := v.setWidth 32 }
  | 0x042 => s.mapX fun r => { r with gclip := v.setWidth 32 }
  | 0x043 => s.mapX fun r => { r with gtau := v.setWidth 32 }
  | 0x044 => s.mapX fun r => { r with gmode := v.setWidth 1 }
  | 0x050 => s.mapX fun r => { r with ob1 := v.setWidth 32 }
  | 0x051 => s.mapX fun r => { r with ob2 := v.setWidth 32 }
  | 0x052 => s.mapX fun r => { r with olr := v.setWidth 32 }
  | 0x053 => s.mapX fun r => { r with oeps := v.setWidth 32 }
  | 0x054 => s.mapX fun r => { r with owd := v.setWidth 32 }
  | 0x055 => s.mapX fun r => { r with oc1 := v.setWidth 32 }
  | 0x056 => s.mapX fun r => { r with oc2 := v.setWidth 32 }
  | 0x057 => s.mapAc fun r => { r with tstep := v }
  | 0x063 => s.mapHr h fun r => { r with lstrip := v }
  | 0x070 => s.mapB fun b => { b with cause := v.setWidth 8 }
  | 0x071 => s.mapB fun b => { b with epc := v }
  | 0x072 => s.mapB fun b => { b with tvec := v }
  | 0x073 => s.mapAc fun r => { r with lvec := v }
  | 0x074 => s.mapB fun b => { b with status := v.setWidth 12 }
  | 0x080 => s.mapAc fun r => { r with pgroot := v }
  | 0x081 => s.mapAc fun r => { r with asn := v.setWidth 16 }
  | 0x082 => { s with aproot := v }
  | 0x083 => { s with apasn := v.setWidth 16 }
  | _ => s

/-- R293 step 5, and R99 for a root: a value that the register's own rule refuses. -/
def crRefuses (n : Nat) (v : Word) : Bool :=
  match n with
  | 0x001 => decide (18 ≤ v.toNat)
  | 0x003 => !([128, 256, 512, 1024, 2048].contains v.toNat)
  | 0x010 => decide (6 ≤ v.toNat % 8)
  | 0x031 => decide (5 ≤ v.toNat)
  | 0x032 => v != 0 && decide (v.toNat % 128 ≠ 0 ∨ 2 ^ 20 < v.toNat)
  | 0x074 => decide (v.toNat / 2 ^ 10 % 4 = 3)
  | 0x080 => v.extractLsb' 39 5 != 0
  | 0x082 => v.extractLsb' 39 5 != 0
  | _ => false

/-! The checks of R293. -/

/-- The levels at which a register may be read, and written. -/
def CrRow.levelFor (r : CrRow) (write : Bool) : Level := if write then r.write.getD r.read else r.read

/-- R293 steps 1 to 4. -/
def State.crCheck (s : State) (n : BitVec 12) (write : Bool) (k : CrRow → Hart → Nat → Res) : Res :=
  let eei : Word := wide n
  match crFind s.hart n with
  | none => .trap s 1 0
  | some (r, h, m) =>
    if 0x800 ≤ n.toNat ∧ s.hart = .X then .trap s 1 0
    else if 0x800 ≤ n.toNat ∧ s.b.level = .user then .trap s 2 eei
    else if (r.scope = .a ∧ s.hart = .X) ∨ (r.scope = .x ∧ s.hart = .A ∧ s.b.level = .user) then .trap s 1 0
    else if s.b.level.rank < (r.levelFor write).rank then .trap s 2 eei
    else if write && r.write.isNone then .trap s 1 0
    else k r h m

/-! Group descriptors (R215, R216). -/

def Group.ofBytes (hd ms : List Byte) : Group :=
  ⟨(byteAt hd 2).testBit 0, (byteAt hd 2).testBit 1, BitVec.ofNat 64 (fieldAt hd 8 8), ms.map (·.toNat)⟩
/-- The header's own rules: the member count, and nothing in what is reserved, the flags bits [7:2] among it (log entry 94). -/
def groupHeaderOk (hd : List Byte) : Bool :=
  decide (1 ≤ fieldAt hd 0 2 ∧ fieldAt hd 0 2 ≤ 256 ∧ byteAt hd 2 < 4) && zeroBytes hd 3 8 && zeroBytes hd 16 64

/-- R216: the descriptor at an address is read and latched. -/
def State.loadGroup (s : State) (va : Word) (k : State → Res) : Res :=
  loadBytes 8 (fun s hd =>
    if !groupHeaderOk hd then .trap s 6 va
    else loadBytes 1 (fun s ms =>
      let g := Group.ofBytes hd ms
      if distinct g.members && g.members.contains s.lmember.toNat then k (s.mapCtx fun c => { c with grp := some g })
      else .trap s 6 va) (fieldAt hd 0 2) (va + 64) [] s) 8 va [] s

/-- R79: `trec` names a record whose bound is read, or none. -/
def State.loadBound (s : State) (va : Word) (k : State → Res) : Res :=
  if va = 0 then k (s.mapCtx fun c => { c with bound := 0 })
  else s.loadScalar va 4 fun s v => k (s.mapCtx fun c => { c with bound := BitVec.ofNat 32 v })

/-- The write of a checked value, with the load that goes with it. The hart goes on after its own instruction whatever the write did
to `status`, and a prefix that the write put in `pfl` is for the next instruction (R295). -/
def State.crWrite (s : State) (h : Hart) (n : Nat) (v : Word) : Res :=
  let go (s : State) : Res :=
    .done (if n = 0x074 then (s.crPut h n v).goTo (s.pc + 4) else (s.goTo (s.pc + 4)).crPut h n v)
  if crRefuses n v then .trap s 1 0
  else if n = 0x014 then s.loadBound v go
  else if n = 0x030 ∧ v ≠ 0 then s.loadGroup v go
  else go s

def State.crIssue (s : State) (k : State → Res) : Host.Outcome State Fault Refusal :=
  (s.issue .both .user false false fun s => (k s).replay s).settle

/-- The value of a core register is the leader's (R241, R295). -/
def execCrr (d : Reg) (n : BitVec 12) (s : State) : Host.Outcome State Fault Refusal :=
  s.crIssue fun s => s.crCheck n false fun r h m =>
    if r.scope = .core then s.forward (fun s => (s.crGet h m).toNat) fun s v => .done (s.setReg d (BitVec.ofNat 64 v)).retire
    else .done (s.setReg d (s.crGet h m)).retire

/-- R294: `f` gives a register's new value from its old one and the operand. -/
def State.crUpdate (s : State) (r : Reg) (n : BitVec 12) (f : CrRow → Word → Word → Word) : Host.Outcome State Fault Refusal :=
  s.crIssue fun s => s.crCheck n true fun row h m =>
    let v := f row (s.crGet h m) (s.reg r)
    s.crWrite h m v

def execCrw (r : Reg) (n : BitVec 12) (s : State) : Host.Outcome State Fault Refusal :=
  s.crUpdate r n fun row old x => (old &&& ~~~row.rw &&& ~~~(row.w1c &&& x)) ||| (x &&& row.rw)
def execCrs (r : Reg) (n : BitVec 12) (s : State) : Host.Outcome State Fault Refusal :=
  s.crUpdate r n fun row old x => old ||| (x &&& row.rw)
def execCrc (r : Reg) (n : BitVec 12) (s : State) : Host.Outcome State Fault Refusal :=
  s.crUpdate r n fun row old x => old &&& ~~~(x &&& (row.rw ||| row.w1c))

end Sys2Proof.Machine
end

