-- ==== Sys2Proof/Machine/Matrix.lean ====
section
/-! DEFINITION. Matrix attachment, stationary planes, accumulators, streaming and draining (spec/11 R172-R183, spec/05 R90, spec/25 R317). -/

namespace Sys2Proof.Machine

def State.mx (s : State) : Matrix := s.b.ctx.mx
def State.mapMx (s : State) (f : Matrix → Matrix) : State := s.mapCtx fun c => { c with mx := f c.mx }
def State.mapXc (s : State) (f : XRegs → XRegs) : State := s.mapCtx fun c => { c with xc := f c.xc }
/-- Slices the braid holds (R173). -/
def State.held (s : State) : Nat := s.b.ctx.xc.mgrant.toNat

/-- Issue of a matrix instruction: never after `pfx` (R175). -/
def State.mIssue (s : State) (k : State → Res) : Host.Outcome State Fault Refusal := (s.issue .onlyX .user false false k).settle

/-- A matrix instruction completes, with `es` 0 (R317). -/
def State.mDone (s : State) : State := (s.setEs 0).retire

/-! Attachment (R172-R174). -/

/-- R172: what the quad can give the braid: its free slices but those of earlier requests (R156, R307), within its budget. -/
def State.slicesNow (s : State) : Nat := min (s.slicesFor false) (s.sliceBudget (quadOf s.b.core))
/-- R172: the grant of a request. -/
def State.sliceGrant (s : State) (req : Nat) : Nat := min req s.slicesNow

/-- The braid holds `g` slices, their planes and accumulators clear. -/
def State.attach (s : State) (d : Reg) (g : Nat) : State :=
  (((s.mapMx fun _ => Matrix.init).mapXc fun x => { x with mgrant := BitVec.ofNat 3 g }).setX d (BitVec.ofNat 64 g)).mDone

def execMatt (d a : Reg) (s : State) : Host.Outcome State Fault Refusal :=
  s.mIssue fun s =>
    let req := (s.xReg a).toNat
    if req = 0 ∨ 4 < req ∨ s.held ≠ 0 then .trap s 1 0
    else s.forward (fun s => s.sliceGrant req) fun t g =>
      -- a follower waits until its own quad can give what the leader was given
      if s.replicated && decide (t.slicesNow < g) then .wait s.ask (.slices d g)
      else .done ((t.mapB fun b => { b with askAge := none }).attach d g)

def execMdet (s : State) : Host.Outcome State Fault Refusal := s.mIssue fun s => .done (s.mapB detach).mDone

/-! Planes (R176-R178). -/

/-- K rows, or slices of blocks, that a held slice's plane takes; none for a type outside the table of R176. -/
def rowsPerSlice (t : Reg) : Option Nat :=
  match t.toNat with
  | 8 => some 16 | 9 => some 16 | 10 => some 16 | 11 => some 16 | 12 => some 32 | 13 => some 32 | 14 => some 1 | 15 => some 1
  | _ => none

/-- Row `r` of 64 elements of width `w`. -/
def rowOf (v : VReg) (w r : Nat) : VReg := BitVec.ofNat 16384 (v.toNat / 2 ^ (64 * w * r) % 2 ^ (64 * w))

/-- R59, R317: a drop checks no register operand. -/
def State.mDrop (s : State) (d : Option Dst) (pop : Option (BitVec 2)) (rounds : Bool) : Res := s.vDrop d pop rounds

def execMlds (b : Src) (s : State) : Host.Outcome State Fault Refusal :=
  s.mIssue fun s =>
    match rowsPerSlice s.hr.vt with
    | none => .trap s 1 0
    | some per =>
      let sh := s.mx.shadow
      -- R59, R317: a drop is exempt from what register operands hold, not from the types
      if s.vlen % 64 ≠ 0 ∨ (!sh.rows.isEmpty && sh.ty != s.hr.vt) then .trap s 1 0
      else if s.held = 0 then .trap s 18 0
      else if s.vlen = 0 then s.mDrop none (popOf b) false
      else
        let n := s.vlen / 64
        if per * s.held < sh.rows.length + n then .trap s 18 0
        else match s.srcWait (popOf b) with
          | some w => .wait s w
          | none =>
            let v := s.src b
            let rows := (List.range n).map fun r => rowOf v s.vw r
            .done ((s.mapMx fun m => { m with shadow := ⟨s.hr.vt, sh.rows ++ rows⟩ }).popSrc (popOf b)).mDone

def execMswap (s : State) : Host.Outcome State Fault Refusal :=
  s.mIssue fun s => if s.held = 0 then .trap s 18 0 else .done (s.mapMx fun m => { m with active := m.shadow, shadow := .init }).mDone

/-! Accumulators (R179). -/

def Acc.width (a : Acc) : Nat := if a.f64 then 64 else 32
def Acc.rowCount (a : Acc) : Nat := if a.f64 then 32 else 64
def Acc.fmt (a : Acc) : Fmt := if a.f64 then .f64 else .f32
/-- Element `i` in row-major order. -/
def Acc.get (a : Acc) (i : Nat) : Nat := a.data.toNat / 2 ^ (a.width * i) % 2 ^ a.width
/-- The accumulator with a row of 64 codes replaced. -/
def Acc.setRow (a : Acc) (r : Nat) (l : List Nat) : Acc :=
  let w := a.width
  let row := l.foldr (fun x v => x % 2 ^ w + 2 ^ w * v) 0
  { a with data := (a.data &&& ~~~(BitVec.ofNat 131072 (2 ^ (64 * w) - 1) <<< (64 * w * r))) ||| (BitVec.ofNat 131072 row <<< (64 * w * r)) }

def Matrix.acc (m : Matrix) (c : BitVec 1) : Acc := if c = 0 then m.acc0 else m.acc1
def Matrix.setAcc (m : Matrix) (c : BitVec 1) (a : Acc) : Matrix := if c = 0 then { m with acc0 := a } else { m with acc1 := a }

/-- R179, R208: the statistics of the accumulator they describe are reset with it. -/
def execMzero (c : BitVec 1) (s : State) : Host.Outcome State Fault Refusal :=
  s.mIssue fun s =>
    if s.held = 0 then .trap s 18 0
    else
      let s := s.mapMx fun m => m.setAcc c ⟨s.hr.vt == 11, 0, 0, 0⟩
      let s := if s.b.ctx.xc.statTag = c then s.mapXc fun x => { x with mscnt := 0, mfro := 0, mvar := 0 } else s
      .done s.mDone

/-! Accumulation (R90). -/

/-- An exact product, and whether it is 0 × ∞. -/
def term (x y : FVal) : FVal × Bool := (x.mul y, x.mulInvalid y)

/-- The exact sum of the terms added with one RNE rounding. -/
def accumulate (f : Fmt) (acc : Nat) (ts : List (FVal × Bool)) : Nat × Flags :=
  let a := f.decode acc
  let sum := ts.foldl (fun s t => s.add false t.1) a
  let nanIn := a.isNan || ts.any fun t => t.1.isNan
  if sum.isNan then (f.nan, flagIf (ts.any (·.2) || !nanIn) flagNV) else f.round .rne sum

/-- The list cut into groups of `n`. -/
def groups {α : Type} (n : Nat) : Nat → List α → List (List α)
  | 0, _ => []
  | f + 1, l => if l.isEmpty then [] else l.take n :: groups n f (l.drop n)

/-- One accumulator element over the groups in order. -/
def accumulateAll (f : Fmt) (acc : Nat) (gs : List (List (FVal × Bool))) : Nat × Flags :=
  gs.foldl (fun r g => let u := accumulate f r.1 g; (u.1, r.2 ||| u.2)) (acc, 0)

/-- Element `k` of a row or plane row of a scalar type. -/
def scalarAt (t : Reg) (v : VReg) (i : Nat) : FVal := match fmtOf t with | some f => f.decode (getEl v (sewOf t) i) | none => .nan

/-- The groups that one row and one column form: 8 K positions, one for f64, or the elements of one block pair; and the flags of
decoding. DESIGN CHOICE (log entry 92): the scale position of a block and the positions beyond `Ka` add no term at all, so that
a group of zeros leaves a -0 accumulator as it is; no rule gives that zero's sign. -/
def columnGroups (t at_ : Reg) (row : Nat → Nat) (plane : List VReg) (c : Nat) : List (List (FVal × Bool)) × Flags :=
  if isBlock at_ then
    (plane.mapIdx fun k p =>
      let x := decodeBlock t (row k)
      let y := decodeBlock at_ (getEl p 256 c)
      (List.zipWith term x.1 y.1, x.2 ||| y.2)).foldl (fun r g => (r.1 ++ [g.1], r.2 ||| g.2)) ([], 0)
  else
    let f (k : Nat) : FVal := match fmtOf t with | some f => f.decode (row k) | none => .nan
    let ts := plane.mapIdx fun k p => term (f k) (scalarAt at_ p c)
    (groups (if at_ = 11 then 1 else 8) ts.length ts, 0)

/-- R180's Compatible. -/
def compatible (t at_ : Reg) : Bool := t == at_ || ((t == 12 || t == 13) && (at_ == 12 || at_ == 13))

/-- A row of the stream accumulated into row `r`: the new codes and the flags. -/
def streamRow (a : Acc) (r : Nat) (t : Reg) (p : Plane) (row : Nat → Nat) : List Nat × Flags :=
  (List.range 64).foldl (fun acc c =>
    let g := columnGroups t p.ty row p.rows c
    let u := accumulateAll a.fmt (a.get (64 * r + c)) g.1
    (acc.1 ++ [u.1], acc.2 ||| g.2 ||| u.2)) ([], 0)

/-- R180. DESIGN CHOICE (log entries 91 and 101): a stream of no elements into an active plane that was never filled is dropped
with no check against a type the plane does not have; with no slice held, the checks that ask only the operands come before
cause 18, and those that ask the plane or the accumulator after it. -/
def execMstr (c : BitVec 1) (a : Reg) (b : Src) (s : State) : Host.Outcome State Fault Refusal :=
  s.mIssue fun s =>
    let rows := (s.xReg a).toNat
    if s.vlen ≠ 0 ∧ (rows = 0 ∨ 64 < rows) then .trap s 1 0
    else if s.held = 0 then .trap s 18 0
    else
    let acc := s.mx.acc c
    let p := s.mx.active
    let ka := p.rows.length
    if ka ≠ 0 ∧ (!compatible s.hr.vt p.ty ∨ (p.ty == 11) ≠ acc.f64) then .trap s 1 0
    else if s.vlen = 0 then s.mDrop none (popOf b) false
    else
      if acc.rowCount < acc.sc + rows ∨ s.vlen ≠ rows * ka ∨ !compatible s.hr.vt p.ty ∨ (p.ty == 11) ≠ acc.f64 then .trap s 1 0
      else match s.srcWait (popOf b) with
        | some w => .wait s w
        | none =>
          let v := s.src b
          let r := (List.range rows).foldl (fun (u : Acc × Flags) r =>
            let row := streamRow u.1 (acc.sc + r) s.hr.vt p fun k => getEl v s.vw (r * ka + k)
            (u.1.setRow (acc.sc + r) row.1, u.2 ||| row.2)) (acc, 0)
          let new := { r.1 with sc := (acc.sc + rows) % acc.rowCount }
          .done (((s.mapMx fun m => m.setAcc c new).addFlags r.2).popSrc (popOf b)).mDone

/-! Draining (R182). -/

def drainType (t : Reg) : Bool := decide (8 ≤ t.toNat ∧ t.toNat ≤ 13)

/-- Clamp(Round(x ÷ d, T), T): the code, the flags, and whether it saturated in forerunner mode. -/
def drainEl (f : Fmt) (r : HartRegs) (cbound : BitVec 32) (e : Nat) (x : FVal) (d : Option Nat) : Nat × Flags × Bool :=
  if d = some 0 then (f.nan, flagNV, false)
  else
    let y := match d with
      | some n => x.div (FVal.ofInt n)
      | none => x
    let q := f.rounded (r.mode e) y
    let u := f.clamp (r.mode e) r.fm cbound q.1
    (u.1, q.2 ||| u.2.1, u.2.2)

/-- R182. DESIGN CHOICE (log entry 101): with no slice held, the checks that ask only the operands come before cause 18. -/
def execMdrn (c : BitVec 1) (a : Reg) (d : Dst) (v : Bool) (s : State) : Host.Outcome State Fault Refusal :=
  s.mIssue fun s =>
    let rows := (s.xReg a).toNat
    if !drainType s.hr.vt then .trap s 1 0
    else if s.vlen ≠ 0 ∧ (rows = 0 ∨ 64 < rows ∨ s.vlen ≠ rows * 64) then .trap s 1 0
    else if s.held = 0 then .trap s 18 0
    else if s.vlen = 0 then s.mDrop (some d) none true
    else
      let acc := s.mx.acc c
      if acc.rowCount < acc.dc + rows then .trap s 1 0
      else match s.dstWait d, fmtOf s.hr.vt with
        | some w, _ => .wait s w
        | none, none => .trap s 1 0
        | none, some f =>
          let o := runEls (BitVec.allOnes 2048) 0 (rows * 64) fun e =>
            drainEl f s.hr s.b.ctx.bound (64 * acc.dc + e) (acc.fmt.decode (acc.get (64 * acc.dc + e)))
              (if v then some s.b.ctx.xc.mscnt.toNat else none)
          let s := (s.writeDst d s.vw o.els none).addFlags o.flags
          let s := s.markK s.hr.satk o.sat
          .done ((s.mapMx fun m => m.setAcc c { acc with dc := (acc.dc + rows) % acc.rowCount }).vDone true)

end Sys2Proof.Machine
end

