-- ==== Sys2Proof/Machine/Context.lean ====
section
/-! DEFINITION. The save area and `ctxsave`, `ctxload` (spec/09 R164-R168, spec/24 R306, R307, spec/04 R69). Places that R165 leaves
inside its rows are the model's (log entry 11). -/

namespace Sys2Proof.Machine

/-! Words of the area: offsets and 64-bit values. -/

abbrev AreaWord := Nat × Nat

def areaSize : Nat := 0x60000
def ofBool (b : Bool) : Nat := if b then 1 else 0
def field (x lo n : Nat) : Nat := x / 2 ^ lo % 2 ^ n
/-- `n` words from an offset that hold a wide value. -/
def wideWords (off n x : Nat) : List AreaWord := (List.range n).map fun i => (off + 8 * i, x / 2 ^ (64 * i) % 2 ^ 64)
/-- The wide value that `n` words from an offset hold. -/
def wideAt (rd : Nat → Nat) (off n : Nat) : Nat := (List.range n).foldr (fun i v => rd (off + 8 * i) + 2 ^ 64 * v) 0
def listWords (off : Nat) (l : List Word) : List AreaWord := l.mapIdx fun i v => (off + 8 * i, v.toNat)
def wordAt (rd : Nat → Nat) (off : Nat) : Word := BitVec.ofNat 64 (rd off)
def listAt (rd : Nat → Nat) (off n : Nat) : List Word := (List.range n).map fun i => wordAt rd (off + 8 * i)

/-! Registers, addresses and grants: 0x0_0000 to 0x0_03FF. -/

def grantWords (i : Nat) (g : Grant) : List AreaWord :=
  [(0x288 + 24 * i, ofBool (g.by_ == .X) + g.ty.toNat * 2 ^ 8 + g.cap.toNat * 2 ^ 16), (0x290 + 24 * i, g.req.toNat), (0x298 + 24 * i, g.g)]
def grantAt (rd : Nat → Nat) (i : Nat) : Grant :=
  let w := rd (0x288 + 24 * i)
  ⟨if field w 0 1 = 1 then .X else .A, wordAt rd (0x290 + 24 * i), BitVec.ofNat 5 (field w 8 5), rd (0x298 + 24 * i), BitVec.ofNat 12 (field w 16 12)⟩

def baseWords (c : Ctx) : List AreaWord :=
  listWords 0 c.a.toList ++ listWords 0x100 c.sh.toList ++ listWords 0x140 c.x.toList ++
  [(0x240, c.pcA.toNat), (0x248, c.pcX.toNat), (0x250, c.retLatch.toNat),
   (0x258, c.landEn.toNat + c.landPend.toNat * 2 ^ 8 + ofBool c.inLand * 2 ^ 16 + ofBool c.endA * 2 ^ 17 + ofBool c.endX * 2 ^ 18),
   (0x260, c.curA), (0x268, c.curX), (0x270, c.grants.length)] ++
  (c.grants.mapIdx grantWords).flatten

/-! Streams: 0x0_0400. Their group descriptors stand in reserved bytes after the latched one. -/

def streamCode : StreamState → Nat
  | .idle => 0
  | .active => 1
  | .finished => 2
  | .cancelled => 3
  | .faulted => 4
def streamOf (n : Nat) : StreamState :=
  match n with
  | 0 => .idle
  | 1 => .active
  | 2 => .finished
  | 3 => .cancelled
  | _ => .faulted

/-- A group descriptor in its memory form (R215), the 64 bytes of its header and its member table, all zero for none. -/
def groupWords (off : Nat) : Option Group → List AreaWord
  | none => wideWords off 40 0
  | some g =>
    [(off, g.members.length + ofBool g.arr * 2 ^ 16 + ofBool g.w64 * 2 ^ 17), (off + 8, g.status.toNat)] ++ wideWords (off + 16) 6 0 ++
      wideWords (off + 64) 32 (g.members.foldr (fun m v => m % 256 + 256 * v) 0)
def groupAt (rd : Nat → Nat) (off : Nat) : Option Group :=
  let w := rd off
  let n := field w 0 16
  if n = 0 then none
  else some ⟨field w 16 1 == 1, field w 17 1 == 1, wordAt rd (off + 8),
    (List.range n).map fun i => field (rd (off + 64 + i / 8 * 8)) (8 * (i % 8)) 8⟩
def streamGroup (n : Nat) : Nat := 0x6140 + 320 * n

def streamWords (n : Nat) (t : Stream) : List AreaWord :=
  let off := 0x400 + 128 * n
  [(off, streamCode t.st + t.ty.toNat * 2 ^ 8 + t.sx.toNat * 2 ^ 16 + t.sy.toNat * 2 ^ 18 + ofBool t.told * 2 ^ 20 +
      ofBool t.fault.isSome * 2 ^ 21 + t.fault.getD 0 % 32 * 2 ^ 24 + t.trigs.length * 2 ^ 32),
   (off + 8, t.src.toNat), (off + 16, t.dst.toNat), (off + 24, t.n), (off + 32, t.ctr), (off + 40, t.cursor), (off + 48, t.stride)] ++
  (t.trigs.mapIdx fun i g => [(off + 64 + 16 * i, g.thr), (off + 72 + 16 * i, g.job)]).flatten ++ groupWords (streamGroup n) t.grp
def streamAt (rd : Nat → Nat) (n : Nat) : Stream :=
  let off := 0x400 + 128 * n
  let w := rd off
  ⟨streamOf (field w 0 8), wordAt rd (off + 8), wordAt rd (off + 16), BitVec.ofNat 2 (field w 16 2), BitVec.ofNat 2 (field w 18 2),
   rd (off + 24), BitVec.ofNat 5 (field w 8 5), rd (off + 32), rd (off + 40),
   (List.range (field w 32 3)).map fun i => ⟨rd (off + 64 + 16 * i), rd (off + 72 + 16 * i)⟩,
   if field w 21 1 = 1 then some (field w 24 5) else none, field w 20 1 == 1, groupAt rd (streamGroup n), rd (off + 48)⟩

/-! Control registers: 0x0_0800 and 0x0_0A00, in the order of R291. -/

def hartNos : List Nat := [0x000, 0x001, 0x004, 0x005, 0x010, 0x011, 0x012, 0x013, 0x063]
def aNos : List Nat := hartNos ++ [0x002, 0x003, 0x014, 0x015, 0x030, 0x031, 0x032, 0x033, 0x057, 0x073, 0x080, 0x081]
def xNos : List Nat := hartNos ++ [0x006, 0x020, 0x021, 0x022, 0x023, 0x024, 0x025, 0x040, 0x041, 0x042, 0x043, 0x044,
  0x050, 0x051, 0x052, 0x053, 0x054, 0x055, 0x056]

def State.ctlWords (s : State) (off : Nat) (h : Hart) (l : List Nat) : List AreaWord :=
  l.mapIdx fun i n => (off + 8 * i, (s.crGet h n).toNat)
/-- The bits that are not reserved in a register whose reserved bits its width does not leave out: the others read zero whatever the area
holds (R4, R294). -/
def areaMask (n : Nat) : Word :=
  match n with
  | 0x014 => recordMask
  | 0x015 => 0xE7
  | 0x030 => recordMask
  | 0x033 => 0xFF03
  | 0x073 => addrMask
  | 0x080 => rootMask
  | _ => BitVec.allOnes 64
def State.ctlPut (s : State) (rd : Nat → Nat) (off : Nat) (h : Hart) (l : List Nat) : State :=
  (l.zipIdx).foldl (fun s p => s.crPut h p.1 (wordAt rd (off + 8 * p.2) &&& areaMask p.1)) s
/-- The bits of a register's fields that an instruction can write. -/
def fieldBits (n : Nat) : Word := match crRow n with | some r => r.rw | none => 0
/-- R306: a value refused, whatever its reserved bits (R4), a space above 3 or a slice count above 4. -/
def ctlBad (rd : Nat → Nat) (off : Nat) (l : List Nat) : Bool :=
  (l.zipIdx).any fun p =>
    let v := wordAt rd (off + 8 * p.2)
    crRefuses p.1 (v &&& fieldBits p.1) || (p.1 == 0x002 && decide (3 < v.toNat)) || (p.1 == 0x020 && decide (4 < v.toNat))
def slicesAt (rd : Nat → Nat) : Nat := rd (0xA00 + 8 * 10)

/-! Windows, counts and matrix attachment state: 0x0_0C00. -/

def windowWords (i : Nat) : Option Window → List AreaWord
  | none => [(0xC00 + 24 * i, 0)]
  | some w => [(0xC00 + 24 * i, 1 + w.op.toNat * 2 ^ 8 + w.ty.toNat * 2 ^ 16), (0xC08 + 24 * i, w.base.toNat), (0xC10 + 24 * i, w.len + w.pool * 2 ^ 32)]
def windowAt (rd : Nat → Nat) (i : Nat) : Option Window :=
  let w := rd (0xC00 + 24 * i)
  let l := rd (0xC10 + 24 * i)
  if field w 0 1 = 1 then
    some ⟨wordAt rd (0xC08 + 24 * i), field l 0 32, field l 32 32, BitVec.ofNat 3 (field w 8 3), BitVec.ofNat 5 (field w 16 5)⟩
  else none

/-- Bytes packed low first. -/
def packBytes (n : Nat) (l : List Nat) : Nat := l.foldr (fun x v => x % 2 ^ n + 2 ^ n * v) 0
def flagBits (l : List Entry) : Nat := packBytes 1 (l.map fun e => ofBool e.flagged)
/-- The element count of a partial last entry, plus one. -/
def partOf (l : List Entry) : Nat := match l.getLast? with | some e => (match e.part with | some p => p + 1 | none => 0) | none => 0

def stateWords (c : Ctx) : List AreaWord :=
  let m := c.mx
  (c.wins.toList.mapIdx windowWords).flatten ++
  [(0xC60, c.bound.toNat), (0xC68, c.kf.toNat),
   (0xC70, packBytes 8 ((c.lq.toList ++ c.sq.toList).map List.length)),
   (0xC78, packBytes 8 [c.tqa.length, c.tqx.length, c.kq.length]),
   (0xC80, packBytes 8 ((c.lq.toList ++ c.sq.toList).map flagBits)), (0xC88, packBytes 1 (c.kq.map fun e => ofBool e.flagged)),
   (0xC90, packBytes 16 (c.lq.toList.map partOf)), (0xC98, packBytes 16 (c.sq.toList.map partOf)),
   (0xCA0, packBytes 16 [m.active.ty.toNat, m.active.rows.length, m.shadow.ty.toNat, m.shadow.rows.length]),
   (0xCA8, packBytes 16 [ofBool m.acc0.f64, m.acc0.sc, m.acc0.dc]), (0xCB0, packBytes 16 [ofBool m.acc1.f64, m.acc1.sc, m.acc1.dc]),
   (0xCB8, c.xc.statTag.toNat), (0xCC0, c.capX.toNat)] ++ wideWords 0xCC8 32 c.satP.toNat

/-! Masks, table, queues, group: 0x0_1000 to 0x0_7FFF, 0x2_0000 and 0x3_0000. -/

def maskWords (c : Ctx) : List AreaWord :=
  ((c.k.toList.mapIdx fun i m => if i = 0 then [] else wideWords (0x1000 + 256 * i) 32 m.toNat)).flatten
def tableWords (c : Ctx) : List AreaWord :=
  (c.xt.mapIdx fun i e => [(0x2000 + 32 * i, e.nsq.toNat), (0x2008 + 32 * i, e.loss.toNat + e.w.toNat * 2 ^ 32), (0x2010 + 32 * i, e.flags.toNat),
    (0x2018 + 32 * i, 0)]).flatten
def entryAt (rd : Nat → Nat) (i : Nat) : XEntry :=
  let w := rd (0x2008 + 32 * i)
  ⟨wordAt rd (0x2000 + 32 * i), BitVec.ofNat 32 w, BitVec.ofNat 32 (w / 2 ^ 32), BitVec.ofNat 8 (rd (0x2010 + 32 * i)) &&& 0x1F⟩
def queueWords (off : Nat) (qs : List (List Entry)) : List AreaWord :=
  (qs.mapIdx fun q l => (l.mapIdx fun i e => wideWords (off + 16384 * q + 2048 * i) 256 e.data.toNat).flatten).flatten
def queueAt (rd : Nat → Nat) (off q count flags part : Nat) : List Entry :=
  (List.range count).map fun i =>
    ⟨BitVec.ofNat 16384 (wideAt rd (off + 16384 * q + 2048 * i) 256), flags.testBit i, if part ≠ 0 ∧ i + 1 = count then some (part - 1) else none⟩
def tokenWords (c : Ctx) : List AreaWord :=
  listWords 0x4000 c.tqa ++ listWords 0x4100 c.tqx ++ (c.kq.mapIdx fun i e => wideWords (0x5000 + 256 * i) 32 e.bits.toNat).flatten

/-! Vector registers up to their marks (R69), accumulators, planes and the batch. -/

def vectorWords (c : Ctx) (hwm : Vector Nat 32) : List AreaWord :=
  ((c.v.toList.zip hwm.toList).mapIdx fun i p => wideWords (0x10000 + 2048 * i) (16 * p.2) p.1.toNat).flatten

/-- Where row `r` of a plane of a type stands, and its words. -/
def rowPlace (t : Reg) (off r : Nat) : Nat × Nat :=
  let per := (rowsPerSlice t).getD 1
  (off + r / per * 8192 + r % per * (8 * sewOf t), sewOf t)
def planeWords (off : Nat) (t : Reg) (rows : List VReg) : List AreaWord :=
  (rows.mapIdx fun r v => wideWords (rowPlace t off r).1 (rowPlace t off r).2 v.toNat).flatten
def rowsAt (rd : Nat → Nat) (off : Nat) (t : Reg) (n : Nat) : List VReg :=
  (List.range n).map fun r => BitVec.ofNat 16384 (wideAt rd (rowPlace t off r).1 (rowPlace t off r).2)
def planeAt (rd : Nat → Nat) (off ty n : Nat) : Plane := ⟨BitVec.ofNat 5 ty, rowsAt rd off (BitVec.ofNat 5 ty) n⟩
def activeOff : Nat := 0x48000
def shadowOff : Nat := 0x50000

/-- The rows of a batch are of a 16-bit type: the B rows stand in the shadow plane of slice 0 (R214), the A columns in their buffer. -/
def batchWords : Option Batch → List AreaWord
  | none => [(0x58000, 0)]
  | some b =>
    [(0x58000, packBytes 8 [1, ofBool b.token, b.bRows.length, b.aCols.length] + b.pushed * 2 ^ 32)] ++
    (b.ks.mapIdx fun i k => (0x58008 + 8 * i, k)) ++ (b.sig.mapIdx fun i g => (0x58088 + 8 * i, g.toNat)) ++
    planeWords shadowOff 8 b.bRows ++ (b.aCols.mapIdx fun i v => wideWords (0x58800 + 128 * i) 16 v.toNat).flatten
def batchAt (rd : Nat → Nat) : Option Batch :=
  let w := rd 0x58000
  if field w 0 8 = 0 then none
  else some ⟨(List.range 16).map fun i => rd (0x58008 + 8 * i), (List.range 16).map fun i => BitVec.ofNat 32 (rd (0x58088 + 8 * i)),
    field w 8 1 == 1, field w 32 32, rowsAt rd shadowOff 8 (field w 16 8),
    (List.range (field w 24 8)).map fun i => BitVec.ofNat 16384 (wideAt rd (0x58800 + 128 * i) 16)⟩

/-- The accumulators, and the planes in all 8,192 bytes of each held slice, zero where no row stands. -/
def matrixWords (slices : Nat) (m : Matrix) : List AreaWord :=
  wideWords 0x40000 2048 m.acc0.data.toNat ++ wideWords 0x44000 2048 m.acc1.data.toNat ++
    wideWords activeOff (1024 * slices) 0 ++ wideWords shadowOff (1024 * slices) 0 ++ planeWords activeOff m.active.ty m.active.rows ++ planeWords shadowOff m.shadow.ty m.shadow.rows ++ batchWords m.batch

/-! The whole context. -/

/-- What `ctxsave` writes: the context as it stands for the interrupted harts, in ascending rows of R165. -/
def State.areaWords (s : State) (c : Ctx) : List AreaWord :=
  let s := s.setCtx c
  baseWords c ++ (c.streams.toList.mapIdx streamWords).flatten ++ s.ctlWords 0x800 .A aNos ++ s.ctlWords 0xA00 .X xNos ++ stateWords c ++
    maskWords c ++ tableWords c ++ tokenWords c ++ groupWords 0x6000 c.grp ++ vectorWords c s.b.hwm ++ queueWords 0x20000 c.lq.toList ++
    queueWords 0x30000 c.sq.toList ++ matrixWords c.xc.mgrant.toNat c.mx

/-- R306's checks. -/
def areaBad (rd : Nat → Nat) : Bool :=
  ctlBad rd 0x800 aNos || ctlBad rd 0xA00 xNos || decide (Config.grantDepth < rd 0x270) ||
  ((List.range 8).any fun i => decide (Config.vqDepth < field (rd 0xC70) (8 * i) 8)) ||
  decide (Config.tokDepth < field (rd 0xC78) 0 8) || decide (Config.tokDepth < field (rd 0xC78) 8 8) ||
  decide (Config.kqDepth < field (rd 0xC78) 16 8) || (List.range 8).any fun i => decide (4 < field (rd (0x400 + 128 * i)) 0 8)

/-- The context that an area holds: a0, x0 and k0 read zero whatever it holds (R4). The size of the example table is the task's. -/
def State.areaCtx (s : State) (rd : Nat → Nat) : Ctx :=
  let c0 := s.b.ctx
  let w := rd 0x258
  let counts := rd 0xC70
  let flags := rd 0xC80
  let queue (off base q : Nat) (parts : Nat) : List Entry :=
    queueAt rd off q (field counts (8 * (base + q)) 8) (field flags (8 * (base + q)) 8) (field (rd parts) (16 * q) 16)
  let mw := rd 0xCA0
  let acc (off st : Nat) : Acc := ⟨field (rd st) 0 16 == 1, BitVec.ofNat 131072 (wideAt rd off 2048), field (rd st) 16 16, field (rd st) 32 16⟩
  let c : Ctx := { c0 with
    a := .ofFn fun i => if i.val = 0 then 0 else wordAt rd (8 * i.val)
    sh := .ofFn fun i => wordAt rd (0x100 + 8 * i.val)
    x := .ofFn fun i => if i.val = 0 then 0 else wordAt rd (0x140 + 8 * i.val)
    v := .ofFn fun i => BitVec.ofNat 16384 (wideAt rd (0x10000 + 2048 * i.val) 256)
    k := .ofFn fun i => if i.val = 0 then 0 else BitVec.ofNat 2048 (wideAt rd (0x1000 + 256 * i.val) 32)
    kf := BitVec.ofNat 16 (rd 0xC68)
    lq := .ofFn fun i => queue 0x20000 0 i.val 0xC90
    sq := .ofFn fun i => queue 0x30000 4 i.val 0xC98
    tqa := listAt rd 0x4000 (field (rd 0xC78) 0 8)
    tqx := listAt rd 0x4100 (field (rd 0xC78) 8 8)
    kq := (List.range (field (rd 0xC78) 16 8)).map fun i => ⟨BitVec.ofNat 2048 (wideAt rd (0x5000 + 256 * i) 32), (rd 0xC88).testBit i⟩
    capX := BitVec.ofNat 12 (rd 0xCC0)
    bound := BitVec.ofNat 32 (rd 0xC60)
    grants := (List.range (rd 0x270)).map (grantAt rd)
    streams := .ofFn fun i => streamAt rd i.val
    landEn := BitVec.ofNat 8 (field w 0 8)
    landPend := BitVec.ofNat 8 (field w 8 8)
    retLatch := wordAt rd 0x250
    inLand := field w 16 1 == 1
    wins := .ofFn fun i => windowAt rd i.val
    grp := groupAt rd 0x6000
    xt := (List.range c0.xt.length).map (entryAt rd)
    mx := ⟨planeAt rd activeOff (field mw 0 16) (field mw 16 16), planeAt rd shadowOff (field mw 32 16) (field mw 48 16),
      acc 0x40000 0xCA8, acc 0x44000 0xCB0, batchAt rd⟩
    pcA := wordAt rd 0x240
    pcX := wordAt rd 0x248
    endA := field w 17 1 == 1
    endX := field w 18 1 == 1
    curA := rd 0x260
    curX := rd 0x268
    satP := BitVec.ofNat 2048 (wideAt rd 0xCC8 32) }
  let t := ((s.setCtx c).ctlPut rd 0x800 .A aNos).ctlPut rd 0xA00 .X xNos
  { t.b.ctx with xc := { t.b.ctx.xc with mgrant := BitVec.ofNat 3 (slicesAt rd), statTag := BitVec.ofNat 1 (rd 0xCB8) } }

/-! Access to the area: no footprint check, for R31 does not name it. -/

/-- The key of a word of the area. -/
def State.areaKey (s : State) (va : Nat) (k : Kind) : Except Nat (Nat × State) :=
  if 2 ^ 57 ≤ va then .error 6 else s.access s.ownXlate 0 va 8 k true

/-- Writes words in order; a fault leaves those before it written. -/
def saveWords (base : Nat) : List AreaWord → State → Except (State × Nat × Nat) State
  | [], s => .ok s
  | w :: r, s => match s.areaKey (base + w.1) .store with
    | .error c => .error (s, c, base + w.1)
    | .ok (key, t) => saveWords base r (t.writeMem key 8 w.2)

/-- Every word of the area can be read: the first that cannot, with its cause. -/
def checkArea (base : Nat) : List Nat → State → Except (Nat × Nat) State
  | [], s => .ok s
  | i :: r, s => match s.areaKey (base + 8 * i) .load with
    | .error c => .error (c, base + 8 * i)
    | .ok (_, t) => checkArea base r t

/-- The words of an area whose every word can be read. -/
def State.areaRead (s : State) (base off : Nat) : Nat :=
  match s.areaKey (base + off) .load with
  | .ok (key, _) => s.readMem key 8
  | .error _ => 0

/-! The instructions. -/

/-- R167's checks. -/
def State.ctxIssue (s : State) (a : Reg) (k : State → Word → Res) : Host.Outcome State Fault Refusal :=
  (s.issue .onlyA .system false false fun s =>
    if !s.sysMode then .trap s 1 0
    else if (s.aReg a).toNat % 0x10000 ≠ 0 then .trap s 3 (s.aReg a)
    else k s.drainOut.cacheFlush (s.aReg a)).settle

/-- R167: the context of the interrupted harts as it stood at trap entry, with the resume address of the trapping hart; what is no hart's
work has gone on: the streams, the pending landings and `cstat` (log entry 50). -/
def State.heldCtx (s : State) : Ctx :=
  match s.b.entryCtx with
  | some c => { c with streams := s.b.ctx.streams, landPend := s.b.ctx.landPend, ac := { c.ac with cstat := s.b.ctx.ac.cstat } }
  | none => if s.b.status.getLsbD 9 then { s.b.ctx with pcX := s.b.epc } else { s.b.ctx with pcA := s.b.epc }

/-- `ctxsave`: the context written and the marks cleared. -/
def State.save (s : State) (va : Word) (k : State → Res) : Res :=
  match saveWords va.toNat (s.areaWords s.heldCtx) s with
  | .error (t, c, x) => .trap t c (BitVec.ofNat 64 x)
  | .ok t => k (t.mapB fun b => { b with hwm := .replicate 32 0 })

def execCtxsave (a : Reg) (s : State) : Host.Outcome State Fault Refusal :=
  s.ctxIssue a fun s va => s.save va fun s => .done s.retire

/-- R167: the braid leaves its core, with the privilege and the interrupt enable it had before the trap (R206: the alias table is
lost). -/
def State.leaveCore (s : State) (area : Word) : State :=
  let held := s.heldCtx
  let t := s.leaveHandler.mapB fun b =>
    { b with
      ctx := held, live := false, left := true, savedAt := some area.toNat, tab := .init, waitA := none, waitX := none
      monitor := false, atRel := none, agreedA := false, agreedX := false, memDone := 0, loaded := none, askAge := none, irq32 := false }
  t.gangLeft t.b.task

def execCtxsaveLeave (a : Reg) (s : State) : Host.Outcome State Fault Refusal :=
  s.ctxIssue a fun s va => s.save va fun s => .done (s.retire.leaveCore va)

/-- R307: slices given back or taken until the braid holds `n`, or the wait. -/
def State.reattach (s : State) (n : Nat) : Option State :=
  if s.b.ctx.xc.mgrant.toNat + s.slicesFor true < n then none
  else some (s.mapB fun b => { b with askAge := none, ctx := { b.ctx with xc := { b.ctx.xc with mgrant := BitVec.ofNat 3 n } } })

def execCtxload (a : Reg) (s : State) : Host.Outcome State Fault Refusal :=
  s.ctxIssue a fun s va =>
    match checkArea va.toNat (List.range (areaSize / 8)) s with
    | .error (c, x) => .trap s c (BitVec.ofNat 64 x)
    | .ok t =>
      let rd := t.areaRead va.toNat
      if areaBad rd then .trap t 1 0
      else
        let c := t.areaCtx rd
        match t.reattach (slicesAt rd) with
        | none => .wait t.ask (.reattach (slicesAt rd))
        | some u => .done (u.mapB fun b => { b with loaded := some c, hwm := .replicate 32 0 }).retire

end Sys2Proof.Machine
end

