-- ==== Sys2Proof/Machine/HostPort.lean ====
section
/-! DEFINITION. The host endpoint (spec/21 R255-R260, R264): launch windows, aperture, doorbell, mailboxes, module state. -/

namespace Sys2Proof.Machine

/-- R264: host writes to BAR0 act once a start has entered service. -/
def State.inService (s : State) : Bool := s.modState == 1
def State.reply (s : State) (r : Option Nat) : State := { s with hostReplies := s.hostReplies ++ [r] }

/-! Launch windows (R256). -/

/-- R256, R259: err is set, and vector 3 says so if it was not set. -/
def State.setErr (s : State) (q : BitVec 6) : State :=
  if s.winErr.getLsbD q.toNat then s
  else { s with winErr := s.winErr ||| ((1 : BitVec 64) <<< q.toNat), msix := s.msix ++ [3] }

/-- R256, R32: bits [56:0] of the value are pushed, or err is set. -/
def State.windowPush (s : State) (q : BitVec 6) (v : Word) : State :=
  let va := v &&& lowAddr
  if va.toNat % 256 ≠ 0 ∨ !s.inService then s.setErr q
  else
    let r := s.pushCard q va s.aproot s.apasn none true
    if r.2 = 0 then r.1 else s.setErr q
where
  lowAddr : Word := 0x01FFFFFFFFFFFFFF

def State.windowClear (s : State) (q : BitVec 6) : State := { s with winErr := s.winErr &&& ~~~((1 : BitVec 64) <<< q.toNat) }

/-- R256: a write to a launch window. In management-only service a push is refused (R263), and before that nothing acts (R264). -/
def State.windowWrite (s : State) (q : BitVec 6) (v : Word) : State :=
  if s.modState = 0 then s
  else if !v.getLsbD 63 then s.windowPush q v
  else if s.inService then s.windowClear q else s

def execHostLaunchPush (q : BitVec 6) (v : Word) (s : State) : Host.Outcome State Fault Refusal := .next (s.windowWrite q v)
def execLaunchWindowErrClear (q : BitVec 6) (v : Word) (s : State) : Host.Outcome State Fault Refusal := .next (s.windowWrite q v)

/-- R256: what a launch window reads. -/
def State.windowValue (s : State) (q : BitVec 6) : Nat :=
  (if s.winErr.getLsbD q.toNat then 2 ^ 63 else 0) +
    ((s.cards.filter fun c => c.q == q.toNat).length + (s.tasks.filter fun t => t.q == q.toNat && t.st == .waiting).length)

/-! Doorbell (R258). -/

/-- The card priority and the moment of dispatch of a braid's task. -/
def State.rankOf (s : State) (b : Braid) : Nat × Nat := match s.task? b.task with | some t => (t.prio0, t.started) | none => (0, 0)
/-- The braid of a list with the highest card priority, dispatched earliest among equals. -/
def State.best (s : State) : List Braid → Option Braid
  | [] => none
  | b :: r => match s.best r with
    | none => some b
    | some c =>
      let x := s.rankOf b
      let y := s.rankOf c
      if y.1 < x.1 ∨ (x.1 = y.1 ∧ x.2 ≤ y.2) then some b else some c

/-- The braid's gang is being pre-empted. -/
def State.leaving (s : State) (b : Braid) : Bool := match s.task? b.task with | some t => t.st == .preempting | none => false

/-- Interrupt 34 for a core: delivered, or pending there; a braid whose gang is being pre-empted is passed over (R258). -/
def State.ring (s : State) (core : Nat) : State :=
  match s.best (s.braids.filter fun b => b.live && b.core == core && !s.leaving b) with
  | some b => s.mapBraids fun c => if s.together b.id c then { c with irq34 := true } else c
  | none => if s.pend34.contains core then s else { s with pend34 := s.pend34 ++ [core] }

def State.doorbellWrite (s : State) (v : Word) : State :=
  if !s.inService || decide (Config.cores ≤ v.toNat) then s else s.ring v.toNat

def execDoorbell (v : Word) (s : State) : Host.Outcome State Fault Refusal := .next (s.doorbellWrite v)

/-! Aperture (R257). -/

/-- Bits [56:36]. -/
def apertureMask : Word := 0x01FFFFF000000000
def State.apertureBase (s : State) (v : Word) : State := if s.inService then { s with apBase := v &&& apertureMask } else s
def execApertureBaseWrite (v : Word) (s : State) : Host.Outcome State Fault Refusal := .next (s.apertureBase v)

/-- The aperture's context: the table and ASN that system software installed; not at user level (log entry 31). -/
def State.apertureXlate (s : State) : Xlate := ⟨none, s.aproot.toNat, s.apasn, false⟩

/-- The parts of a range in pages of 64 KiB, each an address and a length. -/
def pagePieces : Nat → Nat → Nat → List (Nat × Nat)
  | 0, _, _ => []
  | f + 1, va, n => if n = 0 then [] else
      let k := min n (0x10000 - va % 0x10000)
      (va, k) :: pagePieces f (va + k) (n - k)

/-- The keys of the parts, or none if one of them fails. -/
def State.pieceKeys (k : Kind) : List (Nat × Nat) → State → Option (State × List (Nat × Nat))
  | [], s => some (s, [])
  | (va, n) :: r, s =>
    if 2 ^ 57 < va + n then none
    else match s.access s.apertureXlate 0 va n k false with
      | .error _ => none
      | .ok (key, t) => match State.pieceKeys k r t with
        | none => none
        | some (u, l) => some (u, (key, n) :: l)

/-- APERTURE_ACCESS: a host access at a BAR2 offset. A failed one is answered as an unsupported request and does nothing. -/
def execApertureAccess (off size : Nat) (w : Option Nat) (s : State) : Host.Outcome State Fault Refusal :=
  let va := s.apBase.toNat + off
  if 2 ^ 36 < off + size ∨ size = 0 then .next (s.reply none)
  else match State.pieceKeys (if w.isSome then .store else .load) (pagePieces (size / 0x10000 + 2) va size) s with
    | none => .next (s.reply none)
    | some (t, ps) => match w with
      | some v => .next (ps.foldl (fun (p : State × Nat) q => (p.1.writeMem q.1 q.2 p.2, p.2 / 2 ^ (8 * q.2))) (t, v)).1
      | none => .next (t.reply (some (ps.foldr (fun q v => t.readMem q.1 q.2 + 2 ^ (8 * q.2) * v) 0)))

/-! Mailboxes (R260) and the other registers (R255). -/

/-- Writes of the host-to-device mailbox; those to the other half are discarded. -/
def State.mailboxWrite (s : State) (off : Nat) (v : Word) : State :=
  if s.inService && off % 8 == 0 && decide (0x1000 ≤ off ∧ off < 0x1800) then s.writeMem (windowBase + (off - 0x1000)) 8 v.toNat else s

def execHostMailboxWrite (off : Nat) (v : Word) (s : State) : Host.Outcome State Fault Refusal := .next (s.mailboxWrite off v)

/-- What an aligned read returns; all ones where no register of R255 is read (log entry 32). -/
def State.bar0Read (s : State) (off : Nat) : Nat :=
  if off < 0x200 then s.windowValue (BitVec.ofNat 6 (off / 8))
  else if 0x1000 ≤ off ∧ off < 0x2000 then s.readMem (windowBase + (off - 0x1000)) 8
  else if off = 0x2008 then s.apBase.toNat
  else if off = 0x2010 then s.modState.toNat
  else 2 ^ 64 - 1

/-- A write acts where R255 has a register that a write changes, and is discarded elsewhere. -/
def State.bar0Write (s : State) (off : Nat) (v : Word) : State :=
  if off < 0x200 then s.windowWrite (BitVec.ofNat 6 (off / 8)) v
  else if off = 0x2000 then s.doorbellWrite v
  else if off = 0x2008 then s.apertureBase v
  else s.mailboxWrite off v

/-- HOST_REGISTER_WRITE: any BAR0 access; one that is not of 8 aligned bytes is discarded, and its read returns all ones. -/
def execHostRegisterWrite (off size : Nat) (w : Option Word) (s : State) : Host.Outcome State Fault Refusal :=
  if size ≠ 8 ∨ off % 8 ≠ 0 ∨ 0x4000 ≤ off then
    match w with
    | some _ => .next s
    | none => .next (s.reply (some (2 ^ (8 * size) - 1)))
  else match w with
    | some v => .next (s.bar0Write off v)
    | none => .next (s.reply (some (s.bar0Read off)))

end Sys2Proof.Machine
end

