-- ==== Sys2Proof/Machine/Gang.lean ====
section
/-! DEFINITION. The dispatcher (spec/03 R25-R45, spec/09 R148-R151, R166, R168): cards, placement, dispatch, pre-emption, resumption,
aging and completion. -/

namespace Sys2Proof.Machine

/-! Reading a card (R25-R29, R148). -/

/-- The card's context; the dispatcher is not at user level (log entry 31). -/
def CardRef.xlate (c : CardRef) : Xlate := ⟨none, c.root.toNat, c.asn, false⟩

/-- The bytes of `n` words from an address, or none if one of them cannot be read. -/
def State.cardBytes (s : State) (x : Xlate) (va : Nat) : Nat → Option (State × List Byte)
  | 0 => some (s, [])
  | n + 1 => match s.cardBytes x va n with
    | none => none
    | some (t, l) =>
      if 2 ^ 57 ≤ va + 8 * n then none
      else match t.access x 0 (va + 8 * n) 8 .load false with
        | .error _ => none
        | .ok (key, u) => some (u, l ++ toBytes 8 (u.readMem key 8))

def control (c : List Byte) : Nat := fieldAt c 80 8
def ctlNcores (c : List Byte) : Nat := field (control c) 0 10
def ctlCanon (c : List Byte) : Nat := field (control c) 16 16
def ctlReps (c : List Byte) : Nat := field (control c) 32 2
def ctlBit (c : List Byte) (i : Nat) : Bool := (control c).testBit i
def ctlXsize (c : List Byte) : Nat := field (control c) 48 9
/-- The control word's reserved bits are zero. -/
def ctlReserved (c : List Byte) : Bool :=
  field (control c) 57 7 == 0 && field (control c) 43 5 == 0 && field (control c) 38 2 == 0 && field (control c) 10 6 == 0

def levelAt (c : List Byte) (i : Nat) : LevelRec := ⟨fieldAt c (16 + 16 * i) 8, fieldAt c (24 + 16 * i) 4, byteAt c (28 + 16 * i)⟩
def cardLevels (c : List Byte) : List LevelRec := (List.range 4).map (levelAt c)
/-- R26 for a level: a used one in its ranges, an unused one zero. -/
def levelOk (c : List Byte) (i : Nat) : Bool :=
  let l := levelAt c i
  zeroBytes c (29 + 16 * i) (32 + 16 * i) &&
  (if l.kind = 0 then l.extent == 0 && l.strip == 0
   else decide (l.kind ≤ 3 ∧ 1 ≤ l.extent ∧ l.extent ≤ 2 ^ 48 ∧ 1 ≤ l.strip) && (l.kind != 3 || i == 0))
/-- Unused levels follow every used one. -/
def levelsOrdered : List LevelRec → Bool
  | [] => true
  | l :: r => (l.kind != 0 || r.all fun m => m.kind == 0) && levelsOrdered r

def regionAt (c : List Byte) (i : Nat) : Region :=
  let w := fieldAt c (128 + 16 * i) 8
  ⟨field w 0 57, fieldAt c (136 + 16 * i) 8, field w 62 2⟩
/-- R28 for a record. -/
def regionOk (c : List Byte) (i : Nat) : Bool :=
  let r := regionAt c i
  field (fieldAt c (128 + 16 * i) 8) 57 5 == 0 && (r.mode == 0 || decide (1 ≤ r.len ∧ r.len ≤ 2 ^ 57 - r.base))
def cardFootprint (c : List Byte) : List Region := ((List.range 8).map (regionAt c)).filter fun r => r.mode != 0

/-- The task of a card, as yet waiting. An inheriting child has its parent's footprint and domain (R41). -/
def State.cardTask (s : State) (r : CardRef) (c : List Byte) : Task :=
  let parent := r.parent.bind s.task?
  let inh := ctlBit c 37
  let dom : BitVec 64 := BitVec.ofNat 64 (fieldAt c 96 8)
  { id := s.nextId, q := r.q, aentry := BitVec.ofNat 64 (fieldAt c 0 8), xentry := BitVec.ofNat 64 (fieldAt c 8 8)
    levels := (cardLevels c).filter fun l => l.kind != 0, xsize := ctlXsize c, prio0 := field (control c) 40 3, boost := 0, losses := 0
    inherit_ := inh, hostint := ctlBit c 36, check := ctlBit c 35, det := ctlBit c 34, reps := ctlReps c, canon := ctlCanon c
    ncores := ctlNcores c, cword := fieldAt c 88 8
    domain := match inh, parent with
      | true, some p => p.domain
      | _, _ => if dom = 0 then (1 : BitVec 64) <<< r.q else dom
    regions := match inh, parent with
      | true, some p => p.regions
      | _, _ => cardFootprint c
    root := r.root, asn := r.asn, parent := r.parent, age := r.age, started := 0, st := .waiting
    loops := .replicate 16 .init, failed := none }

/-- R29. -/
def cardAccepted (t : Task) (c : List Byte) (host : Bool) : Bool :=
  let d := t.dies
  ctlReserved c && zeroBytes c 104 128 && decide (fieldAt c 0 8 % 4 = 0 ∧ fieldAt c 8 8 % 4 = 0 ∧ t.cword % 8 = 0) &&
  (List.range 4).all (levelOk c) && levelsOrdered (cardLevels c) &&
  decide (1 ≤ t.ncores ∧ t.ncores ≤ 640 ∧ 1 ≤ t.reps ∧ t.xsize ≤ 256) && (!t.det || decide (1 ≤ t.canon)) &&
  (t.inherit_ || (List.range 8).all (regionOk c)) &&
  (d == 1 || d == 2 || d == 4) && decide (t.ncores % d = 0 ∧ t.ncores * t.reps ≤ 640) &&
  (!(t.levels.any fun l => l.kind == 3) || decide (t.ncores / d ≤ 160)) && (t.reps != 3 || d == 1) &&
  (!t.det || decide (t.canon % d = 0)) && !(host && t.inherit_)

/-- The host's interrupt of a completion (R259). -/
def State.hostInt (s : State) (on : Bool) : State := if on then { s with msix := s.msix ++ [0] } else s

def dropCard (r : CardRef) (l : List CardRef) : List CardRef := l.filter fun c => c.age != r.age

/-- CARD_READ (R148): the card at the head of a queue, behind no task that is not dispatched. Where a card is rejected for its completion
word's own alignment, no outcome can be stored there (log entry 64). -/
def execCardRead (q : BitVec 6) (s : State) : Host.Outcome State Fault Refusal :=
  match s.nextCard q.toNat with
  | none => .next s
  | some r =>
    let s := { s with cards := dropCard r s.cards }
    match s.cardBytes r.xlate r.addr.toNat 32 with
    | none => .next s.health
    | some (u, c) =>
      let t := u.cardTask r c
      if cardAccepted t c r.host then .next { u with tasks := u.tasks ++ [t], nextId := u.nextId + 1 }
      else .next ((u.completionWord r.root r.asn t.cword 2).hostInt t.hostint)

/-! Room (R36, R149). -/

/-- Resident braids of a core but those of some tasks. -/
def State.residents (s : State) (without : List Nat) (core : Nat) : Nat :=
  (s.braids.filter fun b => b.live && b.core == core && !without.contains b.task).length
/-- A core in service with fewer than 4 resident braids. -/
def State.coreFree (s : State) (without : List Nat) (core : Nat) : Bool :=
  decide (core < Config.cores) && !s.outQuads.contains (quadOf core) && decide (s.residents without core < 4)
def State.freeOnDie (s : State) (without : List Nat) (die : Nat) : Nat :=
  ((List.range Config.dieCores).filter fun i => s.coreFree without (die * Config.dieCores + i)).length

/-- A task with a level of kind 3 keeps each die group on one die (R36). -/
def Task.byDie (t : Task) : Bool := t.levels.any fun l => l.kind == 3

/-- Lists of `n` dies. -/
def dieChoices : Nat → List (List Nat)
  | 0 => [[]]
  | n + 1 => (dieChoices n).flatMap fun l => [0, 1, 2, 3].map fun d => d :: l

/-- Dies for the groups of all replicas, group after group within each replica: distinct within a replica, and for one group over the
replicas. -/
def groupsDistinct (d reps : Nat) (l : List Nat) : Bool :=
  (List.range reps).all fun r =>
    distinct ((l.drop (r * d)).take d) &&
    (List.range d).all fun g => (List.range r).all fun r' => l.getD (r * d + g) 0 != l.getD (r' * d + g) 0

/-- R149: there are cores for the gang, placed as R36 requires. -/
def State.placeable (s : State) (without : List Nat) (t : Task) : Bool :=
  if t.byDie then
    (dieChoices (t.dies * t.reps)).any fun l => groupsDistinct t.dies t.reps l &&
      [0, 1, 2, 3].all fun die => decide ((l.filter (· == die)).length * t.perGroup ≤ s.freeOnDie without die)
  else
    -- with at most one braid of each number on a die
    let room := [0, 1, 2, 3].foldl (fun n die => n + min (s.freeOnDie without die) (if t.reps = 1 then 640 else t.ncores)) 0
    decide (t.ncores * t.reps ≤ room)

/-- Braids of a task, resident or saved. -/
def State.gang (s : State) (t : Nat) : List Braid := s.braids.filter fun b => b.task == t && (b.live || b.left)

/-- R149 for a gang that resumes on its own cores: room there, and the slices that its braids held. -/
def State.resumable (s : State) (without : List Nat) (t : Task) : Bool :=
  let g := s.gang t.id
  g.all fun b => s.coreFree without b.core &&
    decide ((g.filter fun c => quadOf c.core == quadOf b.core).foldl (fun n c => n + c.ctx.xc.mgrant.toNat) 0 +
      ((s.braids.filter fun c => c.live && quadOf c.core == quadOf b.core && !without.contains c.task).foldl
        (fun n c => n + c.ctx.xc.mgrant.toNat) 0) ≤ 4)

def State.hasRoom (s : State) (without : List Nat) (t : Task) : Bool :=
  if t.st = .preempted then s.resumable without t else s.placeable without t

/-! Choice (R148). -/

def Task.prio (t : Task) : Nat := min 7 (t.prio0 + t.boost)
/-- A task that waits for nothing but room. -/
def State.ready (s : State) (t : Task) : Bool :=
  (t.st == .waiting && !s.taskBlocked t) || (t.st == .preempted && t.failed.isNone)
def before (t u : Task) : Bool := decide (u.prio < t.prio ∨ (t.prio = u.prio ∧ t.age < u.age))

/-- R16: a task that waits and that the cores still in service could not hold even if they were empty. -/
def State.hopeless (s : State) (t : Task) : Bool := t.st == .waiting && !s.placeable (s.tasks.map (·.id)) t
/-- A task that a dispatch decision can take now. -/
def State.dispatchable (s : State) (t : Task) : Bool := s.ready t && (s.hasRoom [] t || s.hopeless t)

/-- The task is the one a dispatch decision takes, with no other such task before it. -/
def State.chosen (s : State) (t : Task) : Bool :=
  s.inService && s.dispatchable t && !(s.tasks.any fun u => before u t && s.dispatchable u)

/-- The other ready tasks have lost the decision (R45). -/
def State.decision (s : State) (t : Task) : State :=
  { s with tasks := s.tasks.map fun u => if u.id != t.id && s.ready u then { u with losses := u.losses + 1 } else u }

/-! Dispatch (R36, R166). -/

/-- The cores of a gang in the order of its braids, replica after replica, as R36 requires. -/
def State.placementOk (s : State) (t : Task) (cores : List Nat) : Bool :=
  let n := t.ncores
  cores.length == n * t.reps && distinct cores && cores.all (s.coreFree []) &&
  (List.range n).all (fun c => distinct ((List.range t.reps).map fun r => dieOf (cores.getD (r * n + c) 0))) &&
  (!t.byDie ||
    (let dies := (List.range t.reps).flatMap fun r => (List.range t.dies).map fun g => dieOf (cores.getD (r * n + g * t.perGroup) 0)
     groupsDistinct t.dies t.reps dies &&
     (List.range (n * t.reps)).all fun i => dieOf (cores.getD i 0) == dies.getD (i / n * t.dies + i % n / t.perGroup) 0))

/-- A braid of a task at dispatch. No rule of a card bounds bits [63:57] of an entry: they are kept, and the hart's first fetch raises cause
6 (R97, log entry 63). -/
def Task.braid (t : Task) (id core idx rep : Nat) : Braid :=
  let c : Ctx := { Ctx.init with
    ac := { ARegs.init with pgroot := t.root, asn := t.asn }, pcA := t.aentry, pcX := t.xentry
    xt := .replicate t.xsize .init }
  ({ Braid.init with ctx := c, id := id, live := true, core := core, task := t.id, idx := idx, rep := rep } : Braid).checkpoint

/-- R16: a task that cannot be placed completes at dispatch with outcome 3 and cause 0. -/
def State.completeUnplaced (s : State) (t : Task) : State :=
  ((s.completionWord t.root t.asn t.cword 3).mapTask t.id fun t => { t with st := .done, failed := some 0 }).hostInt t.hostint

/-- GANG_DISPATCH: the gang's braids become resident together. Sets form where the card asks for replicas (R241). -/
def execGangDispatch (id : Nat) (cores : List Nat) (s : State) : Host.Outcome State Fault Refusal :=
  match s.task? id with
  | none => .next s
  | some t =>
    if t.st = .waiting ∧ s.chosen t ∧ s.hopeless t then .next ((s.decision t).completeUnplaced t)
    else if t.st = .waiting ∧ s.chosen t ∧ s.placementOk t cores then
      let s := s.decision t
      let bs := cores.mapIdx fun i core => t.braid (s.nextId + i) core (i % t.ncores) (i / t.ncores)
      let sets := if t.reps < 2 then [] else (List.range t.ncores).map fun c =>
        ({ task := id, idx := c, members := (List.range t.reps).map fun r => (s.nextId + r * t.ncores + c, r), leader := 0, rel := 0
           degraded := false, failed := [], logA := [], logX := [], pairs := [], trims := [], logF := [], stop := none
           count0 := t.reps, deg0 := false } : RSet)
      let s := s.mapTask id fun t => { t with st := .running, started := s.age }
      let s := { s with rest := s.rest ++ bs, sets := s.sets ++ sets, nextId := s.nextId + cores.length, age := s.age + 1 }
      .next (bs.foldl (fun s b => s.arrive b.id b.core) s)
    else .next s

/-! Aging (R45). -/

def agingLosses : Nat := 2 ^ 24

/-- The rule does not say whether what a task has gained outlasts its dispatch: its levels and losses stay with it, also over a pre-emption
(log entry 76). -/
def execPriorityAging (id : Nat) (s : State) : Host.Outcome State Fault Refusal :=
  .next (s.mapTask id fun t =>
    if agingLosses ≤ t.losses then { t with losses := t.losses - agingLosses, boost := if t.prio < 7 then t.boost + 1 else t.boost } else t)

/-! Pre-emption (R150, R151). -/

def victimBefore (t u : Task) : Bool := decide (t.prio0 < u.prio0 ∨ (t.prio0 = u.prio0 ∧ u.started < t.started))
def insertVictim (t : Task) : List Task → List Task
  | [] => [t]
  | u :: r => if victimBefore t u then t :: u :: r else u :: insertVictim t r

/-- Victims in order until there would be room; none if all of them would not do. -/
def State.takeVictims (s : State) (t : Task) : List Task → List Nat → Option (List Nat)
  | [], _ => none
  | v :: r, taken => if s.hasRoom (v.id :: taken) t then some (v.id :: taken) else s.takeVictims t r (v.id :: taken)

/-- R151: a set is to stop at the largest counts that its members report now; one that stands there already is released. -/
def State.stopSet (s : State) (r : RSet) : State :=
  let r := { r with stop := some (s.furthest r .A, s.furthest r .X) }
  let t := s.mapSet r fun q => { q with stop := r.stop }
  if (t.releasing r).isNone && t.atStop r then t.forceRelease r else t

/-- GANG_PREEMPT: interrupt 32 at every braid of each victim. Gangs already being pre-empted count as gone. A set runs to the largest counts
of its members, releases there, and takes the interrupt (R151); one that is at a release takes it at that one. -/
def execGangPreempt (id : Nat) (s : State) : Host.Outcome State Fault Refusal :=
  match s.task? id with
  | none => .next s
  | some t =>
    let going := (s.tasks.filter fun u => u.st == .preempting).map (·.id)
    if !s.inService || !s.ready t || s.hasRoom going t then .next s
    else
      let can := (s.tasks.filter fun u => u.st == .running && decide (u.prio0 < t.prio)).foldr insertVictim []
      match s.takeVictims t can going with
      | none => .next s
      | some all =>
        let hit := all.filter fun v => !going.contains v
        let s : State := { s with tasks := s.tasks.map fun (u : Task) => if hit.contains u.id then { u with st := .preempting } else u }
        let s := s.mapBraids fun b => if b.live && hit.contains b.task then { b with irq32 := true } else b
        .next ((s.sets.filter fun r => hit.contains r.task).foldl State.stopSet s)

/-! Resumption (R168). -/

/-- A saved braid comes back with the context of its area; one that cannot be read keeps what it held. -/
def State.resumeBraid (s : State) (id : Nat) : State :=
  s.atBraid id fun s =>
    match s.b.savedAt with
    | none => s.mapB fun b => { b with live := true, left := false }
    | some a =>
      let back (t : State) (c : Ctx) : State := t.mapB fun b => { b with ctx := c, live := true, left := false, savedAt := none }
      match checkArea a (List.range (areaSize / 8)) (s.mapB fun b => { b with level := .system }) with
      | .error _ => back s s.b.ctx
      | .ok t =>
        let rd := t.areaRead a
        back (t.mapB fun b => { b with level := s.b.level }) (if areaBad rd then s.b.ctx else s.areaCtx rd)

/-- GANG_RESUME. A resumption counts as a dispatch for the order of victims (R150; log entry 90). -/
def execGangResume (id : Nat) (s : State) : Host.Outcome State Fault Refusal :=
  match s.task? id with
  | none => .next s
  | some t =>
    if t.st = .preempted ∧ s.chosen t then
      let g := s.gang id
      let s := (s.decision t).mapTask id fun t => { t with st := .running, started := s.age }
      let s := g.foldl (fun s b => (s.resumeBraid b.id).arrive b.id b.core) s
      .next { s with age := s.age + 1 }
    else .next s

/-! Completion (R44). -/

/-- A card in a launch queue whose memory now says that it inherits. -/
def State.cardInherits (s : State) (r : CardRef) : Bool :=
  match s.cardBytes r.xlate (r.addr.toNat + 80) 1 with
  | some (_, c) => (fieldAt c 0 8).testBit 37
  | none => false

/-- R44: nothing of the task is left: its braids and their stores, its owned jobs, its inheriting children. -/
def State.taskOver (s : State) (t : Task) : Bool :=
  t.st != .waiting && t.st != .done && (s.gang t.id).isEmpty && (s.braids.all fun b => b.task != t.id || b.out.isEmpty) &&
  !(s.jobs.any fun j => j.task == t.id && cardOwned j.card && j.unfinished) &&
  !(s.tasks.any fun u => u.parent == some t.id && u.inherit_ && u.st != .done) &&
  !(s.cards.any fun c => c.parent == some t.id && s.cardInherits c)

/-- TASK_COMPLETION. -/
def execTaskCompletion (id : Nat) (s : State) : Host.Outcome State Fault Refusal :=
  match s.task? id with
  | none => .next s
  | some t =>
    if s.taskOver t then
      let v := match t.failed with | some c => c * 256 + 3 | none => 1
      let s := (s.completionWord t.root t.asn t.cword v).mapTask id fun t => { t with st := .done }
      let s : State := { s with sets := s.sets.filter fun r => r.task != id }
      .next (s.hostInt t.hostint)
    else .next s

end Sys2Proof.Machine
end

