-- ==== Sys2Proof/Machine/Length.lean ====
section
/-! DEFINITION. Length grants and the memory space (spec/04 R48-R56, spec/25 R324). -/

namespace Sys2Proof.Machine

/-- R50: the grant of a request, apart from the stream trim. -/
def State.grantFor (s : State) (req : Word) (t : Reg) : Nat :=
  min req.toNat (min (maxVl s.b.ctx.vcap.toNat t) (s.laneBudget * egOf t))

/-- R48: at the X-hart's pair member the cap of its grant takes effect; bytes above the lower of the two caps are gone, and every
register's mark is its last EG. -/
def State.applyCap (s : State) (cap : BitVec 12) : State :=
  if s.b.ctx.capX = cap then s
  else
    let keep : VReg := BitVec.ofNat 16384 (2 ^ (8 * min cap.toNat s.b.ctx.capX.toNat) - 1)
    (s.mapCtx fun c => { c with capX := cap, v := c.v.map fun r => r &&& keep }).mapB fun b =>
      { b with hwm := .replicate 32 (cap.toNat / 128) }

/-- R50: d, `vl`, `vt` and `es` after a grant. -/
def State.granted (s : State) (d : Reg) (g : Nat) (t : Reg) : State :=
  let s := s.setReg d (BitVec.ofNat 64 g)
  s.setHr { s.hr with vl := BitVec.ofNat 12 g, vt := t, es := 0 }

/-- The cap of the grant takes effect in the X-hart only. -/
def State.memberCap (s : State) (cap : BitVec 12) : State := match s.hart with | .A => s | .X => s.applyCap cap

/-- R51: the oldest unmatched grant, if the other hart decided it. -/
def State.toMatch (s : State) : Option Grant :=
  match s.b.ctx.grants with
  | g :: _ => if g.by_ = s.hart then none else some g
  | [] => none

/-! Pairs of a set (R51, R247): the leader's grant of a pair, and whether its trim could serve it, by the pair's number. -/

def State.pairNo (s : State) : Nat := match s.hart with | .A => s.b.pairsA | .X => s.b.pairsX
/-- The hart has met one length pair more. -/
def State.paired (s : State) : State :=
  match s.hart with
  | .A => s.mapB fun b => { b with pairsA := b.pairsA + 1 }
  | .X => s.mapB fun b => { b with pairsX := b.pairsX + 1 }
/-- The set's grant of the pair that the hart meets. -/
def State.pairGrant (s : State) : Option Grant :=
  s.rset.bind fun r => (r.pairs.find? fun p => p.1 == s.pairNo).map (·.2)

/-- The first member of a pair in this braid takes its grant: it decides it by `g` once `ready` finds no wait; in a set the leader decides
for every replica, and where its other hart came first in the leader, the request must be that one's (R52, R247). `k` goes on with the
grant, for a member that came second in the leader if `second`. -/
def State.firstOfPair (s : State) (req : Word) (t : Reg) (ready : State → Option Wait) (g : State → Nat) (k : State → Grant → Bool → Res) : Res :=
  if Config.grantDepth ≤ s.b.ctx.grants.length then .wait s (.push .grant)
  else
    let own (after : State → Grant → State) : Res :=
      match ready s with
      | some w => .wait s w
      | none =>
        let x : Grant := ⟨s.hart, req, t, g s, s.b.ctx.vcap⟩
        k (after s x) x false
    match s.rset with
    | none => own fun s _ => s
    | some r => match s.pairGrant with
      | some x =>
        if x.by_ = s.hart then k s x false
        else if x.req ≠ req ∨ x.ty ≠ t then .trap s 10 0
        else k s { x with by_ := s.hart } true
      | none =>
        if s.b.rep = r.leader then own fun s x => s.mapSet r fun q => { q with pairs := q.pairs ++ [(s.pairNo, x)] } else .wait s .pair

/-- A first member's grant in the FIFO (R51). -/
def State.putGrant (s : State) (x : Grant) : State := (s.mapCtx fun c => { c with grants := c.grants ++ [x] }).paired
def State.takeGrant (s : State) : State := (s.mapCtx fun c => { c with grants := c.grants.tail }).paired

/-- `setvl` as R50 to R52 give it. -/
def State.doSetvl (s : State) (d : Reg) (req : Word) (t : Reg) : Res :=
  match s.toMatch with
  | some g =>
    if g.req ≠ req ∨ g.ty ≠ t then .trap s 10 0
    else .done ((s.takeGrant.memberCap g.cap).granted d g.g t).retire
  | none =>
    s.firstOfPair req t (fun _ => none) (fun s => s.grantFor req t) fun s x _ =>
      .done (((s.putGrant x).memberCap x.cap).granted d x.g t).retire

def execSetvl (d a t : Reg) (s : State) : Host.Outcome State Fault Refusal :=
  (s.issue .both .user false false fun s => s.doSetvl d (s.reg a) t).settle

/-- R53: elements landed and not yet granted. -/
def Stream.trim (t : Stream) : Nat := t.ctr - t.cursor
/-- R53: nothing more will land. -/
def Stream.over (t : Stream) : Bool := t.st == .finished || t.st == .cancelled || t.st == .idle

def State.moveCursor (s : State) (n : BitVec 3) (g : Nat) : State :=
  s.setStream n { s.stream n with cursor := (s.stream n).cursor + g }

/-- R54: whether the stream could serve a grant that the X-hart decided: the leader waits for it and says so for the set (R115). -/
def State.trimmed (s : State) (n : BitVec 3) (g : Nat) (w : Wait) (k : State → Bool → Res) : Res :=
  let ok := decide (g ≤ (s.stream n).trim)
  let wait := !ok && !(s.stream n).over
  match s.rset with
  | none => if wait then .wait s w else k s ok
  | some r => match r.trims.find? fun p => p.1 == s.pairNo with
    | some p => k s (p.2 == 1)
    | none =>
      if s.b.rep ≠ r.leader then .wait s .pair
      else if wait then .wait s w
      else k (s.mapSet r fun q => { q with trims := q.trims ++ [(s.pairNo, if ok then 1 else 0)] }) ok

/-- `setvls` as R53 and R54 give it. -/
def State.doSetvls (s : State) (d : Reg) (req : Word) (st t : Reg) : Res :=
  let n : BitVec 3 := st.setWidth 3
  let w : Wait := .trim d req st t
  if (s.stream n).ty ≠ t then .trap s 1 0
  else match s.toMatch with
    | some g =>
      let fin (s : State) (ok : Bool) : Res :=
        if !ok then .trap s 10 0 else .done ((s.takeGrant.moveCursor n g.g).granted d g.g t).retire
      if g.req ≠ req ∨ g.ty ≠ t then .trap s 10 0
      else if (s.pairGrant.any fun x => x.by_ == .A) then fin s true
      else s.trimmed n g.g w fin
    | none =>
      s.firstOfPair req t (fun s => if egOf t ≤ (s.stream n).trim ∨ (s.stream n).over then none else some w)
        (fun s => min (s.grantFor req t) (s.stream n).trim) fun s x second =>
          let fin (s : State) (ok : Bool) : Res :=
            if !ok then .trap s 10 0 else .done (((s.putGrant x).moveCursor n x.g).granted d x.g t).retire
          if second then s.trimmed n x.g w fin else fin s true

def execSetvls (d a st t : Reg) (s : State) : Host.Outcome State Fault Refusal :=
  (s.issue .onlyA .user false false fun s => s.doSetvls d (s.reg a) st t).settle

/-- R55. -/
def execSetmt (a : Reg) (s : State) : Host.Outcome State Fault Refusal :=
  (s.issue .onlyA .user false false fun s =>
    if 3 < (s.reg a).toNat then .trap s 1 0
    else .done (s.mapCtx fun c => { c with ac := { c.ac with mt := (s.reg a).setWidth 2 } }).retire).settle

end Sys2Proof.Machine
end

