-- ==== Sys2Proof/Machine/Sync.lean ====
section
/-! DEFINITION. The almanac ring, barriers and `mwait` (spec/08 R142-R147, spec/24 R301, spec/25 R315, R316, R318, R319), and the fences
(spec/07 R118, R124, R129, R130). -/

namespace Sys2Proof.Machine

/-- Issue of an instruction of both harts that a landing handler may not execute. -/
def State.bothIssue (s : State) (k : State → Res) : Host.Outcome State Fault Refusal := (s.issue .both .user false false k).settle

/-! The almanac ring. -/

/-- Loop ids are five-bit fields below 16. -/
def loopNo (l : Reg) : Nat := l.toNat
def State.loop (s : State) (l : Reg) : Loop :=
  match s.thisTask with
  | some t => t.loops.getD (loopNo l) .init
  | none => .init
def State.setLoop (s : State) (l : Reg) (x : Loop) : State :=
  s.mapTask s.b.task fun t => { t with loops := t.loops.set (loopNo l) x }
def State.bound? (s : State) (l : Reg) : Bool := s.b.binds.getLsbD (loopNo l)

/-- R144: ranges touch when they overlap or are adjacent. -/
def touches (lo hi : Nat) (r : Nat × Nat) : Bool := decide (r.1 ≤ hi ∧ lo ≤ r.2)

/-- The frontier advanced over the ranges that join it. -/
def advance : Nat → List (Nat × Nat) → Loop
  | f, [] => ⟨f, []⟩
  | f, r :: rest => if r.1 ≤ f then advance (max f r.2) rest else ⟨f, r :: rest⟩

def insertRange (x : Nat × Nat) : List (Nat × Nat) → List (Nat × Nat)
  | [] => [x]
  | r :: rest => if x.1 ≤ r.1 then x :: r :: rest else r :: insertRange x rest

/-- R144: iterations `lo` to `hi` − 1 posted. -/
def Loop.mark (p : Loop) (lo hi : Nat) : Loop :=
  let near := p.pend.filter (touches lo hi)
  let far := p.pend.filter fun r => !touches lo hi r
  let x := (near.foldl (fun m r => min m r.1) lo, near.foldl (fun m r => max m r.2) hi)
  advance p.f (insertRange x far)

/-- R316: there is nothing new to mark. -/
def Loop.stale (p : Loop) (n cnt : Nat) : Bool := decide (cnt = 0 ∨ n + cnt ≤ p.f)
/-- R316: the range needs a pending range and all 8 are in use. -/
def Loop.stalls (p : Loop) (n cnt : Nat) : Bool :=
  !p.stale n cnt && decide (p.f < n) && decide (8 ≤ p.pend.length) && !p.pend.any (touches n (n + cnt))

def Loop.post (p : Loop) (n cnt : Nat) : Loop := if p.stale n cnt then p else p.mark n (n + cnt)

def maxIter : Nat := 2 ^ 48

def execPost (a b l : Reg) (s : State) : Host.Outcome State Fault Refusal :=
  s.bothIssue fun s =>
    let n := (s.reg a).toNat
    let cnt := (s.reg b).toNat
    if !s.bound? l || decide (maxIter < n + cnt) then .trap s 1 0
    else s.releasePoint scopeDevice (opRecord (.post a b l) [s.reg a, s.reg b]) fun s =>
      s.onceWhen (fun s => if (s.loop l).stalls n cnt then some (.post l n cnt) else none)
        (fun s => (s.setLoop l ((s.loop l).post n cnt), 0)) fun s _ => .done s.retire

/-- `wait` for iterations below `n` (R316). -/
def State.doWait (s : State) (l : Reg) (n : Nat) : Res :=
  if (s.loop l).f < n then .wait s (.almanac l n) else .done (s.acquire scopeDevice).retire

def execWait (a l : Reg) (s : State) : Host.Outcome State Fault Refusal :=
  s.bothIssue fun s =>
    let n := (s.reg a).toNat
    if !s.bound? l || decide (maxIter < n) then .trap s 1 0
    else s.doWait l n

def execLpbind (l : Reg) (s : State) : Host.Outcome State Fault Refusal :=
  s.bothIssue fun s => .done (s.mapB fun b => { b with binds := b.binds ||| ((1 : BitVec 16) <<< loopNo l) }).retire

/-! Barriers. -/

/-- The place of a barrier the executing core names: its die's 64, then the module's 16. -/
def State.barrierAt (s : State) (n : Nat) : Fin 272 :=
  if n < 64 then Fin.ofNat 272 (dieOf s.b.core * 64 + n) else Fin.ofNat 272 (256 + (n - 64))
def State.barrier (s : State) (n : Nat) : Barrier := s.barriers.get (s.barrierAt n)
def State.setBarrier (s : State) (n : Nat) (x : Barrier) : State :=
  { s with barriers := s.barriers.set (s.barrierAt n).val x (s.barrierAt n).isLt }
/-- R145, R146: the scope of a barrier's release and acquire. -/
def barrierScope (n : Nat) : Nat := if n < 64 then scopeDie else scopeDevice

/-- R145: an arrival and its token; the arrival that reaches the count advances the phase. -/
def Barrier.arrive (b : Barrier) (n : Nat) : Barrier × Nat :=
  let tok := b.phase.toNat + n * 2 ^ 8 + b.arrivals.toNat * 2 ^ 16
  (if b.arrivals + 1 = b.count then { b with phase := b.phase + 1, arrivals := 0 } else { b with arrivals := b.arrivals + 1 }, tok)

/-- A `barr` on a barrier not initialised counts nothing and raises cause 1; the leader of a set decides. -/
def execBarr (d a : Reg) (s : State) : Host.Outcome State Fault Refusal :=
  s.bothIssue fun s =>
    let n := (s.reg a).toNat
    if 79 < n then .trap s 1 0
    else s.releasePoint (barrierScope n) (opRecord (.barr d a) [s.reg a]) fun s =>
      s.once (fun s =>
          if (s.barrier n).count = 0 then (s, 0)
          else let r := (s.barrier n).arrive n; (s.setBarrier n r.1, r.2 + 1))
        fun s tok => if tok = 0 then .trap s 1 0 else .done (s.setReg d (BitVec.ofNat 64 (tok - 1))).retire

/-- The barrier that a token names. -/
def tokenBarrier (tok : Word) : Nat := (tok.extractLsb' 8 8).toNat

/-- R146: the status of a token, or none while the barrier is in its phase. -/
def Barrier.status (b : Barrier) (tok : Word) : Option Nat :=
  let p : BitVec 8 := tok.extractLsb' 0 8
  if b.count = 0 then some 1 else if b.phase = p then none else if b.phase = p + 1 then some 0 else some 1

/-- `bwait` completes with a status. -/
def State.endBwait (s : State) (d : Reg) (tok : Word) (st : Nat) : State :=
  let s := if st = 0 then s.acquire (barrierScope (tokenBarrier tok)) else s
  (s.setReg d (BitVec.ofNat 64 st)).retire

/-- `bwait` on a token (R146). -/
def State.doBwait (s : State) (d : Reg) (tok : Word) : Res :=
  let st (s : State) := (s.barrier (tokenBarrier tok)).status tok
  s.decided (fun s => if (st s).isNone then some (.barrier d tok) else none) (fun s => (st s).getD 0) fun s x =>
    .done (s.endBwait d tok x)

def execBwait (d a : Reg) (s : State) : Host.Outcome State Fault Refusal :=
  s.bothIssue fun s =>
    let tok := s.reg a
    if tok.extractLsb' 32 32 ≠ 0 ∨ 79 < tokenBarrier tok then .trap s 1 0
    else s.doBwait d tok

/-- A value that a waiting instruction ended with, kept for the followers of a set (R247). -/
def State.logOwn (s : State) (v : Nat) : State :=
  match s.rset with
  | none => s
  | some r => (s.logValue r v).tookFwd

/-- R145, R301: a hart blocked in `bwait` on the barrier at a place returns status 1. -/
def State.releaseBwait (place : Fin 272) (s : State) (h : Hart) : State :=
  match s.waitOf h with
  | some (.barrier d tok) =>
    if s.barrierAt (tokenBarrier tok) = place then ((s.onHart h).logOwn 1).endBwait d tok 1 else s
  | _ => s

/-- In a set the leader performs it once (R301). -/
def execBinit (a b : Reg) (s : State) : Host.Outcome State Fault Refusal :=
  s.bothIssue fun s =>
    let n := (s.reg a).toNat
    let cnt := (s.reg b).toNat
    if 79 < n ∨ cnt = 0 ∨ 65535 < cnt then .trap s 1 0
    else s.once (fun s =>
        let place := s.barrierAt n
        let t := s.setBarrier n ⟨BitVec.ofNat 16 cnt, 0, 0⟩
        let ids := t.braids.map (·.id)
        (ids.foldl (fun t id => t.atBraid id fun t => (t.releaseBwait place .A).releaseBwait place .X) t, 0))
      fun s _ => .done s.retire

/-! `mwait`. -/

/-- R147: every entry of the monitor table of the braid's die is in use by others. -/
def State.monitorFull (s : State) : Bool :=
  !s.b.monitor && decide (Config.monitors ≤ (s.rest.filter fun b => b.monitor && dieOf b.core == dieOf s.b.core).length)

/-- The status that `mwait` returns now, or none while it waits (R318, R319). One that has waited looks for interrupt 32 before it reads
the word again. -/
def State.mwaitStatus (s : State) (key : Nat) (old : Word) : Option Nat :=
  let ended := s.b.irq32 && s.b.status.getLsbD 7
  if s.b.monitor && ended then some 3
  else if s.monitorFull then some 2
  else if s.readMem key 8 ≠ old.toNat then some 0
  else if ended then some 3
  else none

/-- `mwait` completes with a status and gives up its entry. -/
def State.endMwait (s : State) (d : Reg) (st : Nat) : State :=
  let s := s.mapB fun b => { b with monitor := false }
  ((if st = 0 then s.acquire scopeDevice else s).setReg d (BitVec.ofNat 64 st)).retire

/-- `mwait` on a word (R318). -/
def State.doMwait (s : State) (d : Reg) (va old : Word) : Res :=
  match badAddr va 8 with
  | some c => .trap s c va
  | none =>
    match s.own va.toNat 8 .load with
    | .error c => .trap s c va
    | .ok (key, s) =>
      match (s.settleBytes key 8).decided (fun s => if (s.mwaitStatus key old).isNone then some (.word d va old) else none)
          (fun s => (s.mwaitStatus key old).getD 0) (fun s x => .done (s.endMwait d x)) with
      | .wait t (.word d va old) => .wait (t.mapB fun b => { b with monitor := true }) (.word d va old)
      | r => r

def execMwait (d a b : Reg) (s : State) : Host.Outcome State Fault Refusal :=
  (s.issue .onlyA .user false false fun s => s.doMwait d (s.aReg a) (s.aReg b)).settle

/-! Fences. -/

/-- R124. -/
def execFenceSv (s : State) : Host.Outcome State Fault Refusal :=
  s.bothIssue fun s => .done (match s.hart with | .A => s.cacheWriteback | .X => s).retire
def execFenceVs (s : State) : Host.Outcome State Fault Refusal :=
  s.bothIssue fun s => .done (match s.hart with | .A => s.drainOut.cacheFlush | .X => s).retire

def execFenceAcq (sc : Reg) (s : State) : Host.Outcome State Fault Refusal :=
  s.bothIssue fun s => .done (s.acquire sc.toNat).retire
def execFenceRel (sc : Reg) (s : State) : Host.Outcome State Fault Refusal :=
  s.bothIssue fun s => s.releasePoint sc.toNat [] fun s => .done s.retire
def execFenceFull (sc : Reg) (s : State) : Host.Outcome State Fault Refusal :=
  s.bothIssue fun s => s.releasePoint sc.toNat [] fun s => .done (s.acquire sc.toNat).retire

/-- R130: the results of completed chunks have reached memory. In a set the A-hart waits until its fabric stores have left the release
buffer, which a forced release may have to bring about (log entry 23). -/
def execFenceXp (s : State) : Host.Outcome State Fault Refusal :=
  s.bothIssue fun s =>
    match s.hart with
    | .X => .done s.retire
    | .A => if s.b.buf.any (·.space == 3) then .wait s .buffered else .done s.landAll.retire

/-- R129: a job of the braid that `fence.eng` waits for; a registered one not while its stream is faulted. -/
def State.jobPending (s : State) (j : Job) : Bool :=
  j.braid == s.b.id && (match j.st with
    | .waiting => true
    | .running => true
    | .registered => (match j.srcStream with
      | some n => (s.stream n).st != .faulted
      | none => true)
    | _ => false)

/-- R129: the engine jobs and streams the hart issued are at an end. -/
def State.enginesQuiet (s : State) : Bool :=
  match s.hart with
  | .X => true
  | .A => !s.jobs.any s.jobPending && streamNos.all fun n => (s.stream n).st != .active

def State.doFenceEng (s : State) : Res :=
  s.decided (fun s => if s.enginesQuiet then none else some .engines) (fun _ => 0) fun s _ => .done (s.release scopeDevice).retire

def execFenceEng (s : State) : Host.Outcome State Fault Refusal := s.bothIssue State.doFenceEng

end Sys2Proof.Machine
end

