-- ==== Sys2Proof/Machine/Sys.lean ====
section
/-! DEFINITION. System instructions: calls and returns (spec/09 R163, spec/24 R305), `tlbinv` (spec/25 R325, R326), die-cache
maintenance (spec/24 R308, R309). -/

namespace Sys2Proof.Machine

/-! Calls and returns. -/

/-- `sys` and `brk` complete and then raise their cause at the next instruction; in a set in every replica together (R305; log entry 95). -/
def call (cause : Nat) (n : BitVec 10) (s : State) : Host.Outcome State Fault Refusal :=
  (s.issue .both .user false false fun s =>
    if s.replicated && !s.sysMode then .wait s (.trap cause (n.setWidth 64) true) else .trap s.retire cause (n.setWidth 64)).settle

def execSys (n : BitVec 10) (s : State) : Host.Outcome State Fault Refusal := call 16 n s
def execBrk (n : BitVec 10) (s : State) : Host.Outcome State Fault Refusal := call 17 n s

def execNop (s : State) : Host.Outcome State Fault Refusal := (s.issue .both .user false false fun s => .done s.retire).settle

/-- R305: in a set the leader's pending interrupt ends every member's `idle`. -/
def State.doIdle (s : State) : Res :=
  s.decided (fun s => if s.b.irq.isSome then none else some .idle) (fun _ => 0) fun s _ => .done s.retire

def execIdle (s : State) : Host.Outcome State Fault Refusal := (s.issue .both .system false false State.doIdle).settle

/-- R250: a braid of a replicated task that is in no set any more. -/
def State.votedOut (s : State) : Bool :=
  !s.replicated && match s.thisTask with
    | some t => decide (2 ≤ t.reps)
    | none => false

/-- R167: a pre-emption that the handler did not serve is raised again. -/
def State.preempting (s : State) : Bool := match s.thisTask with | some t => t.st == .preempting | none => false

def execEret (s : State) : Host.Outcome State Fault Refusal :=
  (s.issue .onlyA .system false false fun s =>
    let t := s.retire.leaveHandler.standHere
    .done (if t.votedOut then t.retireBraid else if t.preempting then t.mapB fun b => { b with irq32 := true } else t)).settle

/-! Translations (R325, R326). The model's accesses translate and perform in one step, but for what scalar caches, vector stores, chunk
results and release buffers hold. -/

def State.dropTlb (s : State) (drop : TlbEntry → Bool) : State := { s with tlb := s.tlb.filter fun t => !drop t }

/-- What other agents have translated performs: dirty lines, vector stores, results of chunks. -/
def State.performOthers (s : State) : State :=
  let s := s.rest.foldl (fun s c => c.cache.foldl State.writeLine (s.performAll c.out)) s.landAll
  { s with rest := s.rest.map fun c => { c with out := [], cache := c.cache.map fun l => { l with dirty := 0 } } }

/-- A buffered store of the braid in focus is translated again; one that has lost its page is dropped with a health event (log entry
69). -/
def State.rekey (s : State) (i : BufItem) : State × List BufItem :=
  if i.space ≠ 0 then (s, [i])
  else match s.check { s.ownXlate with user := false } s.b.task i.va.toNat i.size .store true with
    | .ok (key, t) => (t, [{ i with key := key }])
    | .error _ => (s.health, [])
def State.rekeyAll (s : State) : State :=
  let r := s.b.buf.foldl (fun (p : State × List BufItem) i => let q := p.1.rekey i; (q.1, p.2 ++ q.2)) (s, [])
  r.1.mapB fun b => { b with buf := r.2 }
/-- The buffers of the other braids. -/
def State.rekeyOthers (s : State) : State := (s.rest.filter (!·.buf.isEmpty)).foldl (fun s c => s.atBraid c.id State.rekeyAll) s

/-- In a set it waits until a forced release has emptied the hart's release buffer (R246, R325; log entry 69). -/
def tlbinv (b : Reg) (kind1 : Bool) (va : Option Reg) (drop : Word → BitVec 16 → TlbEntry → Bool) (s : State) :
    Host.Outcome State Fault Refusal :=
  (s.issue .onlyA .system false false fun s =>
    let bv := s.aReg b
    let v := match va with | some a => s.aReg a | none => 0
    if kind1 && bv.extractLsb' 16 48 != 0 then .trap s 1 0
    else if v.extractLsb' 57 7 ≠ 0 then .trap s 6 v
    else if !s.b.buf.isEmpty then .wait s .buffered
    else .done (((s.release scopeDevice).performOthers.dropTlb (drop v (bv.setWidth 16))).rekeyOthers).retire).settle

def execTlbinvAll (_a b : Reg) (s : State) : Host.Outcome State Fault Refusal := tlbinv b false none (fun _ _ _ => true) s
def execTlbinvAsn (_a b : Reg) (s : State) : Host.Outcome State Fault Refusal :=
  tlbinv b true none (fun _ asn t => !pteG t.pte.toNat && t.asn == asn) s
def execTlbinvPage (a b : Reg) (s : State) : Host.Outcome State Fault Refusal :=
  tlbinv b true (some a) (fun v asn t => decide (t.vbase ≤ v.toNat ∧ v.toNat < t.vbase + t.size) && (pteG t.pte.toNat || t.asn == asn)) s

/-! The die cache (R94, R308). -/

/-- R308's checks. -/
def dieRange (a b : Word) : Option Nat :=
  if a.toNat % 128 ≠ 0 ∨ b.toNat % 128 ≠ 0 then some 3
  else if 2 ^ 39 ≤ a.toNat ∨ Config.tier0Bytes < a.toNat % 2 ^ 37 + b.toNat then some 6
  else none

def inRange (a b key : Nat) : Bool := decide (a ≤ key ∧ key < a + b)

/-- Dirty bytes of a range reach the first tier. -/
def State.dieClean (s : State) (a b : Nat) : State := { s with dram := s.dram.filter fun c => !inRange a b c.1 }
/-- The range reads as the first tier holds it: what was not written back is lost. -/
def State.dieDrop (s : State) (a b : Nat) : State :=
  let lost := s.dram.filter fun c => inRange a b c.1
  ({ s with mem := lost.foldl (fun m c => m.set c.1 (m.get c.1 ^^^ c.2)) s.mem } : State).dieClean a b

def dieOp (a b : Reg) (f : State → Nat → Nat → State) (s : State) : Host.Outcome State Fault Refusal :=
  (s.issue .onlyA .firmware false false fun s =>
    let va := s.aReg a
    match dieRange va (s.aReg b) with
    | some c => .trap s c va
    | none => .done (f s va.toNat (s.aReg b).toNat).retire).settle

def execDcwb (a b : Reg) (s : State) : Host.Outcome State Fault Refusal := dieOp a b State.dieClean s
def execDcinv (a b : Reg) (s : State) : Host.Outcome State Fault Refusal := dieOp a b State.dieDrop s

end Sys2Proof.Machine
end

