-- ==== Sys2Proof/Machine/Events.lean ====
section
/-! DEFINITION. Events at a braid's boundary (spec/09 R160), deadlock (spec/02 R24), the ends of waits, forced releases (spec/19 R246),
the fabric's arrivals and losses (spec/16 R218-R224), and a cache line written back (spec/06 R96). -/

namespace Sys2Proof.Machine

/-! At a braid's boundary. -/

/-- R24: the hart whose waiting instruction raises cause 9. -/
def State.deadlocked (s : State) : Option Hart :=
  let stuck (h : Hart) : Bool := match s.waitOf h with | some w => s.queueBlocked w | none => false
  if s.sysMode then none
  else if stuck .A && (stuck .X || s.b.ctx.endX) then some .A
  else if stuck .X && s.b.ctx.endA then some .X
  else none

/-- What happens at a resident braid; nothing at another. -/
def State.atLive (s : State) (b : Nat) (f : State → State) : State := s.atBraid b fun t => if t.b.live then f t else t

/-- QUEUE_DEADLOCK. -/
def execQueueDeadlock (b : Nat) (s : State) : Host.Outcome State Fault Refusal :=
  .next (s.atLive b fun t => match t.deadlocked with
    | some h => t.raise h 9 (t.pcOf h) 0
    | none => t)

/-- TAKE_INTERRUPT: a stream fault comes before it (R160). -/
def execTakeInterrupt (b : Nat) (s : State) : Host.Outcome State Fault Refusal :=
  .next (s.atLive b fun t => if t.faultNow.isNone && t.interruptNow then t.takeInterrupt else t)

/-- STREAM_FAULT_TRAP. -/
def execStreamFaultTrap (b : Nat) (s : State) : Host.Outcome State Fault Refusal :=
  .next (s.atLive b fun t => match t.faultNow with
    | some e => t.takeStreamFault e
    | none => t)

/-- LANDING_ENTRY: a stream fault and an interrupt come before it (R160). -/
def execLandingEntry (b : Nat) (s : State) : Host.Outcome State Fault Refusal :=
  .next (s.atLive b fun t =>
    if t.faultNow.isSome || t.interruptNow then t
    else match t.landingNow with
      | some n => t.enterLanding n
      | none => t)

/-! Waits that end. An event does nothing where the hart does not wait so, or what it waits on has not come. -/

/-- What hart `h` of a resident braid, waiting on `w`, does: what is pending at its boundary comes first (R129, R160), and a hart held at
its set's release goes on with the set (R245). -/
def State.wake (s : State) (b : Nat) (h : Hart) (f : Wait → State → State) : State :=
  s.atLive b fun t =>
    let t := t.onHart h
    match t.waitOf h with
    | some w =>
      if t.heldBack then t
      else match t.boundary with
        | some u => u
        | none => f w t
    | none => t

/-- The hart goes on at its waiting instruction. -/
def State.retry (s : State) (go : Bool) : State := if go then s.setWait none else s

/-- MWAIT_WAKE. -/
def execMwaitWake (b : Nat) (s : State) : Host.Outcome State Fault Refusal :=
  .next (s.wake b .A fun w t => match w with | .word d va old => (t.doMwait d va old).after | _ => t)
/-- BWAIT_WAKE. -/
def execBwaitWake (b : Nat) (h : Hart) (s : State) : Host.Outcome State Fault Refusal :=
  .next (s.wake b h fun w t => match w with | .barrier d tok => (t.doBwait d tok).after | _ => t)
/-- ALMANAC_WAIT_WAKE. -/
def execAlmanacWaitWake (b : Nat) (h : Hart) (s : State) : Host.Outcome State Fault Refusal :=
  .next (s.wake b h fun w t => match w with | .almanac l n => (t.doWait l n).after | _ => t)
/-- POST_STALL_WAKE. -/
def execPostStallWake (b : Nat) (h : Hart) (s : State) : Host.Outcome State Fault Refusal :=
  .next (s.wake b h fun w t => match w with | .post l n cnt => t.retry (!(t.loop l).stalls n cnt) | _ => t)
/-- QUEUE_WAIT_WAKE. -/
def execQueueWaitWake (b : Nat) (h : Hart) (s : State) : Host.Outcome State Fault Refusal :=
  .next (s.wake b h fun w t => match w with
    | .pop q => t.retry (!t.queueBlocked (.pop q))
    | .push q => t.retry (q != .grant && !t.queueBlocked (.push q))
    | _ => t)
/-- SWAIT_WAKE. -/
def execSwaitWake (b : Nat) (s : State) : Host.Outcome State Fault Refusal :=
  .next (s.wake b .A fun w t => match w with | .stream d st thr => (t.doSwait d st thr).after | _ => t)
/-- SETVLS_TRIM_WAKE. -/
def execSetvlsTrimWake (b : Nat) (s : State) : Host.Outcome State Fault Refusal :=
  .next (s.wake b .A fun w t => match w with | .trim d req st ty => (t.doSetvls d req st ty).after | _ => t)
/-- GRANT_FIFO_WAKE. -/
def execGrantFifoWake (b : Nat) (h : Hart) (s : State) : Host.Outcome State Fault Refusal :=
  .next (s.wake b h fun w t => match w with | .push .grant => t.retry (!t.queueBlocked (.push .grant)) | _ => t)
/-- TDONE_DRAIN_WAKE. -/
def execTdoneDrainWake (b : Nat) (h : Hart) (s : State) : Host.Outcome State Fault Refusal :=
  .next (s.wake b h fun w t => match w with | .drain => t.doTdone.after | _ => t)
/-- FENCE_ENG_WAKE. -/
def execFenceEngWake (b : Nat) (h : Hart) (s : State) : Host.Outcome State Fault Refusal :=
  .next (s.wake b h fun w t => match w with | .engines => t.doFenceEng.after | _ => t)
/-- IDLE_WAKE. -/
def execIdleWake (b : Nat) (h : Hart) (s : State) : Host.Outcome State Fault Refusal :=
  .next (s.wake b h fun w t => match w with | .idle => t.doIdle.after | _ => t)
/-- JOB_SLOT_WAKE. -/
def execJobSlotWake (b : Nat) (s : State) : Host.Outcome State Fault Refusal :=
  .next (s.wake b .A fun w t => match w with | .jobs => t.retry (!t.jobsFull) | _ => t)
/-- TRIGGER_SLOT_WAKE. -/
def execTriggerSlotWake (b : Nat) (s : State) : Host.Outcome State Fault Refusal :=
  .next (s.wake b .A fun w t => match w with | .trigs n => t.retry (decide ((t.stream n).trigs.length < 4)) | _ => t)
/-- MATT_FOLLOWER_WAKE: the follower takes the leader's grant. -/
def execMattFollowerWake (b : Nat) (s : State) : Host.Outcome State Fault Refusal :=
  .next (s.wake b .X fun w t => match w with
    | .slices d g => if g ≤ t.slicesNow then (t.tookFwd.mapB fun b => { b with askAge := none }).attach d g else t
    | _ => t)
/-- CTXLOAD_SLICE_WAKE. -/
def execCtxloadSliceWake (b : Nat) (s : State) : Host.Outcome State Fault Refusal :=
  .next (s.wake b .A fun w t => match w with | .reattach n => t.retry (t.reattach n).isSome | _ => t)

/-! Forced releases (R246). -/

/-- Every member waits for room in its release buffer at one point, and its X-hart has run to the furthest place or stands at a release
point, whose operation it has not signed (R243). -/
def State.allForced (s : State) (r : RSet) : Bool :=
  match s.members r with
  | [] => false
  | b :: l => (b :: l).all fun c => c.waitA == some .forced && c.pos .A == b.pos .A &&
      (c.pos .X == s.furthest r .X || c.stopped .X)

/-- FORCED_RELEASE_BUFFER. -/
def execForcedReleaseBuffer (b : Nat) (s : State) : Host.Outcome State Fault Refusal :=
  .next (s.atLive b fun t => match t.rset with
    | some r => if t.allForced r then t.compare r .A none else t
    | none => t)
/-- FORCED_RELEASE_TIMEOUT: the set runs to the largest counts of its members and releases there, as R151 does it. -/
def execForcedReleaseTimeout (b : Nat) (s : State) : Host.Outcome State Fault Refusal :=
  .next (s.atLive b fun t => match t.rset with
    | some r => t.stopSet r
    | none => t)

/-! The scalar cache (R96). -/

/-- SCALAR_CACHE_WRITEBACK: the line's dirty bytes reach memory, and it stays, clean. -/
def State.lineWriteback (s : State) (line : Nat) : State :=
  match s.cached line with
  | none => s
  | some l =>
    let t := s.writeLine l
    { t with b := { t.b with cache := t.b.cache.map fun m => if m.tag = line then { m with dirty := 0 } else m } }

def execScalarCacheWriteback (b line : Nat) (s : State) : Host.Outcome State Fault Refusal :=
  .next (s.atLive b fun t => t.lineWriteback line)

/-! The fabric. -/

/-- An element from another member of its group, at this module as its owner (R217). -/
def State.fromMember (s : State) (e : FabElem) : Bool :=
  let g : Group := ⟨e.arr, e.w64, e.status, e.members⟩
  e.stride != 0 && g.owner e.stride e.va.toNat == s.lmember.toNat && decide (e.rank < e.members.length) &&
  e.members.getD e.rank 0 != s.lmember.toNat

/-- The context in which an element of another member is performed (log entry 31). -/
def elemXlate (e : FabElem) : Xlate := ⟨none, e.root.toNat, e.asn, true⟩

/-- The task here whose footprint an element of another member meets (R218): that of a braid that has latched the element's group in the
context in which it is performed; 0, which is no task's number, if there is none (log entry 77). -/
def State.homeTask (s : State) (e : FabElem) : Nat :=
  match s.braids.find? fun b => b.live && b.ctx.grp == some ⟨e.arr, e.w64, e.status, e.members⟩ && b.ctx.ac.pgroot == e.root &&
      b.ctx.ac.asn == e.asn with
  | some b => b.task
  | none => 0

/-- The element reaches this module: it is another member's, and a port works (R18). -/
def State.reaches (s : State) (e : FabElem) : Bool := s.fromMember e && (s.planeOf e).isSome

/-- FABRIC_ELEMENT_ARRIVAL. One that finds no room waits in the fabric; behind one that waits on its channel nothing arrives (R217, R220).
The sender keeps its own ERR (R218). -/
def execFabricElementArrival (e : FabElem) (s : State) : Host.Outcome State Fault Refusal :=
  .next (if s.reaches e && !s.channelBusy e then
    match s.performAtOwner (elemXlate e) (s.homeTask e) e with
    | (_, .stalled) => { s with arrivals := s.arrivals ++ [⟨e, none⟩] }
    | (t, _) => t
  else s)

/-- FABRIC_LOAD_ARRIVAL: the bytes read, or zero and ERR, go back to the sender. Behind an element that waits on its channel nothing arrives
(R217). -/
def execFabricLoadArrival (e : FabElem) (s : State) : Host.Outcome State Fault Refusal :=
  .next (if s.reaches e && !s.channelBusy e then
    let r := s.loadAtOwner (elemXlate e) (s.homeTask e) e.va.toNat e.size []
    { r.1 with loadReplies := r.1.loadReplies ++ [r.2] }
  else s)

/-- The context and the task of an element that waits in the fabric. -/
def State.arrivalCtx (s : State) (a : Arrival) : Xlate × Nat :=
  match a.by_.bind s.find with
  | some b => (⟨some b.core, a.e.root.toNat, a.e.asn, b.level == .user⟩, b.task)
  | none => (elemXlate a.e, s.homeTask a.e)

/-- A plain store of a set's leader reaches memory: the set's scalar caches take its bytes (R131). -/
def State.patchFor (s : State) (a : Arrival) : State :=
  match a.by_.bind s.find with
  | none => s
  | some b => match s.sets.find? (·.has b) with
    | none => s
    | some r =>
      if a.e.op ≠ 0 then s
      else match s.check (s.arrivalCtx a).1 (s.arrivalCtx a).2 a.e.va.toNat a.e.size .store false with
        | .ok (key, _) => s.patchSet r key a.e.size a.e.data
        | .error _ => s

/-- What a waiting element does that can go on; one that its owner discards sets ERR at the braid that stored it (R218). -/
def State.admitArrival (s : State) (a : Arrival) : State × AtOwner :=
  let c := s.arrivalCtx a
  match s.performAtOwner c.1 c.2 a.e with
  | (t, .taken) => (t.patchFor a, .taken)
  | (t, .bad) => (match a.by_ with | some id => t.atBraid id fun u => u.mapCstat cstatErr | none => t, .bad)
  | r => r

/-- The elements that wait behind `past` in the fabric: the first on its channel that can proceed does. -/
def State.admitFirst (s : State) (past : List Arrival) : List Arrival → State
  | [] => s
  | a :: r =>
    if past.any fun p => s.sameChannel p.e a.e then s.admitFirst (past ++ [a]) r
    else match ({ s with arrivals := past ++ r } : State).admitArrival a with
      | (_, .stalled) => s.admitFirst (past ++ [a]) r
      | (t, _) => t

/-- CHUNK_SLOT_WAKE (R220). -/
def execChunkSlotWake (s : State) : Host.Outcome State Fault Refusal := .next (s.admitFirst [] s.arrivals)

/-- An element that waited for a chunk of a group which loses a member fills its slot first, whatever the number of open chunks. -/
def State.admitLate (s : State) (a : Arrival) : State :=
  let c := s.arrivalCtx a
  match s.access c.1 c.2 a.e.va.toNat a.e.size .store false with
  | .error _ => (s.admitArrival a).1
  | .ok (key, t) => if a.e.op = 0 then (s.admitArrival a).1 else (t.contributeIn (t.chunks.length + 1) (dieOfKey key) a.e).getD t

/-- MEMBER_LOST (R224, R240): open chunks of its groups complete with state 2 and take no more elements (log entry 68). -/
def execMemberLost (m : BitVec 8) (s : State) : Host.Outcome State Fault Refusal :=
  let has (l : List Nat) : Bool := l.contains m.toNat
  let late := s.arrivals.filter fun a => has a.e.members
  let s : State := late.foldl State.admitLate { s with arrivals := s.arrivals.filter fun a => !has a.e.members }
  let s : State := { s with lost := if s.lost.contains m then s.lost else s.lost ++ [m] }
  let s : State := (s.chunks.filter fun c => c.isOpen && has c.members).foldl State.loseChunk s
  let s : State := { s with chunks := s.chunks.map fun c => if c.isOpen && has c.members then { closeChunk c with dead := true } else c }
  let s : State := s.mapBraids fun b => match b.ctx.grp with
    | some g => if has g.members then { b with ctx := { b.ctx with ac := { b.ctx.ac with cstat := cstatLost m.toNat b.ctx.ac.cstat } } } else b
    | none => b
  .next { s with jobs := s.jobs.map fun j => match j.grp with
    | some g => if j.st = .running ∧ j.cause = 0 ∧ 0 < j.mbits ∧ has g.members then { j with cause := 6 } else j
    | none => j }

end Sys2Proof.Machine
end

