-- ==== Sys2Proof/Machine/Example.lean ====
section
/-! DEFINITION. The example axis (spec/13 R189-R201, spec/27 R354): the table, norms, the gate and compaction. -/

namespace Sys2Proof.Machine

def State.xbase (s : State) : Nat := s.b.ctx.xc.xbase.toNat
def State.xsize (s : State) : Nat := s.b.ctx.xt.length
def State.entry (s : State) (i : Nat) : XEntry := s.b.ctx.xt.getD i .init
def State.setEntry (s : State) (i : Nat) (x : XEntry) : State := s.mapCtx fun c => { c with xt := c.xt.set i x }

/-- R190 for the vector forms. -/
def State.xRange (s : State) : Bool := decide (s.xbase + s.vlen ≤ s.xsize ∧ s.xsize ≠ 0)

/-- The elements of [lo, hi) that a mask names, each updating its entry: the new table and the flags. -/
def tableRun (s : State) (m : Mask) (lo hi : Nat) (f : State → Nat → XEntry → XEntry × Flags) : State :=
  (List.range' lo (hi - lo)).foldl (fun t i =>
    if m.getLsbD i then
      let r := f s i (t.entry (s.xbase + i))
      (t.setEntry (s.xbase + i) r.1).addFlags r.2
    else t) s

/-- A form that updates entries and has no destination. -/
def State.xUpdate (s : State) (ok : Bool) (pop : Option (BitVec 2)) (k : BitVec 4) (rounds : Bool)
    (f : State → Nat → XEntry → XEntry × Flags) : Res :=
  if !ok || !s.xRange then .trap s 1 0
  else
    let m := s.effMask k
    if m = 0 then s.vDrop none pop rounds
    else match s.srcWait pop with
      | some w => .wait s w
      | none => match s.stopAt s.hr.vt with
        | some hi => .done { (tableRun s m s.hr.es.toNat hi f).setEs hi with egStop := none }
        | none => .done (((tableRun s m s.hr.es.toNat s.vlen f).popSrc pop).vDone rounds)

/-- R198: no prefix may stand before the forms that are not element-wise. -/
def State.noPrefix (s : State) (k : State → Res) : Res := if s.prefixed then .trap s.dropPrefix 11 0 else k s

/-- R193. `es` stays as it is, for the instruction has no elements (log entry 67). -/
def execXsetb (a : Reg) (s : State) : Host.Outcome State Fault Refusal :=
  s.vIssue fun s =>
    if 255 < (s.xReg a).toNat then .trap s 1 0
    else s.noPrefix fun s => .done (s.mapCtx fun c => { c with xc := { c.xc with xbase := (s.xReg a).setWidth 8 } }).retire

/-- An element of the type in effect, as a value. -/
def State.xVal (s : State) (c : Nat) : FVal := match fmtOf s.hr.vt with | some f => f.decode c | none => .nan

/-- R194: the exact widening. -/
def execXloss (b : Src) (k : BitVec 4) (s : State) : Host.Outcome State Fault Refusal :=
  s.vIssue fun s => s.xUpdate (s.hr.vt == 8 || s.hr.vt == 9 || s.hr.vt == 10) (popOf b) k false fun s i x =>
    ({ x with loss := BitVec.ofNat 32 (Fmt.f32.round .rne (s.xVal (s.elB b i))).1 }, 0)

/-- R195: nsq := Round(nsq + t, f64). -/
def addTerm (r : HartRegs) (i : Nat) (x : XEntry) (inputs : List FVal) (t : FVal) : XEntry × Flags :=
  let o := r.mode i
  let n := Fmt.f64.decode x.nsq.toNat
  let q := fpRound .f64 o (n :: inputs) (n.add o.down t)
  ({ x with nsq := BitVec.ofNat 64 q.1 }, q.2)

def execXnacc (a : Reg) (b : Src) (k : BitVec 4) (s : State) : Host.Outcome State Fault Refusal :=
  s.vIssue fun s => s.xUpdate (isReal s.hr.vt) (popOf b) k true fun s i x =>
    let p := s.xVal (s.elA a i)
    let q := s.xVal (s.elB b i)
    addTerm s.hr i x [p, q] (p.mul q)
def execXnaccSingle (a : Reg) (k : BitVec 4) (s : State) : Host.Outcome State Fault Refusal :=
  s.vIssue fun s => s.xUpdate (isReal s.hr.vt) none k true fun s i x =>
    let p := s.xVal (s.elA a i)
    addTerm s.hr i x [p] p

/-- R196: the sum of the products, and its flags. -/
def gramSum (s : State) (m : Mask) (a : Reg) (b : Src) : Nat × Flags :=
  let p := pow2Above s.vlen
  let terms := (List.range p).map fun j =>
    if m.getLsbD j then
      let x := s.xVal (s.elA a j)
      let y := s.xVal (s.elB b j)
      fpRound .f64 (s.hr.mode j) [x, y] (x.mul y)
    else (negZero 11, 0)
  halve (fun i x y => fpAdd false s.hr 11 i x y) (Nat.log2 p) (terms.map (·.1)) (terms.foldl (fun f x => f ||| x.2) 0)

def execXgram (e a : Reg) (b : Src) (k : BitVec 4) (s : State) : Host.Outcome State Fault Refusal :=
  s.vIssue fun s =>
    let at_ := s.xbase + (s.xReg e).toNat
    if !isReal s.hr.vt || decide (s.xsize ≤ at_) then .trap s 1 0
    else
      let m := s.effMask k
      if m = 0 then s.vDrop none (popOf b) true
      else match s.srcWait (popOf b) with
        | some w => .wait s w
        | none =>
          let sum := gramSum s m a b
          let x := s.entry at_
          let r := fpAdd false s.hr 11 0 x.nsq.toNat sum.1
          .done ((((s.setEntry at_ { x with nsq := BitVec.ofNat 64 r.1 }).addFlags (sum.2 ||| r.2)).popSrc (popOf b)).vDone true)

/-! The gate (R197, R198). -/

/-- Round(√nsq) to a format. -/
def normOf (f : Fmt) (r : HartRegs) (i : Nat) (x : XEntry) : Nat × Flags :=
  let n := Fmt.f64.decode x.nsq.toNat
  fpRound f (r.mode i) [n] n.sqrt

def f32 (c : Nat) : FVal := Fmt.f32.decode c
def oneF32 : Nat := 0x3F800000
def lessEq (x y : FVal) : Bool := x.lt y || x.eq y

/-- The probability p of R197, with the flags of its quotient. -/
def gateProb (c : XRegs) (r : HartRegs) (i n g : Nat) : Nat × Flags :=
  let tau := f32 c.gtau.toNat
  if tau.isNan || lessEq tau FVal.zero then (oneF32, 0)
  else
    let q := fpDiv r 10 i (if lessEq (f32 n) (f32 g) then n else g) c.gtau.toNat
    (if (f32 q.1).lt FVal.one then q.1 else oneF32, q.2)

/-- The new w and flags of an entry, whether it survives, and the sticky flags. -/
def gateElem (c : XRegs) (r : HartRegs) (i : Nat) (x : XEntry) (u : Nat) : Nat × BitVec 8 × Bool × Flags :=
  let n := normOf .f32 r i x
  let g := if (f32 c.gclip.toNat).isNan then 0x7F800000 else c.gclip.toNat
  let bad := (f32 n.1).isNan || (f32 x.loss.toNat).isNan
  if bad then (0, 0x18, false, n.2)
  else if (f32 c.gdrop.toNat).lt (f32 n.1) then (0, 0x08, false, n.2)
  else
    let clipped := !lessEq (f32 n.1) (f32 g)
    let cc : Nat × Flags := if clipped then fpDiv r 10 i g n.1 else (oneF32, 0)
    let mark : BitVec 8 := if clipped then 0x02 else 0
    if c.gmode = 0 then (cc.1, mark ||| 1, true, n.2 ||| cc.2)
    else
      let p := gateProb c r i n.1 g
      if (f32 u).lt (f32 p.1) then
        let w := fpDiv r 10 i cc.1 p.1
        (w.1, mark ||| 1, true, n.2 ||| cc.2 ||| p.2 ||| w.2)
      else (0, mark ||| 4, false, n.2 ||| cc.2 ||| p.2)

/-- What the gate leaves over [lo, hi): the state with entries and flags, the weights, the survivors. -/
def gateRun (s : State) (m : Mask) (b : Src) (lo hi : Nat) : State × List (Nat × Nat) × Mask :=
  (List.range' lo (hi - lo)).foldl (fun (acc : State × List (Nat × Nat) × Mask) i =>
    if m.getLsbD i then
      let x := acc.1.entry (s.xbase + i)
      let r := gateElem s.b.ctx.xc s.hr i x (s.elB b i)
      ((acc.1.setEntry (s.xbase + i) { x with w := BitVec.ofNat 32 r.1, flags := r.2.1 }).addFlags r.2.2.2,
        acc.2.1 ++ [(i, r.1)], if r.2.2.1 then acc.2.2 ||| ((1 : Mask) <<< i) else acc.2.2)
    else acc) (s, [], 0)

/-- R354: survivor bits of [lo, hi) written at a stop, without the flag. -/
def State.survivors (s : State) (k : BitVec 4) (lo hi : Nat) (bits : Mask) : Mask :=
  (s.kReg k &&& (below lo ||| ~~~(below hi))) ||| bits

def execXgate (d : Dst) (b : Src) (k : BitVec 4) (s : State) : Host.Outcome State Fault Refusal :=
  s.vIssue fun s =>
    if s.hr.vt ≠ 10 ∨ !s.xRange then .trap s 1 0
    else if s.prefixed && (s.pflInv || s.pflK == 0) then .trap s.dropPrefix 11 0
    else
      let m := s.kReg k &&& below s.vlen
      let kd : BitVec 4 := if s.prefixed then s.pflK else 1
      let lo := s.hr.es.toNat
      if m = 0 ∧ lo = 0 ∨ s.vlen = 0 then s.vDrop (some d) (popOf b) true
      else match s.srcWait (popOf b), s.dstWait d with
        | some w, _ => .wait s w
        | none, some w => .wait s w
        | none, none =>
          match s.stopAt s.hr.vt with
          | some hi =>
            let r := gateRun s m b lo hi
            let t := (r.1.writeDst d 32 r.2.1 (some hi)).writeCopy d 32 r.2.1
            .done { (t.mapCtx fun c => { c with k := c.k.set kd.toNat (s.survivors kd lo hi r.2.2) kd.isLt }).setEs hi with egStop := none }
          | none =>
            let r := gateRun s m b lo s.vlen
            let t := (r.1.writeDst d 32 r.2.1 none).writeCopy d 32 r.2.1
            .done (((t.setK kd (s.survivors kd lo s.vlen r.2.2)).popSrc (popOf b)).vDone true)

/-! Reading the table (R199, R200). -/

def execXnorm (d : Dst) (k : BitVec 4) (s : State) : Host.Outcome State Fault Refusal :=
  s.vIssue fun s => s.vEach ((s.hr.vt == 10 || s.hr.vt == 11) && s.xRange) d none k true fun s i =>
    let r := normOf (if s.hr.vt = 10 then .f32 else .f64) s.hr i (s.entry (s.xbase + i))
    (r.1, r.2, false)

def execXwt (d : Dst) (k : BitVec 4) (s : State) : Host.Outcome State Fault Refusal :=
  s.vIssue fun s => s.vEach (s.hr.vt == 10 && s.xRange) d none k false fun s i => ((s.entry (s.xbase + i)).w.toNat, 0, false)

/-- `es` stays as it is, for the instruction has no elements (log entry 67). -/
def execXclr (a b : Reg) (s : State) : Host.Outcome State Fault Refusal :=
  s.vIssue fun s =>
    let first := (s.xReg a).toNat
    let n := (s.xReg b).toNat
    if s.xsize = 0 ∨ s.xsize < first + n then .trap s 1 0
    else s.noPrefix fun s => .done ((List.range' first n).foldl (fun t i => t.setEntry i .init) s).retire

/-- R200: whether a selector takes an entry's flags. -/
def selects (sel : Nat) (f : BitVec 8) : Bool :=
  match sel with
  | 0 => f.getLsbD 0
  | 1 => !f.getLsbD 3
  | 2 => f.getLsbD 1
  | 3 => f.getLsbD 2
  | 4 => f.getLsbD 3
  | _ => f.getLsbD 4

def compType (t : Reg) : Bool := t == 1 || t == 2 || t == 3 || t == 5 || t == 6 || t == 7

/-- It writes a vector register and an x register. Under a prefix with ce = 1 it is no successor whose destination is an x register (R65):
it runs, and what it writes to vd is also written to vc (log entry 80). -/
def execXcomp (d : Dst) (c sel : Reg) (k : BitVec 4) (s : State) : Host.Outcome State Fault Refusal :=
  s.vIssue fun s =>
    if !compType s.hr.vt || !s.xRange || decide (5 < sel.toNat) then .trap s 1 0
    else
      let m := s.effMask k
      if m = 0 then s.vDrop (some d) none false
      else match s.dstWait d with
        | some w => .wait s w
        | none =>
          let t := (List.range s.vlen).filter fun i => m.getLsbD i && selects sel.toNat (s.entry (s.xbase + i)).flags
          let els := (List.range s.vlen).map fun j => (j, t.getD j 0)
          .done ((((s.writeDst d s.vw els none).writeCopy d s.vw els).setX c (BitVec.ofNat 64 t.length)).vDone false)

end Sys2Proof.Machine
end

