-- ==== Sys2Proof/Machine/Sampled.lean ====
section
/-! DEFINITION. Sampled products (spec/15 R206-R214): the alias table, draws, batches and their statistics. -/

namespace Sys2Proof.Machine

/-! The table (R209). Every step of the build is an f64 RNE rounding that sets no flag. -/

def f64 (c : Nat) : FVal := Fmt.f64.decode c
def rne64 (x : FVal) : Nat := (Fmt.f64.round .rne x).1
def add64 (a b : Nat) : Nat := rne64 ((f64 a).add false (f64 b))
def sub64 (a b : Nat) : Nat := rne64 ((f64 a).sub false (f64 b))
def mul64 (a b : Nat) : Nat := rne64 ((f64 a).mul (f64 b))
def div64 (a b : Nat) : Nat := rne64 ((f64 a).div (f64 b))
def of64 (n : Nat) : Nat := rne64 (FVal.ofInt n)
def one64 : Nat := 0x3FF0000000000000

/-- What the pairing loop works on: P, q and the aliases. -/
structure Pairing where
  p : List Nat
  q : List Nat
  al : List Nat

/-- The loop of R209 over the queues of small and large entries; it answers the entries left over. -/
def pairUp : Nat → List Nat → List Nat → Pairing → Pairing × List Nat
  | 0, sm, lg, x => (x, sm ++ lg)
  | n + 1, l :: sm, g :: lg, x =>
    let pl := x.p.getD l 0
    let pg := sub64 (add64 (x.p.getD g 0) pl) one64
    let x := ⟨x.p.set g pg, x.q.set l pl, x.al.set l g⟩
    if (f64 pg).lt FVal.one then pairUp n (sm ++ [g]) lg x else pairUp n sm (g :: lg) x
  | _, sm, lg, x => (x, sm ++ lg)

/-- The least k with the largest weight. -/
def heaviest (w : List (BitVec 32)) : Nat :=
  (w.foldl (fun (acc : Nat × Nat × FVal) x =>
    if acc.2.2.lt (f32 x.toNat) then (acc.1 + 1, acc.1, f32 x.toNat) else (acc.1 + 1, acc.2)) (0, 0, .inf true)).2.1

/-- A weight that makes the table invalid: negative, NaN or infinite. -/
def badWeight (w : BitVec 32) : Bool := let v := f32 w.toNat; v.isNan || v.isInf || (v.neg? && !v.isZero)

/-- The built table and Z, or none for a sum of zero. -/
def buildTable (w : List (BitVec 32)) : Option (AliasTab × Nat) :=
  let n := w.length
  let ws := w.map fun x => rne64 (f32 x.toNat)
  let z := ws.foldl add64 0
  if (f64 z).isZero then none
  else
    let p := ws.map fun x => div64 (mul64 x (of64 n)) z
    let ks := List.range n
    let small := ks.filter fun k => (f64 (p.getD k 0)).lt FVal.one
    let large := ks.filter fun k => !(f64 (p.getD k 0)).lt FVal.one
    let (x, left) := pairUp (2 * n) small large ⟨p, List.replicate n one64, ks⟩
    let zero (k : Nat) : Bool := left.contains k && (f32 (w.getD k 0).toNat).isZero
    let q := ks.map fun k => if zero k then 0 else if left.contains k then one64 else x.q.getD k 0
    let al := ks.map fun k => if zero k then heaviest w else if left.contains k then k else x.al.getD k 0
    let thr := q.map fun c => match f64 c with
      | .fin _ m e => min (2 ^ 24) (roundAt .rne false m (e + 24) 0).1
      | _ => 0
    some (⟨w, thr, al, true, false⟩, z)

/-- `.l`: the table built from the weights appended, `mz` and NV. -/
def State.buildAlias (s : State) : State :=
  let w := s.b.tab.weights
  let off (s : State) : State := s.mapB fun b => { b with tab := { b.tab with valid := false, open_ := false } }
  if w.any badWeight then ((off s).mapXc fun x => { x with mz := BitVec.ofNat 64 Fmt.f64.nan }).addFlags flagNV
  else match buildTable w with
    | none => (off s).mapXc fun x => { x with mz := 0 }
    | some (t, z) => (s.mapB fun b => { b with tab := t }).mapXc fun x => { x with mz := BitVec.ofNat 64 z }

def execAlbld (b : Src) (l f : Bool) (s : State) : Host.Outcome State Fault Refusal :=
  s.mIssue fun s =>
    if s.hr.vt ≠ 10 ∨ (!f && !s.b.tab.open_) then .trap s 1 0
    else if s.held = 0 then .trap s 18 0
    else if s.vlen = 0 then s.mDrop none (popOf b) false
    else
      let old := if f then [] else s.b.tab.weights
      if 16384 * s.held < old.length + s.vlen then .trap s 18 0
      else match s.srcWait (popOf b) with
        | some w => .wait s w
        | none =>
          let v := s.src b
          let new := (List.range s.vlen).map fun e => BitVec.ofNat 32 (getEl v 32 e)
          let s := (s.mapB fun b => { b with tab := ⟨old ++ new, [], [], false, true⟩ }).popSrc (popOf b)
          .done (if l then s.buildAlias else s).mDone

/-! Draws (R210). -/

/-- The index drawn for sample number `t`, its scale, and the flags of the scale's rounding (R83). -/
def draw (r : HartRegs) (tab : AliasTab) (z t : Nat) : Nat × BitVec 32 × Flags :=
  let d := (dither r t).toNat
  let slot := d / 2 ^ 32 * tab.weights.length / 2 ^ 32
  let coin := d / 2 ^ 8 % 2 ^ 24
  let k := if coin < tab.thr.getD slot 0 then slot else tab.alias_.getD slot 0
  let w := f32 (tab.weights.getD k 0).toNat
  let q := fpRound .f32 .rne [f64 z, w] ((f64 z).div w)
  (k, BitVec.ofNat 32 q.1, q.2)

/-! Batches (R211, R214). -/

/-- Entries in which a batch comes, and samples in each. -/
def State.pieces (s : State) : Nat := 1024 / s.vlen
def State.perPiece (s : State) : Nat := 16 / s.pieces

def State.putBatch (s : State) (b : Option Batch) : State := s.mapMx fun m => { m with batch := b }

/-- An index entry: the indices of one piece as n16, zeros after. -/
def indexEntry (ks : List Nat) : Entry := ⟨setEls 0 16 (ks.mapIdx fun i k => (i, k)), false, none⟩

/-- The accumulation of a whole batch (R211): each half of 8 samples with one rounding. -/
def batchRow (a : Acc) (t : Reg) (b : Batch) (m : Nat) : List Nat × Flags :=
  (List.range 64).foldl (fun acc c =>
    let ts := (List.range 16).map fun j =>
      let x := scalarAt t (b.aCols.getD j 0) m
      let y := scalarAt t (b.bRows.getD j 0) c
      let g := f32 (b.sig.getD j 0).toNat
      ((x.mul y).mul g, x.mulInvalid y || (x.mul y).mulInvalid g)
    let u := accumulateAll .f32 (a.get (64 * m + c)) (groups 8 16 ts)
    (acc.1 ++ [u.1], acc.2 ||| u.2)) ([], 0)

def batchAcc (a : Acc) (t : Reg) (b : Batch) : Acc × Flags :=
  (List.range 64).foldl (fun u m => let r := batchRow u.1 t b m; (u.1.setRow m r.1, u.2 ||| r.2)) (a, 0)

/-- An f64 step rounded RNE, with its flags. -/
def step64 (x : FVal) (inputs : List FVal) : Nat × Flags := fpRound .f64 .rne inputs x

/-- A quotient so rounded; a finite non-zero dividend over zero sets DZ (R87), which `mscnt`² does when the count wraps to 0. -/
def quotient64 (x y : FVal) : Nat × Flags :=
  let q := step64 (x.div y) [x, y]
  (q.1, q.2 ||| flagIf (y.isZero && !x.isZero && !x.isInf && !x.isNan) flagDZ)

/-- Σ acc² in row-major order. -/
def squareSum (a : Acc) : Nat × Flags :=
  (List.range 4096).foldl (fun u i =>
    let x := f32 (a.get i)
    let q := step64 (x.mul x) [x]
    let r := step64 ((f64 u.1).add false (f64 q.1)) [f64 u.1, f64 q.1]
    (r.1, u.2 ||| q.2 ||| r.2)) (0, 0)

/-- `mscnt`, `mfro` and `mvar` after a batch, and their flags. -/
def statistics (x : XRegs) (a : Acc) : XRegs × Flags :=
  let n := (x.mscnt + 16).toNat
  let s := squareSum a
  let nn := step64 (FVal.ofInt (n * n)) []
  let fro := quotient64 (f64 s.1) (f64 nn.1)
  let z := f64 x.mz.toNat
  let zz := step64 (z.mul z) [z]
  let dif := step64 ((f64 zz.1).sub false (f64 fro.1)) [f64 zz.1, f64 fro.1]
  let cnt := step64 (FVal.ofInt n) []
  let var := quotient64 (f64 dif.1) (f64 cnt.1)
  ({ x with mscnt := x.mscnt + 16, mfro := BitVec.ofNat 64 fro.1, mvar := BitVec.ofNat 64 var.1 },
    s.2 ||| nn.2 ||| fro.2 ||| zz.2 ||| dif.2 ||| cnt.2 ||| var.2)

/-- The batch is accumulated and its statistics taken. -/
def State.finishBatch (s : State) (c : BitVec 1) (b : Batch) : State :=
  let r := batchAcc (s.mx.acc c) s.hr.vt b
  let st := statistics s.b.ctx.xc r.1
  (((s.mapMx fun m => { m.setAcc c r.1 with batch := none }).mapXc fun _ => st.1).addFlags (r.2 ||| st.2))

/-- Pops entries of a load queue until `have_` rows have come, cutting each into rows. -/
def State.takeRows (s : State) (q : BitVec 2) (rows : List VReg) : Nat → State × List VReg
  | 0 => (s, rows)
  | n + 1 => match s.lqHead q with
    | none => (s, rows)
    | some e =>
      if 16 ≤ rows.length then (s, rows)
      else (s.popLq q).takeRows q (rows ++ (List.range s.perPiece).map fun r => rowOf e.bits 16 r) n

/-- Pushes the index entries of a batch that are still to push, as far as there is room. -/
def State.pushIndices (s : State) (i : BitVec 2) (b : Batch) : Nat → State × Batch
  | 0 => (s, b)
  | n + 1 =>
    if 2 * s.pieces ≤ b.pushed ∨ !s.sqRoom i then (s, b)
    else
      let ks := (b.ks.drop (b.pushed / 2 * s.perPiece)).take s.perPiece
      (s.pushSq i (indexEntry ks)).pushIndices i { b with pushed := b.pushed + 1 } n

def State.pushToken (s : State) (v : Word) : State := s.mapCtx fun c => { c with tqx := c.tqx ++ [v] }
def State.tokenRoom (s : State) : Bool := decide (s.b.ctx.tqx.length < Config.tokDepth)

/-- The body of a batch from wherever it stands; when it is done the hart is between batches, still at the `msamp`. -/
def State.runBatch (s : State) (c : BitVec 1) (y z i : BitVec 2) (b : Batch) : Res :=
  if !b.token && !s.tokenRoom then .wait (s.putBatch (some b)) (.push .tqx)
  else
    let (s, b) := if b.token then (s, b) else (s.pushToken 1, { b with token := true })
    let (s, b) := s.pushIndices i b 32
    if b.pushed < 2 * s.pieces then .wait (s.putBatch (some b)) (.push (.sq i))
    else
      let (s, br) := s.takeRows y b.bRows 16
      let b := { b with bRows := br }
      if br.length < 16 then .wait (s.putBatch (some b)) (.pop (.lq y))
      else
        let (s, ac) := s.takeRows z b.aCols 16
        let b := { b with aCols := ac }
        if ac.length < 16 then .wait (s.putBatch (some b)) (.pop (.lq z))
        else .done ((s.finishBatch c b).setWait none)

/-- The flags of the stop test: 0 × ∞ is an invalid operation (R73). -/
def State.sampleFlags (s : State) : Flags :=
  let x := s.b.ctx.xc
  flagIf (x.mscnt != 0 && (f64 x.mtgt.toNat).mulInvalid (f64 x.mfro.toNat)) flagNV

/-- R211: the status with which `msamp` ends at a batch start, if it does. The product of the stop test is not rounded (log entry 93). -/
def State.sampleStatus (s : State) (cap : Word) : Option Nat :=
  let x := s.b.ctx.xc
  if x.mscnt ≠ 0 ∧ lessEq (f64 x.mvar.toNat) ((f64 x.mtgt.toNat).mul (f64 x.mfro.toNat)) then some 1
  else if cap.toNat ≤ x.mscnt.toNat then some 0
  else if !s.b.tab.valid then some 2
  else none

def execMsamp (c : BitVec 1) (a : Reg) (y z i : BitVec 2) (s : State) : Host.Outcome State Fault Refusal :=
  s.mIssue fun s =>
    match s.mx.batch with
    | some b => s.runBatch c y z i b
    | none =>
      let x := s.b.ctx.xc
      if (s.hr.vt ≠ 8 ∧ s.hr.vt ≠ 9) ∨ s.vlen = 0 ∨ s.vlen % 64 ≠ 0 ∨ 1024 % s.vlen ≠ 0 ∨ (s.mx.acc c).f64 ∨
          !s.mx.shadow.rows.isEmpty ∨ (x.mscnt ≠ 0 ∧ x.statTag ≠ c) then .trap s 1 0
      else if s.held = 0 then .trap s 18 0
      else
        let s := s.mapXc fun x => { x with statTag := c }
        match s.sampleStatus (s.xReg a) with
        | some st =>
          if !s.tokenRoom then .wait s (.push .tqx)
          else
            let s := ((s.pushToken 0).setX a (BitVec.ofNat 64 st)).addFlags s.sampleFlags
            .done (s.useDither (st != 2)).mDone
        | none =>
          let ds := (List.range 16).map fun j => draw s.hr s.b.tab s.b.ctx.xc.mz.toNat (s.b.ctx.xc.mscnt.toNat + j)
          (s.addFlags (ds.foldl (fun f d => f ||| d.2.2) s.sampleFlags)).runBatch c y z i ⟨ds.map (·.1), ds.map (·.2.1), false, 0, [], []⟩

/-- R213. -/
def execMstat (d sel : Reg) (s : State) : Host.Outcome State Fault Refusal :=
  s.mIssue fun s =>
    let x := s.b.ctx.xc
    let v : Word := match sel.toNat with
      | 0 => x.mscnt
      | 1 => x.mvar
      | 2 => x.mfro
      | 3 => if s.b.tab.valid then BitVec.ofNat 64 s.b.tab.weights.length else 0
      | _ => x.mz
    .done (s.setX d v).retire

end Sys2Proof.Machine
end

