-- ==== Sys2Proof/Machine/VCvt.lean ====
section
/-! DEFINITION. Conversions and scaling of major 0x1F (spec/26 R330, R333, R334, spec/27 R348, with spec/05 R78, R80, R81). -/

namespace Sys2Proof.Machine

/-- The source of a conversion as a sequence of values: block `i` / n of a block type is decoded whole (R75-R77). -/
def sourceVal (st : Reg) (v : VReg) (i : Nat) : FVal × Flags :=
  if isBlock st then
    let (l, fl) := decodeBlock st (getEl v 256 (i / blockElems st))
    (l.getD (i % blockElems st) .nan, fl)
  else if isInt st then (.ofInt (intVal st (getEl v (sewOf st) i)), 0)
  else match fmtOf st with
    | some f => (f.decode (getEl v (sewOf st) i), 0)
    | none => (.nan, 0)

/-- R334: the source bytes that a conversion of `n` destination elements needs. -/
def sourceBytes (st t : Reg) (n : Nat) : Nat :=
  let els := if isBlock t then n * blockElems t else n
  if isBlock st then (els + blockElems st - 1) / blockElems st * 32 else els * bytesOf st

/-- R334: a complex type on one side only is illegal, and so is a source longer than a register. -/
def cvtOk (s : State) (st : Reg) : Bool :=
  isComplex st == isComplex s.hr.vt && decide (sourceBytes st s.hr.vt s.vlen ≤ s.b.ctx.capX.toNat)

def State.cbound (s : State) : BitVec 32 := s.b.ctx.bound

/-- Clamp of one value to a scalar floating format, for Dither index `i`. -/
def State.clampVal (s : State) (f : Fmt) (i : Nat) (x : FVal) : Nat × Flags × Bool := f.clamp (s.hr.mode i) s.hr.fm s.cbound x

/-- R334: destination element `e`. -/
def State.cvtEl (s : State) (st : Reg) (v : VReg) (e : Nat) : Nat × Flags × Bool :=
  let t := s.hr.vt
  if isComplex t then
    match fmtOf st, fmtOf t with
    | some g, some f =>
      let c := getEl v (sewOf st) e
      let re := s.clampVal f (2 * e) (g.decode (rePart (sewOf st) c))
      let im := s.clampVal f (2 * e + 1) (g.decode (imPart (sewOf st) c))
      (ofParts (sewOf t) re.1 im.1, re.2.1 ||| im.2.1, re.2.2 || im.2.2)
    | _, _ => (0, 0, false)
  else if isBlock t then
    let n := blockElems t
    let src := (List.range n).map fun j => sourceVal st v (n * e + j)
    let cl := src.map fun x => clampBlock t s.hr.fm s.cbound x.1
    let b := encodeBlock t s.hr.mode (n * e) (cl.map (·.1))
    (b.1, b.2 ||| src.foldl (fun f x => f ||| x.2) 0 ||| cl.foldl (fun f x => f ||| x.2.1) 0, cl.any (·.2.2))
  else if isInt t then
    if isInt st then
      let x := intVal st (getEl v (sewOf st) e)
      let r := toInteger .rne (sewOf t) (isSigned t) (.ofInt x)
      (ofSigned (sewOf t) r.1, r.2, false)
    else
      let x := sourceVal st v e
      let r := toInteger (s.hr.mode e) (sewOf t) (isSigned t) x.1
      (ofSigned (sewOf t) r.1, r.2 ||| x.2, false)
  else
    match fmtOf t with
    | some f =>
      let x := sourceVal st v e
      let c := s.clampVal f e x.1
      (c.1, c.2.1 ||| x.2, c.2.2)
    | none => (0, 0, false)

/-- The instruction writes the register it reads, as its destination or as the copy of its prefix. -/
def State.overwrites (s : State) (d : Dst) : Src → Bool
  | .lq _ => false
  | .v r => d == .v r || (s.pflCe && s.pflCopy == r)

/-- R328, R334: destination elements in ascending order, each read before it is written: where the source is overwritten, a later one
reads what an earlier one wrote. -/
def State.cvtRun (s : State) (d : Dst) (st : Reg) (b : Src) (m : Mask) (lo hi : Nat) : VOut :=
  let hit := s.overwrites d b
  ((List.range' lo (hi - lo)).foldl (fun (o : VReg × VOut) e =>
    if m.getLsbD e then
      let (x, fl, sat) := s.cvtEl st o.1 e
      (if hit then setEl o.1 s.vw e x else o.1,
        ⟨o.2.els ++ [(e, x)], o.2.flags ||| fl, if sat then o.2.sat ||| ((1 : Mask) <<< e) else o.2.sat⟩)
    else o) (s.src b, ⟨[], 0, 0⟩)).2

def execVcvt (d : Dst) (st : Reg) (b : Src) (k : BitVec 4) (s : State) : Host.Outcome State Fault Refusal :=
  s.vIssue fun s => s.vEachRun (cvtOk s st) true d (popOf b) k true fun s m lo hi => s.cvtRun d st b m lo hi

def execVclamp (d : Dst) (b : Src) (k : BitVec 4) (s : State) : Host.Outcome State Fault Refusal :=
  s.vIssue fun s => s.vEachRun (decide (8 ≤ s.hr.vt.toNat ∧ s.hr.vt.toNat ≤ 13)) true d (popOf b) k false fun s m lo hi =>
    runEls m lo hi fun e => match fmtOf s.hr.vt with
      | some f => s.clampVal f e (f.decode (s.elB b e))
      | none => (0, 0, false)

/-- R348: an exponent beyond ±5,000 gives what ±5,000 gives in every format, so that no longer shift is formed. -/
def scaleExp (i : Int) : Int := max (-5000) (min 5000 i)

def scaleEl (r : HartRegs) (t : Reg) (e a b : Nat) : Nat × Flags :=
  fpParts r t e fun f o _ => fpRound f o [f.decode a] ((f.decode a).mul (.pow2 (scaleExp (toSigned (sewOf t) b))))

def execVscl (d : Dst) (a : Reg) (b : Src) (k : BitVec 4) (s : State) : Host.Outcome State Fault Refusal := vFp isReal true scaleEl d a b k s
def execVsclVs (d : Dst) (a b : Reg) (k : BitVec 4) (s : State) : Host.Outcome State Fault Refusal := vFpVs isReal true scaleEl d a b k s

/-- R330: the largest magnitude, NaN if an active element is NaN. -/
def absMax (s : State) (m : Mask) (a : Reg) (f : Fmt) : FVal :=
  (List.range s.vlen).foldl (fun r e =>
    if m.getLsbD e then
      let x := (f.decode (s.elA a e)).abs
      if x.isNan || r.isNan then .nan else if r.lt x then x else r
    else r) .zero

def execVamax (d : Dst) (a : Reg) (k : BitVec 4) (s : State) : Host.Outcome State Fault Refusal :=
  s.vIssue fun s => s.vWhole (isReal s.hr.vt) d none k false fun s m =>
    match fmtOf s.hr.vt with
    | some f => ([(0, (f.round .rne (absMax s m a f)).1)], 0)
    | none => ([], 0)

end Sys2Proof.Machine
end

