-- ==== Sys2Proof/Machine/VInt.lean ====
section
/-! DEFINITION. Integer vector instructions of major 0x1A (spec/26 R329). -/

namespace Sys2Proof.Machine

/-- Operands under the signedness of `vt`, and the result modulo 2^SEW. -/
def intOp (f : Int → Int → Int) (t : Reg) (a b : Nat) : Nat := ofSigned (sewOf t) (f (intVal t a) (intVal t b))

/-- A shift by N(b) mod SEW. -/
def shiftOp (f : Nat → Nat → Nat → Nat) (t : Reg) (a b : Nat) : Nat := f (sewOf t) a (b % sewOf t)
def sarEl (w a n : Nat) : Nat := ofSigned w (toSigned w a / 2 ^ n)

/-- A binary integer instruction with a vector or scalar second source. -/
def vInt (f : Reg → Nat → Nat → Nat) (d : Dst) (a : Reg) (b : Src) (k : BitVec 4) (s : State) : Host.Outcome State Fault Refusal :=
  s.vIssue fun s => s.vEach (isInt s.hr.vt) d (popOf b) k false fun s e => (f s.hr.vt (s.elA a e) (s.elB b e), 0, false)
def vIntVs (f : Reg → Nat → Nat → Nat) (d : Dst) (a b : Reg) (k : BitVec 4) (s : State) : Host.Outcome State Fault Refusal :=
  s.vIssue fun s => s.vEach (isInt s.hr.vt) d none k false fun s e => (f s.hr.vt (s.elA a e) (s.vsScalar b), 0, false)

def execVadd (d : Dst) (a : Reg) (b : Src) (k : BitVec 4) (s : State) : Host.Outcome State Fault Refusal := vInt (intOp (fun a b => a + b)) d a b k s
def execVaddVs (d : Dst) (a b : Reg) (k : BitVec 4) (s : State) : Host.Outcome State Fault Refusal := vIntVs (intOp (fun a b => a + b)) d a b k s
def execVsub (d : Dst) (a : Reg) (b : Src) (k : BitVec 4) (s : State) : Host.Outcome State Fault Refusal := vInt (intOp (fun a b => a - b)) d a b k s
def execVsubVs (d : Dst) (a b : Reg) (k : BitVec 4) (s : State) : Host.Outcome State Fault Refusal := vIntVs (intOp (fun a b => a - b)) d a b k s
def execVmul (d : Dst) (a : Reg) (b : Src) (k : BitVec 4) (s : State) : Host.Outcome State Fault Refusal := vInt (intOp (fun a b => a * b)) d a b k s
def execVmulVs (d : Dst) (a b : Reg) (k : BitVec 4) (s : State) : Host.Outcome State Fault Refusal := vIntVs (intOp (fun a b => a * b)) d a b k s
def execVmulh (d : Dst) (a : Reg) (b : Src) (k : BitVec 4) (s : State) : Host.Outcome State Fault Refusal := vInt (fun t => intOp (fun a b => a * b / 2 ^ sewOf t) t) d a b k s
def execVmulhVs (d : Dst) (a b : Reg) (k : BitVec 4) (s : State) : Host.Outcome State Fault Refusal := vIntVs (fun t => intOp (fun a b => a * b / 2 ^ sewOf t) t) d a b k s
def execVmin (d : Dst) (a : Reg) (b : Src) (k : BitVec 4) (s : State) : Host.Outcome State Fault Refusal := vInt (intOp (fun a b => min a b)) d a b k s
def execVminVs (d : Dst) (a b : Reg) (k : BitVec 4) (s : State) : Host.Outcome State Fault Refusal := vIntVs (intOp (fun a b => min a b)) d a b k s
def execVmax (d : Dst) (a : Reg) (b : Src) (k : BitVec 4) (s : State) : Host.Outcome State Fault Refusal := vInt (intOp (fun a b => max a b)) d a b k s
def execVmaxVs (d : Dst) (a b : Reg) (k : BitVec 4) (s : State) : Host.Outcome State Fault Refusal := vIntVs (intOp (fun a b => max a b)) d a b k s
def execVand (d : Dst) (a : Reg) (b : Src) (k : BitVec 4) (s : State) : Host.Outcome State Fault Refusal := vInt (fun _ a b => a &&& b) d a b k s
def execVandVs (d : Dst) (a b : Reg) (k : BitVec 4) (s : State) : Host.Outcome State Fault Refusal := vIntVs (fun _ a b => a &&& b) d a b k s
def execVor (d : Dst) (a : Reg) (b : Src) (k : BitVec 4) (s : State) : Host.Outcome State Fault Refusal := vInt (fun _ a b => a ||| b) d a b k s
def execVorVs (d : Dst) (a b : Reg) (k : BitVec 4) (s : State) : Host.Outcome State Fault Refusal := vIntVs (fun _ a b => a ||| b) d a b k s
def execVxor (d : Dst) (a : Reg) (b : Src) (k : BitVec 4) (s : State) : Host.Outcome State Fault Refusal := vInt (fun _ a b => a ^^^ b) d a b k s
def execVxorVs (d : Dst) (a b : Reg) (k : BitVec 4) (s : State) : Host.Outcome State Fault Refusal := vIntVs (fun _ a b => a ^^^ b) d a b k s
def execVshl (d : Dst) (a : Reg) (b : Src) (k : BitVec 4) (s : State) : Host.Outcome State Fault Refusal := vInt (shiftOp (fun w a n => a * 2 ^ n % 2 ^ w)) d a b k s
def execVshlVs (d : Dst) (a b : Reg) (k : BitVec 4) (s : State) : Host.Outcome State Fault Refusal := vIntVs (shiftOp (fun w a n => a * 2 ^ n % 2 ^ w)) d a b k s
def execVshr (d : Dst) (a : Reg) (b : Src) (k : BitVec 4) (s : State) : Host.Outcome State Fault Refusal := vInt (shiftOp (fun _ a n => a / 2 ^ n)) d a b k s
def execVshrVs (d : Dst) (a b : Reg) (k : BitVec 4) (s : State) : Host.Outcome State Fault Refusal := vIntVs (shiftOp (fun _ a n => a / 2 ^ n)) d a b k s
def execVsar (d : Dst) (a : Reg) (b : Src) (k : BitVec 4) (s : State) : Host.Outcome State Fault Refusal := vInt (shiftOp sarEl) d a b k s
def execVsarVs (d : Dst) (a b : Reg) (k : BitVec 4) (s : State) : Host.Outcome State Fault Refusal := vIntVs (shiftOp sarEl) d a b k s

/-- A unary integer instruction. -/
def vIntUnary (f : Reg → Nat → Nat) (d : Dst) (b : Src) (k : BitVec 4) (s : State) : Host.Outcome State Fault Refusal :=
  s.vIssue fun s => s.vEach (isInt s.hr.vt) d (popOf b) k false fun s e => (f s.hr.vt (s.elB b e), 0, false)
def execVabs (d : Dst) (b : Src) (k : BitVec 4) (s : State) : Host.Outcome State Fault Refusal :=
  vIntUnary (fun t b => ofSigned (sewOf t) (intVal t b).natAbs) d b k s
def execVneg (d : Dst) (b : Src) (k : BitVec 4) (s : State) : Host.Outcome State Fault Refusal :=
  vIntUnary (fun t b => ofSigned (sewOf t) (-(b : Int))) d b k s

end Sys2Proof.Machine
end

