-- ==== Sys2Proof/Machine/Window.lean ====
section
/-! DEFINITION. Accumulation windows (spec/08 R139-R141, spec/24 R296, R297). The copies' bytes are written as own-pool stores of the
hart, so that under replica execution they wait in the release buffer (log entry 29). -/

namespace Sys2Proof.Machine

def State.window (s : State) (w : BitVec 2) : Option Window := s.b.ctx.wins.get w.toFin
def State.setWindow (s : State) (w : BitVec 2) (x : Option Window) : State :=
  s.mapCtx fun c => { c with wins := c.wins.set w.toNat x w.isLt }

/-- R136's types for a window operation. -/
def windowType (op : Nat) (t : Reg) : Bool :=
  match op with
  | 0 => vamoInt t
  | 1 => vamoFp t
  | _ => vamoInt t || vamoFp t

/-- R88: the identity of an operation. -/
def windowIdentity (op : Nat) (t : Reg) : Nat :=
  match op with
  | 0 => 0
  | 1 => negZero t
  | 2 => if vamoFp t then infOf t true else minCode t
  | _ => if vamoFp t then infOf t false else maxCode t

def windowOp (op : Nat) (t : Reg) : Update :=
  match op with
  | 0 => updNat fun x y => x + y
  | 1 => updFadd
  | 2 => updTyped (fun x y => max x y) FVal.max t
  | _ => updTyped (fun x y => min x y) FVal.min t

/-- Pool offset of an element of lane `l`'s copy. -/
def Window.place (x : Window) (l off : Nat) : Nat := x.pool + l * x.len + off

/-- An own-pool store of the hart. -/
def State.poolStore (s : State) (off n v : Nat) : Except Halt (State × Nat) :=
  if s.bufferFull n then .error (.wait .forced)
  else .ok (s.commit (s.item 1 (BitVec.ofNat 64 off) (poolKey s.b.core off) n v false), 0)

/-- Every offset of every copy. -/
def Window.spots (x : Window) : List Nat := (List.range (16 * x.len / bytesOf x.ty)).map fun i => x.pool + i * bytesOf x.ty

/-- Fills the copies with the identity, going on where an earlier attempt waited. -/
def State.fillCopies (s : State) (x : Window) (base : Nat) (k : State → Res) : Res :=
  let n := bytesOf x.ty
  let r := runOps id (fun s off => s.poolStore off n (windowIdentity x.op.toNat x.ty)) (x.spots.drop (s.b.memDone - base)) s []
    (max base s.b.memDone)
  match r.halt with
  | some (_, .wait w) => .wait (r.s.mapB fun b => { b with memDone := r.count }) w
  | some (_, .trap c) => .trap r.s c 0
  | none => k (r.s.mapB fun b => { b with memDone := 0 })

def execAwin (a b : Reg) (o : BitVec 3) (w : BitVec 2) (s : State) : Host.Outcome State Fault Refusal :=
  s.aIssue fun s =>
    let va := s.aReg a
    let v := s.aReg b
    let len := (v.extractLsb' 0 17).toNat
    let pool := (v.extractLsb' 20 20).toNat
    if v.extractLsb' 17 3 ≠ 0 ∨ v.extractLsb' 40 24 ≠ 0 ∨ 3 < o.toNat ∨ (s.window w).isSome ∨ !windowType o.toNat s.hr.vt then
      .trap s 1 0
    else if len < 8 ∨ 65536 < len ∨ len % 8 ≠ 0 ∨ pool % 8 ≠ 0 ∨ va.toNat % 8 ≠ 0 then .trap s 3 va
    else if 2 ^ 20 < pool + 16 * len then .trap s 6 (BitVec.ofNat 64 (pool + 16 * len))
    else
      let x : Window := ⟨va, len, pool, o, s.hr.vt⟩
      s.fillCopies x 0 fun s => .done (s.setWindow w (some x)).retire

/-- R141, R296: one element of `aacc`. -/
def State.aaccEl (x : Window) (data index : VReg) (s : State) (e : Nat) : Except Halt (State × Nat) :=
  let n := bytesOf x.ty
  let off := getEl index s.vw e * n
  if x.len ≤ off then .error (.trap 6)
  else
    let at_ := x.place (e % 16) off
    let key := poolKey s.b.core at_
    if s.poisonUnder s.b.buf key n .load then .error (.trap 7)
    else
      let old := s.overBuffer key n (s.readMem key n)
      let r := windowOp x.op.toNat x.ty s.hr s.vw e old (getEl data s.vw e) 0
      match s.poolStore at_ n r.1 with
      | .ok (t, v) => .ok (t.addFlags r.2, v)
      | .error h => .error h

def execAacc (q i : BitVec 2) (m : Bool) (w : BitVec 2) (s : State) : Host.Outcome State Fault Refusal :=
  s.aIssue fun s =>
    match s.window w with
    | none => .trap s 1 0
    | some x =>
      if x.ty ≠ s.hr.vt ∨ q = i then .trap s 1 0
      else match s.heads m (some q) (some i) with
        | .error wt => .wait s wt
        | .ok h =>
          let finish (s : State) : Res := .done ((s.useDither (x.op == 1 && s.hr.sr)).popHeads m (some q) (some i)).memEnd
          if h.drop then finish s
          else
            let hi := s.memHi
            let ops := s.activeFrom h.m hi
            let r := runOps id (State.aaccEl x h.data h.index) (ops.drop s.b.memDone) s [] s.b.memDone
            match r.halt with
            | some (e, .trap c) => r.s.memTrap e c
            | some (e, .wait wt) => .wait (r.s.memWait ops r.count e) wt
            | none => if hi < s.vlen then .done (r.s.memStop hi) else finish r.s

/-- R297, phase 1: the first element of the target that fails, with its cause. -/
def State.mergeFault (s : State) (x : Window) : List Nat → Option (Nat × Nat)
  | [] => none
  | e :: r =>
    let va := x.base + BitVec.ofNat 64 (e * bytesOf x.ty)
    if va.extractLsb' 57 7 ≠ 0 then some (e, 6)
    else match s.ownCheck va.toNat (bytesOf x.ty) .atomic with
      | .error c => some (e, c)
      | .ok (key, t) => if t.poisonUnder t.b.buf key (bytesOf x.ty) .atomic then some (e, 7) else s.mergeFault x r

/-- R141, R297: one offset merged at its home; poison in a copy leaves it unwritten with a health event. Under SR the element index of every
addition is the offset's index in the window, the same for all 16 copies (log entry 74). -/
def State.mergeEl (x : Window) (p : State × Flags) (e : Nat) : State × Flags :=
  let n := bytesOf x.ty
  let va := x.base + BitVec.ofNat 64 (e * n)
  let s := p.1
  match s.own va.toNat n .atomic with
  | .error _ => p
  | .ok (key, s) =>
    let keys := (List.range 16).map fun l => poolKey s.b.core (x.place l (e * n))
    if keys.any fun c => s.poisoned c n then (s.health, p.2)
    else
      let r := keys.foldl (fun (t : Nat × Flags) c =>
        let u := windowOp x.op.toNat x.ty s.hr (8 * n) e t.1 (s.readMem c n) 0
        (u.1, t.2 ||| u.2)) (s.readMem key n, p.2)
      (s.writeMem key n r.1, r.2)

/-- The hart's vector stores perform first (R122). Once the merge is done and the instruction waits while it refills its copies, `memDone` is one
more than the copies filled. -/
def execAmerge (w : BitVec 2) (s : State) : Host.Outcome State Fault Refusal :=
  s.aIssue fun s =>
    match s.window w with
    | none => .trap s 1 0
    | some x =>
      let els := List.range (x.len / bytesOf x.ty)
      let refill (s : State) : Res :=
        s.fillCopies x 1 fun s => .done (s.useDither (x.op == 1 && s.hr.sr)).retire
      if s.b.memDone ≠ 0 then refill s
      else
        let s := s.drainOut
        match s.mergeFault x els with
        | some (e, c) => .trap s c (BitVec.ofNat 64 e)
        | none =>
          s.setPoint (opRecord (.amerge w) []) fun s =>
            s.once (fun s => let p := els.foldl (State.mergeEl x) (s, 0); (p.1, p.2.toNat)) fun s fl =>
              match refill (s.addFlags (BitVec.ofNat 8 fl)) with
              | .wait t wt => .done (t.setWait (some wt))
              | r => r

def execAwclose (w : BitVec 2) (s : State) : Host.Outcome State Fault Refusal :=
  s.aIssue fun s => if (s.window w).isNone then .trap s 1 0 else .done (s.setWindow w none).retire

end Sys2Proof.Machine
end

