-- ==== Sys2Proof/Machine/Dispatch.lean ====
section
/-! DEFINITION. The dispatch of every instruction and event to its meaning. -/

namespace Sys2Proof.Machine

def exec (i : Instr) (s : State) : Host.Outcome State Fault Refusal :=
  match i with
  | .add p1 p2 p3 => Sys2Proof.Machine.execAdd p1 p2 p3 s
  | .sub p1 p2 p3 => Sys2Proof.Machine.execSub p1 p2 p3 s
  | .mul p1 p2 p3 => Sys2Proof.Machine.execMul p1 p2 p3 s
  | .mulh p1 p2 p3 => Sys2Proof.Machine.execMulh p1 p2 p3 s
  | .mulhn p1 p2 p3 => Sys2Proof.Machine.execMulhn p1 p2 p3 s
  | .div p1 p2 p3 => Sys2Proof.Machine.execDiv p1 p2 p3 s
  | .divn p1 p2 p3 => Sys2Proof.Machine.execDivn p1 p2 p3 s
  | .rem p1 p2 p3 => Sys2Proof.Machine.execRem p1 p2 p3 s
  | .remn p1 p2 p3 => Sys2Proof.Machine.execRemn p1 p2 p3 s
  | .and p1 p2 p3 => Sys2Proof.Machine.execAnd p1 p2 p3 s
  | .or p1 p2 p3 => Sys2Proof.Machine.execOr p1 p2 p3 s
  | .xor p1 p2 p3 => Sys2Proof.Machine.execXor p1 p2 p3 s
  | .shl p1 p2 p3 => Sys2Proof.Machine.execShl p1 p2 p3 s
  | .shr p1 p2 p3 => Sys2Proof.Machine.execShr p1 p2 p3 s
  | .sar p1 p2 p3 => Sys2Proof.Machine.execSar p1 p2 p3 s
  | .min p1 p2 p3 => Sys2Proof.Machine.execMin p1 p2 p3 s
  | .max p1 p2 p3 => Sys2Proof.Machine.execMax p1 p2 p3 s
  | .minn p1 p2 p3 => Sys2Proof.Machine.execMinn p1 p2 p3 s
  | .maxn p1 p2 p3 => Sys2Proof.Machine.execMaxn p1 p2 p3 s
  | .seq p1 p2 p3 => Sys2Proof.Machine.execSeq p1 p2 p3 s
  | .sne p1 p2 p3 => Sys2Proof.Machine.execSne p1 p2 p3 s
  | .slt p1 p2 p3 => Sys2Proof.Machine.execSlt p1 p2 p3 s
  | .sltn p1 p2 p3 => Sys2Proof.Machine.execSltn p1 p2 p3 s
  | .clz p1 p2 => Sys2Proof.Machine.execClz p1 p2 s
  | .ctz p1 p2 => Sys2Proof.Machine.execCtz p1 p2 s
  | .pop p1 p2 => Sys2Proof.Machine.execPop p1 p2 s
  | .addi p1 p2 p3 => Sys2Proof.Machine.execAddi p1 p2 p3 s
  | .andi p1 p2 p3 => Sys2Proof.Machine.execAndi p1 p2 p3 s
  | .ori p1 p2 p3 => Sys2Proof.Machine.execOri p1 p2 p3 s
  | .xori p1 p2 p3 => Sys2Proof.Machine.execXori p1 p2 p3 s
  | .shli p1 p2 p3 => Sys2Proof.Machine.execShli p1 p2 p3 s
  | .shri p1 p2 p3 => Sys2Proof.Machine.execShri p1 p2 p3 s
  | .sari p1 p2 p3 => Sys2Proof.Machine.execSari p1 p2 p3 s
  | .lhi p1 p2 p3 => Sys2Proof.Machine.execLhi p1 p2 p3 s
  | .slti p1 p2 p3 => Sys2Proof.Machine.execSlti p1 p2 p3 s
  | .ld p1 p2 p3 p4 => Sys2Proof.Machine.execLd p1 p2 p3 p4 s
  | .st p1 p2 p3 p4 => Sys2Proof.Machine.execSt p1 p2 p3 p4 s
  | .beq p1 p2 p3 => Sys2Proof.Machine.execBeq p1 p2 p3 s
  | .bne p1 p2 p3 => Sys2Proof.Machine.execBne p1 p2 p3 s
  | .blt p1 p2 p3 => Sys2Proof.Machine.execBlt p1 p2 p3 s
  | .bge p1 p2 p3 => Sys2Proof.Machine.execBge p1 p2 p3 s
  | .bltn p1 p2 p3 => Sys2Proof.Machine.execBltn p1 p2 p3 s
  | .bgen p1 p2 p3 => Sys2Proof.Machine.execBgen p1 p2 p3 s
  | .jmp p1 => Sys2Proof.Machine.execJmp p1 s
  | .jal p1 => Sys2Proof.Machine.execJal p1 s
  | .jr p1 => Sys2Proof.Machine.execJr p1 s
  | .tsend p1 => Sys2Proof.Machine.execTsend p1 s
  | .trecv p1 => Sys2Proof.Machine.execTrecv p1 s
  | .ksend p1 => Sys2Proof.Machine.execKsend p1 s
  | .bqt p1 => Sys2Proof.Machine.execBqt p1 s
  | .bqf p1 => Sys2Proof.Machine.execBqf p1 s
  | .setvl p1 p2 p3 => Sys2Proof.Machine.execSetvl p1 p2 p3 s
  | .setvls p1 p2 p3 p4 => Sys2Proof.Machine.execSetvls p1 p2 p3 p4 s
  | .setmt p1 => Sys2Proof.Machine.execSetmt p1 s
  | .vld p1 p2 p3 => Sys2Proof.Machine.execVld p1 p2 p3 s
  | .vlds p1 p2 p3 p4 => Sys2Proof.Machine.execVlds p1 p2 p3 p4 s
  | .vldx p1 p2 p3 p4 p5 => Sys2Proof.Machine.execVldx p1 p2 p3 p4 p5 s
  | .vldz p1 p2 p3 => Sys2Proof.Machine.execVldz p1 p2 p3 s
  | .vldo p1 p2 p3 => Sys2Proof.Machine.execVldo p1 p2 p3 s
  | .vpref p1 p2 => Sys2Proof.Machine.execVpref p1 p2 s
  | .vst p1 p2 p3 => Sys2Proof.Machine.execVst p1 p2 p3 s
  | .vsts p1 p2 p3 p4 => Sys2Proof.Machine.execVsts p1 p2 p3 p4 s
  | .vstx p1 p2 p3 p4 p5 => Sys2Proof.Machine.execVstx p1 p2 p3 p4 p5 s
  | .vstn p1 p2 p3 p4 p5 => Sys2Proof.Machine.execVstn p1 p2 p3 p4 p5 s
  | .vsto p1 p2 p3 => Sys2Proof.Machine.execVsto p1 p2 p3 s
  | .vstu p1 p2 p3 => Sys2Proof.Machine.execVstu p1 p2 p3 s
  | .vadd p1 p2 p3 p4 => Sys2Proof.Machine.execVadd p1 p2 p3 p4 s
  | .vaddVs p1 p2 p3 p4 => Sys2Proof.Machine.execVaddVs p1 p2 p3 p4 s
  | .vsub p1 p2 p3 p4 => Sys2Proof.Machine.execVsub p1 p2 p3 p4 s
  | .vsubVs p1 p2 p3 p4 => Sys2Proof.Machine.execVsubVs p1 p2 p3 p4 s
  | .vmul p1 p2 p3 p4 => Sys2Proof.Machine.execVmul p1 p2 p3 p4 s
  | .vmulVs p1 p2 p3 p4 => Sys2Proof.Machine.execVmulVs p1 p2 p3 p4 s
  | .vmulh p1 p2 p3 p4 => Sys2Proof.Machine.execVmulh p1 p2 p3 p4 s
  | .vmulhVs p1 p2 p3 p4 => Sys2Proof.Machine.execVmulhVs p1 p2 p3 p4 s
  | .vmin p1 p2 p3 p4 => Sys2Proof.Machine.execVmin p1 p2 p3 p4 s
  | .vminVs p1 p2 p3 p4 => Sys2Proof.Machine.execVminVs p1 p2 p3 p4 s
  | .vmax p1 p2 p3 p4 => Sys2Proof.Machine.execVmax p1 p2 p3 p4 s
  | .vmaxVs p1 p2 p3 p4 => Sys2Proof.Machine.execVmaxVs p1 p2 p3 p4 s
  | .vand p1 p2 p3 p4 => Sys2Proof.Machine.execVand p1 p2 p3 p4 s
  | .vandVs p1 p2 p3 p4 => Sys2Proof.Machine.execVandVs p1 p2 p3 p4 s
  | .vor p1 p2 p3 p4 => Sys2Proof.Machine.execVor p1 p2 p3 p4 s
  | .vorVs p1 p2 p3 p4 => Sys2Proof.Machine.execVorVs p1 p2 p3 p4 s
  | .vxor p1 p2 p3 p4 => Sys2Proof.Machine.execVxor p1 p2 p3 p4 s
  | .vxorVs p1 p2 p3 p4 => Sys2Proof.Machine.execVxorVs p1 p2 p3 p4 s
  | .vshl p1 p2 p3 p4 => Sys2Proof.Machine.execVshl p1 p2 p3 p4 s
  | .vshlVs p1 p2 p3 p4 => Sys2Proof.Machine.execVshlVs p1 p2 p3 p4 s
  | .vshr p1 p2 p3 p4 => Sys2Proof.Machine.execVshr p1 p2 p3 p4 s
  | .vshrVs p1 p2 p3 p4 => Sys2Proof.Machine.execVshrVs p1 p2 p3 p4 s
  | .vsar p1 p2 p3 p4 => Sys2Proof.Machine.execVsar p1 p2 p3 p4 s
  | .vsarVs p1 p2 p3 p4 => Sys2Proof.Machine.execVsarVs p1 p2 p3 p4 s
  | .vabs p1 p2 p3 => Sys2Proof.Machine.execVabs p1 p2 p3 s
  | .vneg p1 p2 p3 => Sys2Proof.Machine.execVneg p1 p2 p3 s
  | .vfadd p1 p2 p3 p4 => Sys2Proof.Machine.execVfadd p1 p2 p3 p4 s
  | .vfaddVs p1 p2 p3 p4 => Sys2Proof.Machine.execVfaddVs p1 p2 p3 p4 s
  | .vfsub p1 p2 p3 p4 => Sys2Proof.Machine.execVfsub p1 p2 p3 p4 s
  | .vfsubVs p1 p2 p3 p4 => Sys2Proof.Machine.execVfsubVs p1 p2 p3 p4 s
  | .vfmul p1 p2 p3 p4 => Sys2Proof.Machine.execVfmul p1 p2 p3 p4 s
  | .vfmulVs p1 p2 p3 p4 => Sys2Proof.Machine.execVfmulVs p1 p2 p3 p4 s
  | .vfdiv p1 p2 p3 p4 => Sys2Proof.Machine.execVfdiv p1 p2 p3 p4 s
  | .vfdivVs p1 p2 p3 p4 => Sys2Proof.Machine.execVfdivVs p1 p2 p3 p4 s
  | .vfsqrt p1 p2 p3 => Sys2Proof.Machine.execVfsqrt p1 p2 p3 s
  | .vfmin p1 p2 p3 p4 => Sys2Proof.Machine.execVfmin p1 p2 p3 p4 s
  | .vfminVs p1 p2 p3 p4 => Sys2Proof.Machine.execVfminVs p1 p2 p3 p4 s
  | .vfmax p1 p2 p3 p4 => Sys2Proof.Machine.execVfmax p1 p2 p3 p4 s
  | .vfmaxVs p1 p2 p3 p4 => Sys2Proof.Machine.execVfmaxVs p1 p2 p3 p4 s
  | .vfabs p1 p2 p3 => Sys2Proof.Machine.execVfabs p1 p2 p3 s
  | .vfneg p1 p2 p3 => Sys2Proof.Machine.execVfneg p1 p2 p3 s
  | .vfma p1 p2 p3 p4 => Sys2Proof.Machine.execVfma p1 p2 p3 p4 s
  | .vfmaVs p1 p2 p3 p4 => Sys2Proof.Machine.execVfmaVs p1 p2 p3 p4 s
  | .vfms p1 p2 p3 p4 => Sys2Proof.Machine.execVfms p1 p2 p3 p4 s
  | .vfmsVs p1 p2 p3 p4 => Sys2Proof.Machine.execVfmsVs p1 p2 p3 p4 s
  | .vfnma p1 p2 p3 p4 => Sys2Proof.Machine.execVfnma p1 p2 p3 p4 s
  | .vfnmaVs p1 p2 p3 p4 => Sys2Proof.Machine.execVfnmaVs p1 p2 p3 p4 s
  | .vtsum p1 p2 p3 p4 => Sys2Proof.Machine.execVtsum p1 p2 p3 p4 s
  | .vcmp p1 p2 p3 p4 => Sys2Proof.Machine.execVcmp p1 p2 p3 p4 s
  | .vcmpVs p1 p2 p3 p4 => Sys2Proof.Machine.execVcmpVs p1 p2 p3 p4 s
  | .vfcmp p1 p2 p3 p4 => Sys2Proof.Machine.execVfcmp p1 p2 p3 p4 s
  | .vfcmpVs p1 p2 p3 p4 => Sys2Proof.Machine.execVfcmpVs p1 p2 p3 p4 s
  | .vsel p1 p2 p3 p4 => Sys2Proof.Machine.execVsel p1 p2 p3 p4 s
  | .vselVs p1 p2 p3 p4 => Sys2Proof.Machine.execVselVs p1 p2 p3 p4 s
  | .kand p1 p2 p3 => Sys2Proof.Machine.execKand p1 p2 p3 s
  | .kor p1 p2 p3 => Sys2Proof.Machine.execKor p1 p2 p3 s
  | .kxor p1 p2 p3 => Sys2Proof.Machine.execKxor p1 p2 p3 s
  | .knot p1 p2 => Sys2Proof.Machine.execKnot p1 p2 s
  | .kmv p1 p2 => Sys2Proof.Machine.execKmv p1 p2 s
  | .kpop p1 p2 => Sys2Proof.Machine.execKpop p1 p2 s
  | .kfirst p1 p2 => Sys2Proof.Machine.execKfirst p1 p2 s
  | .kset p1 p2 => Sys2Proof.Machine.execKset p1 p2 s
  | .vslideup p1 p2 p3 p4 => Sys2Proof.Machine.execVslideup p1 p2 p3 p4 s
  | .vslidedn p1 p2 p3 p4 => Sys2Proof.Machine.execVslidedn p1 p2 p3 p4 s
  | .vperm p1 p2 p3 p4 => Sys2Proof.Machine.execVperm p1 p2 p3 p4 s
  | .vcompress p1 p2 p3 => Sys2Proof.Machine.execVcompress p1 p2 p3 s
  | .vexpand p1 p2 p3 => Sys2Proof.Machine.execVexpand p1 p2 p3 s
  | .viota p1 p2 => Sys2Proof.Machine.execViota p1 p2 s
  | .vnz p1 p2 p3 => Sys2Proof.Machine.execVnz p1 p2 p3 s
  | .vmatch p1 p2 p3 => Sys2Proof.Machine.execVmatch p1 p2 p3 s
  | .vbcast p1 p2 p3 => Sys2Proof.Machine.execVbcast p1 p2 p3 s
  | .vext p1 p2 p3 => Sys2Proof.Machine.execVext p1 p2 p3 s
  | .vmv p1 p2 => Sys2Proof.Machine.execVmv p1 p2 s
  | .vrand p1 p2 => Sys2Proof.Machine.execVrand p1 p2 s
  | .vredsum p1 p2 p3 => Sys2Proof.Machine.execVredsum p1 p2 p3 s
  | .vfredsum p1 p2 p3 => Sys2Proof.Machine.execVfredsum p1 p2 p3 s
  | .vredmax p1 p2 p3 => Sys2Proof.Machine.execVredmax p1 p2 p3 s
  | .vredmin p1 p2 p3 => Sys2Proof.Machine.execVredmin p1 p2 p3 s
  | .vfredmax p1 p2 p3 => Sys2Proof.Machine.execVfredmax p1 p2 p3 s
  | .vfredmin p1 p2 p3 => Sys2Proof.Machine.execVfredmin p1 p2 p3 s
  | .vscan p1 p2 p3 => Sys2Proof.Machine.execVscan p1 p2 p3 s
  | .vcvt p1 p2 p3 p4 => Sys2Proof.Machine.execVcvt p1 p2 p3 p4 s
  | .vclamp p1 p2 p3 => Sys2Proof.Machine.execVclamp p1 p2 p3 s
  | .vscl p1 p2 p3 p4 => Sys2Proof.Machine.execVscl p1 p2 p3 p4 s
  | .vsclVs p1 p2 p3 p4 => Sys2Proof.Machine.execVsclVs p1 p2 p3 p4 s
  | .vamax p1 p2 p3 => Sys2Proof.Machine.execVamax p1 p2 p3 s
  | .vopt p1 p2 p3 => Sys2Proof.Machine.execVopt p1 p2 p3 s
  | .xsetb p1 => Sys2Proof.Machine.execXsetb p1 s
  | .xloss p1 p2 => Sys2Proof.Machine.execXloss p1 p2 s
  | .xnacc p1 p2 p3 => Sys2Proof.Machine.execXnacc p1 p2 p3 s
  | .xnaccSingle p1 p2 => Sys2Proof.Machine.execXnaccSingle p1 p2 s
  | .xgram p1 p2 p3 p4 => Sys2Proof.Machine.execXgram p1 p2 p3 p4 s
  | .xnorm p1 p2 => Sys2Proof.Machine.execXnorm p1 p2 s
  | .xgate p1 p2 p3 => Sys2Proof.Machine.execXgate p1 p2 p3 s
  | .xcomp p1 p2 p3 p4 => Sys2Proof.Machine.execXcomp p1 p2 p3 p4 s
  | .xwt p1 p2 => Sys2Proof.Machine.execXwt p1 p2 s
  | .xclr p1 p2 => Sys2Proof.Machine.execXclr p1 p2 s
  | .matt p1 p2 => Sys2Proof.Machine.execMatt p1 p2 s
  | .mdet => Sys2Proof.Machine.execMdet s
  | .mlds p1 => Sys2Proof.Machine.execMlds p1 s
  | .mswap => Sys2Proof.Machine.execMswap s
  | .mstr p1 p2 p3 => Sys2Proof.Machine.execMstr p1 p2 p3 s
  | .mzero p1 => Sys2Proof.Machine.execMzero p1 s
  | .mdrn p1 p2 p3 p4 => Sys2Proof.Machine.execMdrn p1 p2 p3 p4 s
  | .albld p1 p2 p3 => Sys2Proof.Machine.execAlbld p1 p2 p3 s
  | .msamp p1 p2 p3 p4 p5 => Sys2Proof.Machine.execMsamp p1 p2 p3 p4 p5 s
  | .mstat p1 p2 => Sys2Proof.Machine.execMstat p1 p2 s
  | .amoAdd p1 p2 p3 p4 => Sys2Proof.Machine.execAmoAdd p1 p2 p3 p4 s
  | .amoFadd p1 p2 p3 p4 => Sys2Proof.Machine.execAmoFadd p1 p2 p3 p4 s
  | .amoMax p1 p2 p3 p4 p5 => Sys2Proof.Machine.execAmoMax p1 p2 p3 p4 p5 s
  | .amoMin p1 p2 p3 p4 p5 => Sys2Proof.Machine.execAmoMin p1 p2 p3 p4 p5 s
  | .amoMaxn p1 p2 p3 p4 => Sys2Proof.Machine.execAmoMaxn p1 p2 p3 p4 s
  | .amoMinn p1 p2 p3 p4 => Sys2Proof.Machine.execAmoMinn p1 p2 p3 p4 s
  | .amoXchg p1 p2 p3 p4 => Sys2Proof.Machine.execAmoXchg p1 p2 p3 p4 s
  | .amoCas p1 p2 p3 p4 => Sys2Proof.Machine.execAmoCas p1 p2 p3 p4 s
  | .amoAnd p1 p2 p3 p4 => Sys2Proof.Machine.execAmoAnd p1 p2 p3 p4 s
  | .amoOr p1 p2 p3 p4 => Sys2Proof.Machine.execAmoOr p1 p2 p3 p4 s
  | .amoMaxrs p1 p2 p3 p4 p5 => Sys2Proof.Machine.execAmoMaxrs p1 p2 p3 p4 p5 s
  | .vamoAdd p1 p2 p3 p4 => Sys2Proof.Machine.execVamoAdd p1 p2 p3 p4 s
  | .vamoFadd p1 p2 p3 p4 => Sys2Proof.Machine.execVamoFadd p1 p2 p3 p4 s
  | .vamoMax p1 p2 p3 p4 => Sys2Proof.Machine.execVamoMax p1 p2 p3 p4 s
  | .vamoMin p1 p2 p3 p4 => Sys2Proof.Machine.execVamoMin p1 p2 p3 p4 s
  | .awin p1 p2 p3 p4 => Sys2Proof.Machine.execAwin p1 p2 p3 p4 s
  | .aacc p1 p2 p3 p4 => Sys2Proof.Machine.execAacc p1 p2 p3 p4 s
  | .amerge p1 => Sys2Proof.Machine.execAmerge p1 s
  | .awclose p1 => Sys2Proof.Machine.execAwclose p1 s
  | .post p1 p2 p3 => Sys2Proof.Machine.execPost p1 p2 p3 s
  | .wait p1 p2 => Sys2Proof.Machine.execWait p1 p2 s
  | .lpbind p1 => Sys2Proof.Machine.execLpbind p1 s
  | .barr p1 p2 => Sys2Proof.Machine.execBarr p1 p2 s
  | .bwait p1 p2 => Sys2Proof.Machine.execBwait p1 p2 s
  | .binit p1 p2 => Sys2Proof.Machine.execBinit p1 p2 s
  | .mwait p1 p2 p3 => Sys2Proof.Machine.execMwait p1 p2 p3 s
  | .fenceSv => Sys2Proof.Machine.execFenceSv s
  | .fenceVs => Sys2Proof.Machine.execFenceVs s
  | .fenceAcq p1 => Sys2Proof.Machine.execFenceAcq p1 s
  | .fenceRel p1 => Sys2Proof.Machine.execFenceRel p1 s
  | .fenceFull p1 => Sys2Proof.Machine.execFenceFull p1 s
  | .fenceXp => Sys2Proof.Machine.execFenceXp s
  | .fenceEng => Sys2Proof.Machine.execFenceEng s
  | .sopen p1 p2 p3 p4 p5 => Sys2Proof.Machine.execSopen p1 p2 p3 p4 p5 s
  | .sopenR p1 => Sys2Proof.Machine.execSopenR p1 s
  | .sclose p1 => Sys2Proof.Machine.execSclose p1 s
  | .swait p1 p2 p3 => Sys2Proof.Machine.execSwait p1 p2 p3 s
  | .savail p1 p2 => Sys2Proof.Machine.execSavail p1 p2 s
  | .scancel p1 => Sys2Proof.Machine.execScancel p1 s
  | .strig p1 p2 p3 p4 => Sys2Proof.Machine.execStrig p1 p2 p3 p4 s
  | .ejob p1 p2 p3 => Sys2Proof.Machine.execEjob p1 p2 p3 s
  | .estat p1 p2 => Sys2Proof.Machine.execEstat p1 p2 s
  | .aemap p1 p2 p3 => Sys2Proof.Machine.execAemap p1 p2 p3 s
  | .launch p1 p2 p3 => Sys2Proof.Machine.execLaunch p1 p2 p3 s
  | .tdone => Sys2Proof.Machine.execTdone s
  | .tyield => Sys2Proof.Machine.execTyield s
  | .tid p1 p2 => Sys2Proof.Machine.execTid p1 p2 s
  | .strip p1 => Sys2Proof.Machine.execStrip p1 s
  | .repq p1 => Sys2Proof.Machine.execRepq p1 s
  | .rsig p1 => Sys2Proof.Machine.execRsig p1 s
  | .uien p1 => Sys2Proof.Machine.execUien p1 s
  | .uienOff p1 => Sys2Proof.Machine.execUienOff p1 s
  | .uiret => Sys2Proof.Machine.execUiret s
  | .pfx p1 p2 p3 p4 => Sys2Proof.Machine.execPfx p1 p2 p3 p4 s
  | .crr p1 p2 => Sys2Proof.Machine.execCrr p1 p2 s
  | .crw p1 p2 => Sys2Proof.Machine.execCrw p1 p2 s
  | .crs p1 p2 => Sys2Proof.Machine.execCrs p1 p2 s
  | .crc p1 p2 => Sys2Proof.Machine.execCrc p1 p2 s
  | .sys p1 => Sys2Proof.Machine.execSys p1 s
  | .eret => Sys2Proof.Machine.execEret s
  | .brk p1 => Sys2Proof.Machine.execBrk p1 s
  | .idle => Sys2Proof.Machine.execIdle s
  | .nop => Sys2Proof.Machine.execNop s
  | .ctxsave p1 => Sys2Proof.Machine.execCtxsave p1 s
  | .ctxsaveLeave p1 => Sys2Proof.Machine.execCtxsaveLeave p1 s
  | .ctxload p1 => Sys2Proof.Machine.execCtxload p1 s
  | .tlbinvAll p1 p2 => Sys2Proof.Machine.execTlbinvAll p1 p2 s
  | .tlbinvAsn p1 p2 => Sys2Proof.Machine.execTlbinvAsn p1 p2 s
  | .tlbinvPage p1 p2 => Sys2Proof.Machine.execTlbinvPage p1 p2 s
  | .dcwb p1 p2 => Sys2Proof.Machine.execDcwb p1 p2 s
  | .dcinv p1 p2 => Sys2Proof.Machine.execDcinv p1 p2 s
  | .hostLaunchPush p1 p2 => Sys2Proof.Machine.execHostLaunchPush p1 p2 s
  | .launchWindowErrClear p1 p2 => Sys2Proof.Machine.execLaunchWindowErrClear p1 p2 s
  | .doorbell p1 => Sys2Proof.Machine.execDoorbell p1 s
  | .apertureBaseWrite p1 => Sys2Proof.Machine.execApertureBaseWrite p1 s
  | .apertureAccess p1 p2 p3 => Sys2Proof.Machine.execApertureAccess p1 p2 p3 s
  | .hostMailboxWrite p1 p2 => Sys2Proof.Machine.execHostMailboxWrite p1 p2 s
  | .hostRegisterWrite p1 p2 p3 => Sys2Proof.Machine.execHostRegisterWrite p1 p2 p3 s
  | .coldStart p1 => Sys2Proof.Machine.execColdStart p1 s
  | .warmStart p1 => Sys2Proof.Machine.execWarmStart p1 s
  | .quadFailure p1 => Sys2Proof.Machine.execQuadFailure p1 s
  | .ageingPrediction p1 => Sys2Proof.Machine.execAgeingPrediction p1 s
  | .powerTrim p1 p2 => Sys2Proof.Machine.execPowerTrim p1 p2 s
  | .cardRead p1 => Sys2Proof.Machine.execCardRead p1 s
  | .gangDispatch p1 p2 => Sys2Proof.Machine.execGangDispatch p1 p2 s
  | .gangPreempt p1 => Sys2Proof.Machine.execGangPreempt p1 s
  | .priorityAging p1 => Sys2Proof.Machine.execPriorityAging p1 s
  | .gangResume p1 => Sys2Proof.Machine.execGangResume p1 s
  | .taskCompletion p1 => Sys2Proof.Machine.execTaskCompletion p1 s
  | .queueDeadlock p1 => Sys2Proof.Machine.execQueueDeadlock p1 s
  | .takeInterrupt p1 => Sys2Proof.Machine.execTakeInterrupt p1 s
  | .streamFaultTrap p1 => Sys2Proof.Machine.execStreamFaultTrap p1 s
  | .landingEntry p1 => Sys2Proof.Machine.execLandingEntry p1 s
  | .streamElementLand p1 p2 => Sys2Proof.Machine.execStreamElementLand p1 p2 s
  | .streamElementFault p1 p2 => Sys2Proof.Machine.execStreamElementFault p1 p2 s
  | .streamTriggerFire p1 p2 => Sys2Proof.Machine.execStreamTriggerFire p1 p2 s
  | .engineJobStart p1 => Sys2Proof.Machine.execEngineJobStart p1 s
  | .engineJobComplete p1 => Sys2Proof.Machine.execEngineJobComplete p1 s
  | .engineJobFault p1 => Sys2Proof.Machine.execEngineJobFault p1 s
  | .fabricElementArrival p1 => Sys2Proof.Machine.execFabricElementArrival p1 s
  | .memberLost p1 => Sys2Proof.Machine.execMemberLost p1 s
  | .forcedReleaseBuffer p1 => Sys2Proof.Machine.execForcedReleaseBuffer p1 s
  | .forcedReleaseTimeout p1 => Sys2Proof.Machine.execForcedReleaseTimeout p1 s
  | .scalarCacheWriteback p1 p2 => Sys2Proof.Machine.execScalarCacheWriteback p1 p2 s
  | .mwaitWake p1 => Sys2Proof.Machine.execMwaitWake p1 s
  | .bwaitWake p1 p2 => Sys2Proof.Machine.execBwaitWake p1 p2 s
  | .almanacWaitWake p1 p2 => Sys2Proof.Machine.execAlmanacWaitWake p1 p2 s
  | .postStallWake p1 p2 => Sys2Proof.Machine.execPostStallWake p1 p2 s
  | .queueWaitWake p1 p2 => Sys2Proof.Machine.execQueueWaitWake p1 p2 s
  | .swaitWake p1 => Sys2Proof.Machine.execSwaitWake p1 s
  | .setvlsTrimWake p1 => Sys2Proof.Machine.execSetvlsTrimWake p1 s
  | .grantFifoWake p1 p2 => Sys2Proof.Machine.execGrantFifoWake p1 p2 s
  | .tdoneDrainWake p1 p2 => Sys2Proof.Machine.execTdoneDrainWake p1 p2 s
  | .fenceEngWake p1 p2 => Sys2Proof.Machine.execFenceEngWake p1 p2 s
  | .idleWake p1 p2 => Sys2Proof.Machine.execIdleWake p1 p2 s
  | .chunkSlotWake => Sys2Proof.Machine.execChunkSlotWake s
  | .jobSlotWake p1 => Sys2Proof.Machine.execJobSlotWake p1 s
  | .triggerSlotWake p1 => Sys2Proof.Machine.execTriggerSlotWake p1 s
  | .mattFollowerWake p1 => Sys2Proof.Machine.execMattFollowerWake p1 s
  | .ctxloadSliceWake p1 => Sys2Proof.Machine.execCtxloadSliceWake p1 s
  | .uncorrectableError p1 => Sys2Proof.Machine.execUncorrectableError p1 s
  | .powerLoss => Sys2Proof.Machine.execPowerLoss s
  | .fabricLoadArrival p1 => Sys2Proof.Machine.execFabricLoadArrival p1 s
  | .stavrekPortFailure p1 => Sys2Proof.Machine.execStavrekPortFailure p1 s

end Sys2Proof.Machine
end

