-- ==== Sys2Proof/Machine/Step.lean ====
section
/-! DEFINITION. One step of the module: the turn at the head of the schedule, or the focused hart's (log entry 1); and a program placed
where the next step fetches. -/

namespace Sys2Proof.Machine

/-- A hart's turn: a pending event, a fetch fault, or the instruction at its address. -/
def State.hartTurn (s : State) : Host.Outcome State Fault Refusal :=
  match s.attempt with
  | .state t => .next t
  | .run i t => exec i t

/-- What the module does with no turn given: it starts, or the focused hart moves and the focus goes on. -/
def State.freeTurn (s : State) : Host.Outcome State Fault Refusal :=
  if s.modState = 0 then Sys2Proof.Machine.execColdStart ⟨true, none, 0, s.remap, true⟩ s
  else match s.hartTurn with
    | .next t => .next t.rotate
    | .fault r => .fault r
    | .refused r => .refused r

/-- One step. -/
def step (s : State) : Host.Outcome State Fault Refusal :=
  match s.turns with
  | [] => (s.tick []).freeTurn
  | .hart b h stop lazy :: rest =>
    match (s.tick rest).focus b with
    | some t => { t with hart := h, egStop := stop, lazy := lazy }.hartTurn
    | none => .next (s.tick rest)
  | .event i :: rest => if i.isEvent then exec i (s.tick rest) else .next (s.tick rest)
  | .tlbEvict n :: rest => .next { s.tick rest with tlb := s.tlb.eraseIdx n }
  | .cacheDrop b line :: rest => .next ((s.tick rest).atBraid b fun t => t.dropLine line)
  | .dieWriteback line :: rest => .next ((s.tick rest).dieWriteback line)
  | .addReplica t i c :: rest => .next ((s.tick rest).addReplica t i c)
  | .nameHealth b :: rest => .next ((s.tick rest).nameHealth b)
  | .bootBraid core entry :: rest => .next ((s.tick rest).bootBraid core entry)
  | .mgmtRead :: rest => .next (s.tick rest).mgmtRead
  | .sysEnd b whole :: rest => .next ((s.tick rest).sysEnd b whole)
  | .perform b :: rest => .next ((s.tick rest).performOldest b)
  | .chunkWrite :: rest => .next (s.tick rest).landOne

/-- The module with an instruction of 32 bits placed where the next step fetches and executes it. -/
def State.withFetchWord (s : State) (_nbits w : Nat) : State := s.place (BitVec.ofNat 32 w)

end Sys2Proof.Machine
end

