-- ==== Sys2Proof/Safety.lean ====
section
/-! DEFINITION. What a safe run is: every step has a next state. Nothing in the spec stops the module (spec/09 R157, R161: traps and
double traps are next states); and the form in which memory is kept. -/

namespace Sys2Proof.Machine

/-- The next state of a step, if it has one. -/
def nextOf (o : Host.Outcome State Fault Refusal) : Option State :=
  match o with
  | .next s => some s
  | _ => none

/-- A step from the state has a next state. -/
def State.stepsOn (s : State) : Prop := ∃ t, step s = .next t

/-- Bytes in their canonical form: rising keys, no byte listed that an unlisted key already reads as. -/
def CanonicalBytes (mem dram : Memory) : Prop := mem.wf = true ∧ dram.wf = true

/-- The bytes the module holds are in their canonical form. -/
abbrev State.Canonical (s : State) : Prop := CanonicalBytes s.mem s.dram

end Sys2Proof.Machine
end

