-- ==== Sys2Proof/Certificates/Slice0/Obligations.lean ====
section
/-! DEFINITION. The statements for the provers, and the words they are said in. `Claim` holds tables written from the reference
chapters (which hart and level an instruction needs, what a scalar instruction computes, where a branch goes) and the parts of the
state that a statement leaves alone. -/

namespace Sys2Proof.Claim

open Sys2Proof.Machine

/-! What an instruction needs to issue, and where a completed one leaves its hart. -/

/-- R278 checks 3, 5, 6 and 7 pass: the hart is one of `who`; a landing handler may execute the instruction or none runs; it may follow
`pfx` or no prefix is pending; the level suffices. -/
def Issues (who : Harts) (level : Level) (land vec : Bool) (s : State) : Prop :=
  who.allow s.hart = true ∧ (s.hart = .A → s.landing = true → land = true) ∧ (s.prefixed = true → vec = true) ∧
    level.rank ≤ s.b.level.rank

/-- The hart has completed one instruction and stands at `v`: it waits on nothing and no prefix is pending. -/
def Goes (s t : State) (v : Word) : Prop :=
  t.hart = s.hart ∧ t.pc = v ∧ t.waitOf s.hart = none ∧ t.b.count s.hart = s.b.count s.hart + 1 ∧ t.prefixed = false

/-- The state with the executing hart's progress left out: its program counter (the handler's own, or the main one), its wait, its
count of completed instructions and `pfl`.valid. -/
def unmoved (s : State) : State :=
  match s.hart with
  | .A => { s with b := { s.b with
      waitA := none, retA := 0, pcH := if s.sysMode then 0 else s.b.pcH
      ctx := { s.b.ctx with pcA := if s.sysMode then s.b.ctx.pcA else 0 } } }
  | .X => { s with b := { s.b with
      waitX := none, retX := 0, ctx := { s.b.ctx with pcX := 0, xc := { s.b.ctx.xc with pfl := s.b.ctx.xc.pfl &&& 0x7FF } } } }

/-- Nothing changed but the executing hart's progress: every register, flag, control register, queue, stream and other braid, and every
byte of memory, is as it was. -/
def Kept (s t : State) : Prop := unmoved t = unmoved s

/-- Nothing changed but the executing hart's progress and its scalar register `d`. -/
def KeptBut (d : Reg) (s t : State) : Prop := unmoved (t.setReg d 0) = unmoved (s.setReg d 0)

/-- The scalar registers of the executing hart are those of `s` with `v` in `d`; register 0 stays zero. -/
def Wrote (s t : State) (d : Reg) (v : Word) : Prop := ∀ r, t.reg r = if r = d ∧ d ≠ 0 then v else s.reg r

/-! Which hart, level and place each instruction needs (R286, R113, R65): harts, level, whether a landing handler may execute it,
whether it may follow `pfx`. -/

def needs : Instr → Option (Harts × Level × Bool × Bool)
  | .add .. | .sub .. | .mul .. | .mulh .. | .mulhn .. | .div .. | .divn .. | .rem .. | .remn .. | .and .. | .or .. | .xor ..
  | .shl .. | .shr .. | .sar .. | .min .. | .max .. | .minn .. | .maxn .. | .seq .. | .sne .. | .slt .. | .sltn .. | .clz ..
  | .ctz .. | .pop .. | .addi .. | .andi .. | .ori .. | .xori .. | .shli .. | .shri .. | .sari .. | .lhi .. | .slti ..
  | .beq .. | .bne .. | .blt .. | .bge .. | .bltn .. | .bgen .. | .jmp .. | .jal .. | .jr .. => some (.both, .user, true, false)
  | .ld .. | .st .. => some (.onlyA, .user, true, false)
  | .tsend .. | .trecv .. | .bqt .. | .bqf .. | .setvl .. => some (.both, .user, false, false)
  | .ksend .. => some (.onlyX, .user, false, false)
  | .setvls .. | .setmt .. => some (.onlyA, .user, false, false)
  | .vld .. | .vlds .. | .vldx .. | .vldz .. | .vldo .. | .vpref .. | .vst .. | .vsts .. | .vstx .. | .vstn .. | .vsto ..
  | .vstu .. => some (.onlyA, .user, false, false)
  | .vadd .. | .vaddVs .. | .vsub .. | .vsubVs .. | .vmul .. | .vmulVs .. | .vmulh .. | .vmulhVs .. | .vmin .. | .vminVs ..
  | .vmax .. | .vmaxVs .. | .vand .. | .vandVs .. | .vor .. | .vorVs .. | .vxor .. | .vxorVs .. | .vshl .. | .vshlVs ..
  | .vshr .. | .vshrVs .. | .vsar .. | .vsarVs .. | .vabs .. | .vneg .. => some (.onlyX, .user, false, true)
  | .vfadd .. | .vfaddVs .. | .vfsub .. | .vfsubVs .. | .vfmul .. | .vfmulVs .. | .vfdiv .. | .vfdivVs .. | .vfsqrt .. | .vfmin ..
  | .vfminVs .. | .vfmax .. | .vfmaxVs .. | .vfabs .. | .vfneg .. | .vfma .. | .vfmaVs .. | .vfms .. | .vfmsVs .. | .vfnma ..
  | .vfnmaVs .. | .vtsum .. => some (.onlyX, .user, false, true)
  | .vcmp .. | .vcmpVs .. | .vfcmp .. | .vfcmpVs .. | .vsel .. | .vselVs .. | .kand .. | .kor .. | .kxor .. | .knot .. | .kmv ..
  | .kpop .. | .kfirst .. | .kset .. => some (.onlyX, .user, false, true)
  | .vslideup .. | .vslidedn .. | .vperm .. | .vcompress .. | .vexpand .. | .viota .. | .vnz .. | .vmatch .. | .vbcast .. | .vext ..
  | .vmv .. | .vrand .. => some (.onlyX, .user, false, true)
  | .vredsum .. | .vfredsum .. | .vredmax .. | .vredmin .. | .vfredmax .. | .vfredmin .. | .vscan .. | .vcvt .. | .vclamp ..
  | .vscl .. | .vsclVs .. | .vamax .. | .vopt .. => some (.onlyX, .user, false, true)
  | .xsetb .. | .xloss .. | .xnacc .. | .xnaccSingle .. | .xgram .. | .xnorm .. | .xgate .. | .xcomp .. | .xwt ..
  | .xclr .. => some (.onlyX, .user, false, true)
  | .matt .. | .mdet | .mlds .. | .mswap | .mstr .. | .mzero .. | .mdrn .. | .albld .. | .msamp ..
  | .mstat .. => some (.onlyX, .user, false, false)
  | .amoAdd .. | .amoFadd .. | .amoMax .. | .amoMin .. | .amoMaxn .. | .amoMinn .. | .amoXchg .. | .amoCas .. | .amoAnd ..
  | .amoOr .. | .amoMaxrs .. | .vamoAdd .. | .vamoFadd .. | .vamoMax .. | .vamoMin .. | .awin .. | .aacc .. | .amerge ..
  | .awclose .. | .mwait .. => some (.onlyA, .user, false, false)
  | .post .. | .wait .. | .lpbind .. | .barr .. | .bwait .. | .binit .. => some (.both, .user, false, false)
  | .fenceSv | .fenceVs | .fenceAcq .. | .fenceRel .. | .fenceFull .. | .fenceXp | .fenceEng => some (.both, .user, false, false)
  | .sopen .. | .sopenR .. | .sclose .. | .swait .. | .savail .. | .scancel .. | .strig .. => some (.onlyA, .user, true, false)
  | .ejob .. | .estat .. | .aemap .. | .launch .. => some (.onlyA, .user, false, false)
  | .tdone | .tyield | .tid .. | .strip .. | .repq .. => some (.both, .user, false, false)
  | .rsig .. | .idle => some (.both, .system, false, false)
  | .uien .. | .uienOff .. | .uiret => some (.onlyA, .user, true, false)
  | .pfx .. => some (.onlyX, .user, false, false)
  | .crr .. | .crw .. | .crs .. | .crc .. | .sys .. | .brk .. | .nop => some (.both, .user, false, false)
  | .eret => some (.onlyA, .system, false, false)
  | .ctxsave .. | .ctxsaveLeave .. | .ctxload .. | .tlbinvAll .. | .tlbinvAsn .. | .tlbinvPage .. => some (.onlyA, .system, false, false)
  | .dcwb .. | .dcinv .. => some (.onlyA, .firmware, false, false)
  | _ => none

/-! Scalar instructions (R298, R299): the destination and its value. -/

def ones (p : Nat → Bool) : Word := BitVec.ofNat 64 ((List.range 64).takeWhile p).length

/-- R298's table: each instruction and what it writes to `d`, of the values `x` and `y` of its sources. -/
def aluTable (d a b : Reg) (x y : Word) : List (Instr × Word) :=
  [(.add d a b, x + y), (.sub d a b, x - y),
   (.mul d a b, (x.setWidth 128 * y.setWidth 128).extractLsb' 0 64),
   (.mulh d a b, (x.signExtend 128 * y.signExtend 128).extractLsb' 64 64),
   (.mulhn d a b, (x.setWidth 128 * y.setWidth 128).extractLsb' 64 64),
   (.div d a b, if y = 0 then 0xFFFFFFFFFFFFFFFF else x.sdiv y), (.divn d a b, if y = 0 then 0xFFFFFFFFFFFFFFFF else x / y),
   (.rem d a b, if y = 0 then x else x.srem y), (.remn d a b, if y = 0 then x else x % y),
   (.and d a b, x &&& y), (.or d a b, x ||| y), (.xor d a b, x ^^^ y),
   (.shl d a b, x <<< (y.toNat % 64)), (.shr d a b, x >>> (y.toNat % 64)), (.sar d a b, x.sshiftRight (y.toNat % 64)),
   (.min d a b, if x.toInt ≤ y.toInt then x else y), (.max d a b, if x.toInt ≤ y.toInt then y else x),
   (.minn d a b, if x.toNat ≤ y.toNat then x else y), (.maxn d a b, if x.toNat ≤ y.toNat then y else x),
   (.seq d a b, if x = y then 1 else 0), (.sne d a b, if x = y then 0 else 1),
   (.slt d a b, if x.toInt < y.toInt then 1 else 0), (.sltn d a b, if x.toNat < y.toNat then 1 else 0),
   (.clz d a, ones fun i => !x.getLsbD (63 - i)), (.ctz d a, ones fun i => !x.getLsbD i),
   (.pop d a, BitVec.ofNat 64 ((List.range 64).map fun i => (x.getLsbD i).toNat).sum)]

/-- R299's table, of the value `x` of the source, the immediate and the amount. -/
def immTable (d a : Reg) (i : BitVec 16) (n : BitVec 6) (x : Word) : List (Instr × Word) :=
  [(.addi d a i, x + i.signExtend 64), (.andi d a i, x &&& i.setWidth 64), (.ori d a i, x ||| i.setWidth 64),
   (.xori d a i, x ^^^ i.setWidth 64), (.shli d a n, x <<< n.toNat), (.shri d a n, x >>> n.toNat),
   (.sari d a n, x.sshiftRight n.toNat), (.lhi d a i, x + i.signExtend 64 * 65536),
   (.slti d a i, if x.toInt < i.toInt then 1 else 0)]

/-! Branches (R302): each and whether it is taken. -/

def branchTable (a b : Reg) (o : BitVec 16) (x y : Word) : List (Instr × Prop) :=
  [(.beq a b o, x = y), (.bne a b o, x ≠ y), (.blt a b o, x.toInt < y.toInt), (.bge a b o, y.toInt ≤ x.toInt),
   (.bltn a b o, x.toNat < y.toNat), (.bgen a b o, y.toNat ≤ x.toNat)]

/-! Traps. -/

/-- The levels as `status`.pp holds them (R162). -/
def levelCode : Level → BitVec 2
  | .user => 0
  | .system => 1
  | .firmware => 2

/-- Entry to the system handler for a trap of hart `h` (R157, R162): what `t` holds and, but for what entry writes, that it is `s`. -/
structure Entered (s t : State) (h : Hart) (cause : Nat) (epc eei : Word) : Prop where
  cause_eq : t.b.cause = BitVec.ofNat 8 cause
  epc_eq : t.b.epc = epc &&& 0x01FFFFFFFFFFFFFC
  eei_eq : (t.hrOf h).eei = eei
  pp : t.b.status.extractLsb' 10 2 = levelCode s.b.level
  hart_bit : t.b.status.getLsbD 9 = (h == .X)
  inl : t.b.status.getLsbD 8 = s.b.ctx.inLand
  ie : t.b.status.getLsbD 7 = false
  pie : t.b.status.getLsbD 6 = s.b.status.getLsbD 7
  sys : t.b.status.getLsbD 5 = true
  low : t.b.status.extractLsb' 0 5 = 0
  level : t.b.level = .system
  runs : t.hart = .A ∧ t.pc = s.b.tvec
  held : (h = .A → t.b.ctx.pcA = epc &&& 0x01FFFFFFFFFFFFFC) ∧ (h = .X → t.b.ctx.pcX = epc &&& 0x01FFFFFFFFFFFFFC)
  stopped : t.b.waitA = none ∧ t.b.waitX = none ∧ t.b.monitor = false
  /-- what a `ctxsave` of the handler saves (R167) -/
  entry : t.b.entryCtx = some t.b.ctx
  bank : ∀ r : Reg, 24 ≤ r.toNat → t.aReg r = s.b.sysb.get (bankIx r).toFin
  main : ∀ r : Reg, r.toNat < 24 → t.aReg r = s.aReg r
  rest : t = { s with
    hart := .A
    b := { s.b with
      cause := t.b.cause, epc := t.b.epc, status := t.b.status, level := t.b.level, pcH := t.b.pcH, waitA := t.b.waitA
      waitX := t.b.waitX, monitor := t.b.monitor, entryCtx := t.b.entryCtx, memDone := 0, memHeld := s.b.memDone, atRel := none
      agreedA := false, agHeld := s.b.agreedA
      ctx := { s.b.ctx with pcA := t.b.ctx.pcA, pcX := t.b.ctx.pcX, ra := t.b.ctx.ra, rx := t.b.ctx.rx } } }
  only_eei : (h = .A → t.b.ctx.ra = { s.b.ctx.ra with eei := eei } ∧ t.b.ctx.rx = s.b.ctx.rx ∧ t.b.ctx.pcX = s.b.ctx.pcX) ∧
    (h = .X → t.b.ctx.rx = { s.b.ctx.rx with eei := eei } ∧ t.b.ctx.ra = s.b.ctx.ra ∧ t.b.ctx.pcA = s.b.ctx.pcA)


/-! Completion: the instruction answers a next state that is `u` but for the executing hart's progress to the next instruction. -/

def Completes (i : Instr) (s u : State) : Prop := ∃ t, exec i s = .next t ∧ Goes s t (s.pc + 4) ∧ Kept u t

/-- The instruction waits: its hart stays at it, and nothing else changed (R23). -/
def Waits (i : Instr) (s : State) (w : Wait) : Prop := exec i s = .next (s.setWait (some w))

/-- Hart `h` stands at `v` and waits there. -/
def standing (s : State) (h : Hart) (v : Word) (w : Wait) : State := (s.setPcOf h v).setWaitOf h (some w)
/-- A trap of hart `h`: entry to the system handler (`Entered`). In a replica set the hart waits at its address until the whole set takes the
trap (log entry 95). -/
def trapped (s : State) (h : Hart) (cause : Nat) (epc eei : Word) : State :=
  if s.rset ≠ none ∧ s.sysMode = false then standing s h (epc &&& 0x01FFFFFFFFFFFFFC) (.trap cause eei false) else s.enter h cause epc eei

/-- The instruction traps at its own address. -/
def Traps (i : Instr) (s : State) (cause : Nat) (eei : Word) : Prop := exec i s = .next (trapped s s.hart cause s.pc eei)

/-- The event changes nothing. -/
def Idles (i : Instr) (s : State) : Prop := exec i s = .next s

/-! Bytes as the A-hart sees them: in its scalar cache, else in memory (R96). -/

def seen (s : State) (key : Nat) : Nat :=
  match s.cached (key / 64) with
  | some l => l.data.toNat / 2 ^ (8 * (key % 64)) % 256
  | none => (s.mem.get key).toNat

/-- `n` bytes, the lowest address least significant (R2). -/
def seenValue (s : State) (key : Nat) : Nat → Nat
  | 0 => 0
  | n + 1 => seen s key + 256 * seenValue s (key + 1) n

/-- R314: sizes 0 to 3 sign-extend, the others zero-extend. -/
def loaded (z : BitVec 3) (v : Nat) : Word :=
  match z.toNat with
  | 0 => (BitVec.ofNat 8 v).signExtend 64
  | 1 => (BitVec.ofNat 16 v).signExtend 64
  | 2 => (BitVec.ofNat 32 v).signExtend 64
  | _ => BitVec.ofNat 64 v

def bytesFor (z : BitVec 3) : Nat :=
  match z.toNat with
  | 0 | 4 => 1
  | 1 | 5 => 2
  | 2 | 6 => 4
  | _ => 8

/-- The line that leaves a full cache when line `ln` comes in (log entry 9). -/
def leaving (s : State) (ln : Nat) : Option Line :=
  if (s.cached ln).isSome ∨ s.b.cache.length < Config.cacheLines then none else s.b.cache.head?

/-- The byte lies in the line that leaves. -/
def inLeaving (s : State) (ln key : Nat) : Prop := ∃ l, leaving s ln = some l ∧ l.tag = key / 64

/-- What the line that leaves does to its 64 bytes: memory takes those it held dirty, as the hart saw them, and keeps the others, and the
hart sees memory there. A word that became poisoned after the line was filled takes its bytes only if all eight are dirty (log entry 9). -/
def LineLeft (s t : State) (ln : Nat) : Prop :=
  ∀ l, leaving s ln = some l → ∀ k, k / 64 = l.tag →
    (s.poisoned (8 * (k / 8)) 8 = false ∨ (∀ i < 8, l.dirty.getLsbD (8 * (k % 64 / 8) + i) = true) →
      (t.mem.get k).toNat = if l.dirty.getLsbD (k % 64) then l.data.toNat / 2 ^ (8 * (k % 64)) % 256 else (s.mem.get k).toNat) ∧
    ((s.b.cache.map Line.tag).Nodup → seen t k = (t.mem.get k).toNat)

/-- The word of a scalar access is marked as poisoned in the hart's line, or without a line lies poisoned in memory (R356). -/
def marked (s : State) (key : Nat) : Bool :=
  match s.cached (key / 64) with
  | some l => l.bad.getLsbD (key % 64 / 8)
  | none => s.poisoned (8 * (key / 8)) 8

/-- What a scalar access may touch beside its register: the cache, the translations held, and through a line that leaves memory, poison,
MSI-X and interrupt 35. -/
def apartFromMemory (s : State) : State :=
  { s with
    mem := [], dram := [], poison := [], msix := [], tlb := []
    b := { s.b with cache := [], irq35 := false }
    rest := s.rest.map fun b => { b with irq35 := false } }

/-- The scalar access `va` of `n` bytes is aligned and canonical, and R103's checks give it a key, aligned as pages are. -/
def Reaches (s : State) (va : Word) (n : Nat) (k : Kind) (key : Nat) (s0 : State) : Prop :=
  va.toNat % n = 0 ∧ va.extractLsb' 57 7 = 0 ∧ s.ownCheck va.toNat n k = .ok (key, s0) ∧ key % n = 0

/-! Length grants (R47, R48, R50). -/

def grantOf (s : State) (req : Word) (t : Reg) : Nat :=
  min req.toNat (min (8 * s.b.ctx.vcap.toNat / sewOf t) (s.laneBudget * (1024 / sewOf t)))

/-- The executing hart's copies of the Hart registers, changed. -/
def withHr (s : State) (f : HartRegs → HartRegs) : State :=
  match s.hart with
  | .A => { s with b := { s.b with ctx := { s.b.ctx with ra := f s.b.ctx.ra } } }
  | .X => { s with b := { s.b with ctx := { s.b.ctx with rx := f s.b.ctx.rx } } }

/-- R48: the X-hart's pair member takes the cap of its grant: bytes above the lower of the old and the new cap are gone, and every mark
is the last EG. The A-hart's member leaves the registers alone. -/
def recapped (s : State) (cap : BitVec 12) : State :=
  if s.hart = .A ∨ s.b.ctx.capX = cap then s
  else { s with b := { s.b with
    hwm := .replicate 32 (cap.toNat / 128)
    ctx := { s.b.ctx with
      capX := cap
      v := s.b.ctx.v.map fun r => BitVec.ofNat 16384 (r.toNat % 2 ^ (8 * min cap.toNat s.b.ctx.capX.toNat)) } } }

/-- R50: d, `vl`, `vt` and `es` after a grant. -/
def lengthSet (s : State) (d : Reg) (g : Nat) (t : Reg) : State :=
  withHr (s.setReg d (BitVec.ofNat 64 g)) fun r => { r with vl := BitVec.ofNat 12 g, vt := t, es := 0 }

/-- The FIFO of grants after a length pair that the executing hart has met; the model counts the pairs (R247). -/
def withGrants (s : State) (l : List Grant) : State :=
  { s with b := { s.b with
    pairsA := if s.hart = .A then s.b.pairsA + 1 else s.b.pairsA
    pairsX := if s.hart = .X then s.b.pairsX + 1 else s.b.pairsX
    ctx := { s.b.ctx with grants := l } } }

/-- The executing hart is first of its pair (R51): no grant of the other hart waits for it. -/
def First (s : State) : Prop := ∀ g r, s.b.ctx.grants = g :: r → g.by_ = s.hart
/-- The executing hart is second of its pair, and takes `g`. -/
def Second (s : State) (g : Grant) (r : List Grant) : Prop := s.b.ctx.grants = g :: r ∧ g.by_ ≠ s.hart

/-- R53: nothing more lands on the stream. -/
def LandedAll (t : Stream) : Prop := t.st = .finished ∨ t.st = .cancelled ∨ t.st = .idle

def withCursor (s : State) (n : BitVec 3) (g : Nat) : State :=
  s.setStream n { s.stream n with cursor := (s.stream n).cursor + g }

/-! Token queues (R313): from the other hart, and to it. -/

def tokensIn (s : State) : List Word := match s.hart with | .A => s.b.ctx.tqx | .X => s.b.ctx.tqa
def tokensOut (s : State) : List Word := match s.hart with | .A => s.b.ctx.tqa | .X => s.b.ctx.tqx
def withIn (s : State) (l : List Word) : State :=
  match s.hart with
  | .A => { s with b := { s.b with ctx := { s.b.ctx with tqx := l } } }
  | .X => { s with b := { s.b with ctx := { s.b.ctx with tqa := l } } }
def withOut (s : State) (l : List Word) : State :=
  match s.hart with
  | .A => { s with b := { s.b with ctx := { s.b.ctx with tqa := l } } }
  | .X => { s with b := { s.b with ctx := { s.b.ctx with tqx := l } } }
def inName (s : State) : QName := match s.hart with | .A => .tqx | .X => .tqa
def outName (s : State) : QName := match s.hart with | .A => .tqa | .X => .tqx


/-! Vector elements and masks (R47, R57, R63), for the X-hart. -/

/-- Element `e` of width `w` bits. -/
def elem (v : VReg) (w e : Nat) : BitVec w := v.extractLsb' (w * e) w

def vlX (s : State) : Nat := s.b.ctx.rx.vl.toNat
def typeX (s : State) : Reg := s.b.ctx.rx.vt
def sewX (s : State) : Nat := sewOf s.b.ctx.rx.vt
def vec (s : State) (r : Reg) : VReg := s.b.ctx.v.get r.toFin

/-- R57: k0 reads all-true. -/
def maskBit (s : State) (k : BitVec 4) (e : Nat) : Bool := k == 0 || (s.b.ctx.k.get k.toFin).getLsbD e
/-- R63: the lent mask, inverted where `pfl`.inv says; all-true without a prefix. -/
def lentBit (s : State) (e : Nat) : Bool :=
  if s.prefixed then s.b.ctx.xc.pfl.getLsbD 4 != maskBit s (s.b.ctx.xc.pfl.extractLsb' 0 4) e else true
/-- R59, R328: an active element, below vl. -/
def active (s : State) (k : BitVec 4) (e : Nat) : Bool := decide (e < vlX s) && decide (e < 2048) && maskBit s k e && lentBit s e

/-- R63: the prefix asks for a copy, and where it goes. -/
def copies (s : State) : Bool := s.prefixed && s.b.ctx.xc.pfl.getLsbD 10
def copyTo (s : State) : Reg := s.b.ctx.xc.pfl.extractLsb' 5 5

/-- The bits of a last source: a register, or a queue's head, a flagged one reading as zeros (R188). -/
def sourceBits (s : State) : Src → VReg
  | .v r => vec s r
  | .lq q => match s.b.ctx.lq.get q.toFin with
    | e :: _ => if e.flagged then 0 else e.data
    | [] => 0

def popped : Src → Option (BitVec 2)
  | .v _ => none
  | .lq q => some q

/-- The entry of a store queue that an instruction stopped at an EG boundary began (log entry 27): its data and the entries before it. -/
def begunData (s : State) (q : BitVec 2) : VReg := match s.begun q with | some e => e.data | none => 0
def before (s : State) (q : BitVec 2) : List Entry :=
  match s.begun q with
  | some _ => (s.b.ctx.sq.get q.toFin).dropLast
  | none => s.b.ctx.sq.get q.toFin

/-- What lets an X-hart vector instruction run to its end: it issues, no stop is given, some element is active, the popped queue has a
whole head and the pushed one room. -/
structure VecReady (s : State) (d : Option Dst) (pop : Option (BitVec 2)) (k : BitVec 4) : Prop where
  issues : Issues .onlyX .user false true s
  noStop : s.egStop = none
  some_active : ∃ e, active s k e = true
  head : ∀ q, pop = some q → ∃ e l, s.b.ctx.lq.get q.toFin = e :: l ∧ e.part = none
  room : ∀ q, d = some (.sq q) → s.begun q ≠ none ∨ (s.b.ctx.sq.get q.toFin).length < 8

/-- The state with what a vector instruction may write left out: vector registers and marks, data queues, `es`, `fsts`, `dord`. -/
def apartFromVectors (s : State) : State :=
  { s with
    egStop := none
    b := { s.b with
      hwm := .replicate 32 0
      ctx := { s.b.ctx with
        v := .replicate 32 0, lq := .replicate 4 [], sq := .replicate 4 [], rx := { s.b.ctx.rx with es := 0, fsts := 0, dord := 0 } } } }

/-- `w`-bit elements after a write: those that `val` names have its values, the others are as in `old`. -/
def Elems (w : Nat) (val : Nat → Option Nat) (old new : VReg) : Prop :=
  ∀ e < 16384 / w, (elem new w e).toNat = match val e with | some x => x % 2 ^ w | none => (elem old w e).toNat

/-- A completed vector instruction with destination `d` (R58, R63, R328): the elements `val` names are written to it and to a copy, in a
pushed entry the others are zero; what was popped is gone; `es` is 0; the marks cover what was written (R69); nothing else changed but
`fsts` and `dord`. -/
structure VecResult (s t : State) (d : Dst) (pop : Option (BitVec 2)) (val : Nat → Option Nat) : Prop where
  goes : Goes s t (s.pc + 4)
  reg : ∀ r, d = .v r → Elems (sewX s) val (vec s r) (vec t r)
  copied : copies s = true → d ≠ .v (copyTo s) → Elems (sewX s) val (vec s (copyTo s)) (vec t (copyTo s))
  others : ∀ r, d ≠ .v r → ¬ (copies s = true ∧ r = copyTo s) → vec t r = vec s r ∧ t.b.hwm.get r.toFin = s.b.hwm.get r.toFin
  pushed : ∀ q, d = .sq q → ∃ e : Entry, t.b.ctx.sq.get q.toFin = before s q ++ [e] ∧ e.flagged = false ∧ e.part = none ∧
    Elems (sewX s) val (begunData s q) e.data
  queues : ∀ q, d ≠ .sq q → t.b.ctx.sq.get q.toFin = s.b.ctx.sq.get q.toFin
  pops : ∀ q, t.b.ctx.lq.get q.toFin = if pop = some q then (s.b.ctx.lq.get q.toFin).tail else s.b.ctx.lq.get q.toFin
  marks : ∀ r e x, d = .v r → val e = some x → sewX s * e / 1024 < t.b.hwm.get r.toFin ∧ s.b.hwm.get r.toFin ≤ t.b.hwm.get r.toFin
  es : t.b.ctx.rx.es = 0
  rest : Kept (apartFromVectors s) (apartFromVectors t)

/-- The elements of R328's loop, from `es` on, with their values. -/
def loop (s : State) (k : BitVec 4) (f : Nat → Nat) (e : Nat) : Option Nat :=
  if s.b.ctx.rx.es.toNat ≤ e ∧ active s k e = true then some (f e) else none
/-- The flags that those elements raise. -/
def loopFlags (s : State) (k : BitVec 4) (f : Nat → Flags) : Flags :=
  (List.range 2048).foldl (fun acc e => if s.b.ctx.rx.es.toNat ≤ e ∧ active s k e = true then acc ||| f e else acc) 0

/-- Flags raised and dither used by a completed instruction; `rounds` says it has a rounding step (R86). -/
def FlagsDither (s t : State) (fl : Flags) (rounds : Bool) : Prop :=
  t.b.ctx.rx.fsts = s.b.ctx.rx.fsts ||| fl ∧
  t.b.ctx.rx.dord = if rounds = true ∧ s.b.ctx.rx.fctl.extractLsb' 0 3 = 5 then s.b.ctx.rx.dord + 1 else s.b.ctx.rx.dord

/-! R329's table: the VV form, the VS form, and the element of `w` bits under signedness `g`. -/

def intTable (d : Dst) (a : Reg) (b : Src) (c : Reg) (k : BitVec 4) :
    List (Instr × Instr × ((w : Nat) → Bool → BitVec w → BitVec w → BitVec w)) :=
  [(.vadd d a b k, .vaddVs d a c k, fun _ _ x y => x + y), (.vsub d a b k, .vsubVs d a c k, fun _ _ x y => x - y),
   (.vmul d a b k, .vmulVs d a c k, fun _ _ x y => x * y),
   (.vmulh d a b k, .vmulhVs d a c k, fun w g x y =>
     if g then (x.signExtend (2 * w) * y.signExtend (2 * w)).extractLsb' w w
     else (x.setWidth (2 * w) * y.setWidth (2 * w)).extractLsb' w w),
   (.vmin d a b k, .vminVs d a c k, fun _ g x y => if (if g then decide (x.toInt ≤ y.toInt) else decide (x.toNat ≤ y.toNat)) then x else y),
   (.vmax d a b k, .vmaxVs d a c k, fun _ g x y => if (if g then decide (x.toInt ≤ y.toInt) else decide (x.toNat ≤ y.toNat)) then y else x),
   (.vand d a b k, .vandVs d a c k, fun _ _ x y => x &&& y), (.vor d a b k, .vorVs d a c k, fun _ _ x y => x ||| y),
   (.vxor d a b k, .vxorVs d a c k, fun _ _ x y => x ^^^ y),
   (.vshl d a b k, .vshlVs d a c k, fun w _ x y => x <<< (y.toNat % w)), (.vshr d a b k, .vshrVs d a c k, fun w _ x y => x >>> (y.toNat % w)),
   (.vsar d a b k, .vsarVs d a c k, fun w _ x y => x.sshiftRight (y.toNat % w))]

def intUnary (d : Dst) (b : Src) (k : BitVec 4) : List (Instr × ((w : Nat) → Bool → BitVec w → BitVec w)) :=
  [(.vabs d b k, fun _ g x => if g ∧ x.toInt < 0 then -x else x), (.vneg d b k, fun _ _ x => -x)]

/-! Floating elements (R73, R338). The numbers of chapter 5 are `FVal`; `g` is the format and `m` the mode of an element's rounding. -/

/-- One Round of an exact expression: a NaN input gives the canonical NaN, an invalid expression that and NV (R73). -/
def round1 (g : Fmt) (m : Mode) (inputs : List FVal) (x : FVal) : Nat × Flags :=
  if inputs.any FVal.isNan then (g.nan, 0) else if x = .nan then (g.nan, 0x10) else g.round m x

/-- A value of the format written as it is, NaN as the canonical one. -/
def exactly (g : Fmt) (x : FVal) : Nat × Flags := ((g.round .rne x).1, 0)

/-- R338's real results: VV form, VS form, whether there is a rounding step, and the element. -/
def realTable (d : Dst) (a : Reg) (b : Src) (c : Reg) (k : BitVec 4) : List (Instr × Instr × Bool × (Fmt → Mode → FVal → FVal → Nat × Flags)) :=
  [(.vfadd d a b k, .vfaddVs d a c k, true, fun g m x y => round1 g m [x, y] (x.add m.down y)),
   (.vfsub d a b k, .vfsubVs d a c k, true, fun g m x y => round1 g m [x, y] (x.add m.down y.negate)),
   (.vfmul d a b k, .vfmulVs d a c k, true, fun g m x y => round1 g m [x, y] (x.mul y)),
   (.vfdiv d a b k, .vfdivVs d a c k, true, fun g m x y =>
     let q := round1 g m [x, y] (x.div y)
     (q.1, q.2 ||| if y.isZero && !x.isZero && !x.isInf && !x.isNan then 0x08 else 0)),
   (.vfmin d a b k, .vfminVs d a c k, false, fun g _ x y => exactly g (x.min y)),
   (.vfmax d a b k, .vfmaxVs d a c k, false, fun g _ x y => exactly g (x.max y))]

def realUnary (d : Dst) (b : Src) (k : BitVec 4) : List (Instr × Bool × (Fmt → Mode → FVal → Nat × Flags)) :=
  [(.vfsqrt d b k, true, fun g m x => round1 g m [x] x.sqrt), (.vfabs d b k, false, fun g _ x => exactly g x.abs),
   (.vfneg d b k, false, fun g _ x => exactly g x.negate)]

/-- The fused forms: `z` is the old element of the destination register. -/
def fusedTable (d a : Reg) (b : Src) (c : Reg) (k : BitVec 4) : List (Instr × Instr × (Fmt → Mode → FVal → FVal → FVal → Nat × Flags)) :=
  [(.vfma d a b k, .vfmaVs d a c k, fun g m x y z => round1 g m [x, y, z] ((x.mul y).add m.down z)),
   (.vfms d a b k, .vfmsVs d a c k, fun g m x y z => round1 g m [x, y, z] ((x.mul y).add m.down z.negate)),
   (.vfnma d a b k, .vfnmaVs d a c k, fun g m x y z => round1 g m [x, y, z] ((x.mul y).negate.add m.down z))]

/-- R338: (a + b) − RoundRNE(a + b), exact; a sum that is not finite or overflows gives NaN and NV. -/
def tsum (g : Fmt) (x y : FVal) : Nat × Flags :=
  let sum := x.add false y
  let r := g.decode (g.round .rne sum).1
  if sum.isNan || sum.isInf || r.isInf then (g.nan, 0x10) else exactly g (sum.add false r.negate)

/-- A complex element's parts (R74): the real part low. -/
def partsOf (g : Fmt) (w : Nat) (x : BitVec w) : FVal × FVal :=
  (g.decode (x.extractLsb' 0 (w / 2)).toNat, g.decode (x.extractLsb' (w / 2) (w / 2)).toNat)
/-- Two parts' codes and flags as one element. -/
def joined (w : Nat) (re im : Nat × Flags) : Nat × Flags := (re.1 % 2 ^ (w / 2) + 2 ^ (w / 2) * (im.1 % 2 ^ (w / 2)), re.2 ||| im.2)

/-- R338's complex results; part 0 is real and part 1 imaginary, rounded under the modes `m0` and `m1`. -/
def complexTable (d : Dst) (a : Reg) (b : Src) (c : Reg) (k : BitVec 4) :
    List (Instr × Instr × (Fmt → Mode → Mode → FVal × FVal → FVal × FVal → (Nat × Flags) × (Nat × Flags))) :=
  [(.vfadd d a b k, .vfaddVs d a c k, fun g m0 m1 x y =>
     (round1 g m0 [x.1, y.1] (x.1.add m0.down y.1), round1 g m1 [x.2, y.2] (x.2.add m1.down y.2))),
   (.vfsub d a b k, .vfsubVs d a c k, fun g m0 m1 x y =>
     (round1 g m0 [x.1, y.1] (x.1.add m0.down y.1.negate), round1 g m1 [x.2, y.2] (x.2.add m1.down y.2.negate))),
   (.vfmul d a b k, .vfmulVs d a c k, fun g m0 m1 x y =>
     (round1 g m0 [x.1, x.2, y.1, y.2] ((x.1.mul y.1).add m0.down (x.2.mul y.2).negate),
      round1 g m1 [x.1, x.2, y.1, y.2] ((x.1.mul y.2).add m1.down (x.2.mul y.1))))]

/-- The complex fused forms; `z` is the old element of the destination register, and a negated product inverts each term's sign. -/
def complexFused (d a : Reg) (b : Src) (c : Reg) (k : BitVec 4) :
    List (Instr × Instr × (Fmt → Mode → Mode → FVal × FVal → FVal × FVal → FVal × FVal → (Nat × Flags) × (Nat × Flags))) :=
  let fused (x y z : FVal × FVal) (g : Fmt) (m0 m1 : Mode) : (Nat × Flags) × (Nat × Flags) :=
    (round1 g m0 [x.1, x.2, y.1, y.2, z.1] (((x.1.mul y.1).add m0.down (x.2.mul y.2).negate).add m0.down z.1),
     round1 g m1 [x.1, x.2, y.1, y.2, z.2] (((x.1.mul y.2).add m1.down (x.2.mul y.1)).add m1.down z.2))
  [(.vfma d a b k, .vfmaVs d a c k, fun g m0 m1 x y z => fused x y z g m0 m1),
   (.vfms d a b k, .vfmsVs d a c k, fun g m0 m1 x y z => fused x y (z.1.negate, z.2.negate) g m0 m1),
   (.vfnma d a b k, .vfnmaVs d a c k, fun g m0 m1 x y z => fused (x.1.negate, x.2.negate) y z g m0 m1)]

def fmtX (s : State) : Fmt := (fmtOf (typeX s)).getD .f32

/-! Masks (R57, R311, R335). -/

/-- What a mask or scalar destination may change beside itself: the popped queue, `es`, and what a stop had left. -/
def apartFromMasks (s : State) : State :=
  { s with
    egStop := none
    b := { s.b with ctx := { s.b.ctx with k := .replicate 16 0, kf := 0, lq := .replicate 4 [], rx := { s.b.ctx.rx with es := 0 } } } }

/-- A completed instruction with mask destination `kd` (R57): elements below vl hold `bit`, those at or above it are clear, and the
all-false flag says that none is set; the other masks and all else are as they were. -/
structure MaskResult (s t : State) (kd : BitVec 4) (pop : Option (BitVec 2)) (bit : Nat → Bool) : Prop where
  goes : Goes s t (s.pc + 4)
  bits : ∀ e < 2048, (t.b.ctx.k.get kd.toFin).getLsbD e = (decide (e < vlX s) && bit e)
  flag : t.b.ctx.kf.getLsbD kd.toNat = (List.range (min 2048 (vlX s))).all fun e => !bit e
  others : ∀ j ≠ kd, t.b.ctx.k.get j.toFin = s.b.ctx.k.get j.toFin ∧ t.b.ctx.kf.getLsbD j.toNat = s.b.ctx.kf.getLsbD j.toNat
  pops : ∀ q, t.b.ctx.lq.get q.toFin = if pop = some q then (s.b.ctx.lq.get q.toFin).tail else s.b.ctx.lq.get q.toFin
  es : t.b.ctx.rx.es = 0
  rest : Kept (apartFromMasks s) (apartFromMasks t)

/-- Where the lent mask is clear, a mask destination keeps its bit. -/
def lentOr (s : State) (kd : BitVec 4) (new : Nat → Bool) (e : Nat) : Bool :=
  if lentBit s e then new e else (s.b.ctx.k.get kd.toFin).getLsbD e

/-- R311: the mask instructions with a mask destination. -/
def maskTable (s : State) (kd ka kb : BitVec 4) (b : Reg) : List (Instr × (Nat → Bool)) :=
  [(.kand kd ka kb, fun e => maskBit s ka e && maskBit s kb e), (.kor kd ka kb, fun e => maskBit s ka e || maskBit s kb e),
   (.kxor kd ka kb, fun e => maskBit s ka e != maskBit s kb e), (.knot kd ka, fun e => !maskBit s ka e), (.kmv kd ka, maskBit s ka),
   (.kset kd b, fun e => decide (e < (s.xReg b).toNat))]

/-- R289: the conditions 0 to 5, of an order that may be absent (a NaN). -/
def condition (c : BitVec 3) (o : Option Ordering) : Bool :=
  match c.toNat with
  | 0 => o == some .eq
  | 1 => o != some .eq
  | 2 => o == some .lt
  | 3 => o == some .lt || o == some .eq
  | 4 => o == some .gt
  | _ => o == some .gt || o == some .eq

def intOrder (s : State) (x y : BitVec (sewX s)) : Option Ordering :=
  some (if (typeX s).toNat < 4 then compare x.toInt y.toInt else compare x.toNat y.toNat)

/-- What a completed instruction with an x destination has cleared beside it. -/
def settled (s : State) : State :=
  { s with egStop := none, b := { s.b with ctx := { s.b.ctx with rx := { s.b.ctx.rx with es := 0 } } } }

/-! Permutes, reductions and scans, over the whole of vl whatever `es` holds. -/

/-- An element of the active ones, if it is given a value. -/
def wholly (s : State) (k : BitVec 4) (f : Nat → Nat) (e : Nat) : Option Nat := if active s k e = true then some (f e) else none

/-- Active elements below `e`. -/
def rankOf (s : State) (k : BitVec 4) (e : Nat) : Nat := ((List.range e).filter (active s k)).length

/-- R344: an index, from the element, its low 64 bits, or bytes 2e and 2e + 1. -/
def indexOf (s : State) (v : VReg) (e : Nat) : Nat :=
  if typeX s = 14 ∨ typeX s = 15 then (elem v 16 e).toNat else (elem v (sewX s) e).toNat % 2 ^ 64

/-- R186: not 0, and under a floating type neither zero. -/
def nonZeroEl (s : State) (x : Nat) : Bool := if (typeX s).toNat < 8 then x != 0 else x != 0 && x != 2 ^ (sewX s - 1)

/-- R88: level `n` of the tree over 2^`p` positions, whose leaves are `x`. -/
def tree (f : Nat → Nat → Nat → Nat × Flags) (x : Nat → Nat) (p : Nat) : Nat → Nat → Nat
  | 0, i => x i
  | n + 1, i => (f i (tree f x p n i) (tree f x p n (i + 2 ^ (p - n - 1)))).1
/-- The flags of its steps. -/
def treeFlags (f : Nat → Nat → Nat → Nat × Flags) (x : Nat → Nat) (p : Nat) : Flags :=
  (List.range p).foldl (fun acc n => (List.range (2 ^ (p - n - 1))).foldl (fun acc i =>
    acc ||| (f i (tree f x p n i) (tree f x p n (i + 2 ^ (p - n - 1)))).2) acc) 0

/-- One floating addition of R346, of elements as codes, with Dither index `i`; both parts of a complex type. -/
def floatSum (s : State) (i x y : Nat) : Nat × Flags :=
  let g := fmtX s
  let r (j : Nat) (u v : FVal) := round1 g (s.b.ctx.rx.mode j) [u, v] (u.add (s.b.ctx.rx.mode j).down v)
  if typeX s = 16 ∨ typeX s = 17 then
    let u := partsOf g (sewX s) (BitVec.ofNat (sewX s) x)
    let v := partsOf g (sewX s) (BitVec.ofNat (sewX s) y)
    joined (sewX s) (r (2 * i) u.1 v.1) (r (2 * i + 1) u.2 v.2)
  else r i (g.decode x) (g.decode y)

/-- R88's identity −0.0, in each part. -/
def minusZero (s : State) : Nat :=
  if typeX s = 16 ∨ typeX s = 17 then 2 ^ (sewX s / 2 - 1) + 2 ^ (sewX s - 1) else 2 ^ (sewX s - 1)

/-- A floating code with its NaNs made canonical (R73). -/
def canonEl (s : State) (x : Nat) : Nat :=
  if typeX s = 16 ∨ typeX s = 17 then
    let u := partsOf (fmtX s) (sewX s) (BitVec.ofNat (sewX s) x)
    (joined (sewX s) (exactly (fmtX s) u.1) (exactly (fmtX s) u.2)).1
  else (exactly (fmtX s) ((fmtX s).decode x)).1

/-- R346: the integer reductions, their identity and step on codes of `w` bits. -/
def redTable (s : State) (d : Dst) (a : Reg) (k : BitVec 4) : List (Instr × Nat × (Nat → Nat → Nat)) :=
  let w := sewX s
  let sg := decide ((typeX s).toNat < 4)
  let le (x y : Nat) : Bool := if sg then decide ((BitVec.ofNat w x).toInt ≤ (BitVec.ofNat w y).toInt) else decide (x ≤ y)
  [(.vredsum d a k, 0, fun x y => (x + y) % 2 ^ w),
   (.vredmax d a k, if sg then 2 ^ (w - 1) else 0, fun x y => if le x y then y else x),
   (.vredmin d a k, if sg then 2 ^ (w - 1) - 1 else 2 ^ w - 1, fun x y => if le x y then x else y)]

/-- The floating reductions that round nothing. -/
def redFloat (s : State) (d : Dst) (a : Reg) (k : BitVec 4) : List (Instr × Nat × (FVal → FVal → FVal)) :=
  [(.vfredmax d a k, (fmtX s).signBit true + (fmtX s).infCode, FVal.max), (.vfredmin d a k, (fmtX s).infCode, FVal.min)]

/-- The leaves of a reduction: active elements, else the identity. -/
def leaves (s : State) (a : Reg) (k : BitVec 4) (identity i : Nat) : Nat :=
  if active s k i then (elem (vec s a) (sewX s) i).toNat else identity

/-- 2^`p` is R88's P: the least power of two that is at least vl. -/
def LeastPower (s : State) (p : Nat) : Prop := vlX s ≤ 2 ^ p ∧ (p = 0 ∨ 2 ^ (p - 1) < vlX s)

/-- R89: the running sum at `e`, of the first element `x 0` and steps `f`. -/
def running (f : Nat → Nat → Nat → Nat × Flags) (x : Nat → Nat) : Nat → Nat × Flags
  | 0 => (x 0, 0)
  | e + 1 => f (e + 1) (running f x e).1 (x (e + 1))
def scanFlags (f : Nat → Nat → Nat → Nat × Flags) (x : Nat → Nat) (n : Nat) : Flags :=
  (List.range n).foldl (fun acc e => acc ||| (running f x e).2) 0

/-! Conversions (R80, R333, R334, R348) and the optimiser step (R225). -/

/-- `t` with the masks of `s`. -/
def withMasksOf (s t : State) : State := { t with b := { t.b with ctx := { t.b.ctx with k := s.b.ctx.k, kf := s.b.ctx.kf } } }

/-- R80: the elements `hit` of an instruction that saturated are marked in mask `satk`, whose flag is evaluated again; nothing else happens
to the masks. -/
def Marked (s t : State) (hit : Nat → Bool) : Prop :=
  let m := s.b.ctx.rx.satk
  (∀ j e, e < 2048 → (t.b.ctx.k.get j.toFin).getLsbD e = ((s.b.ctx.k.get j.toFin).getLsbD e || (decide (j = m ∧ m ≠ 0) && hit e))) ∧
  (∀ j : BitVec 4, t.b.ctx.kf.getLsbD j.toNat =
    if decide (j = m ∧ m ≠ 0) && (List.range 2048).any hit then
      (List.range (min 2048 (vlX s))).all fun e => !(t.b.ctx.k.get j.toFin).getLsbD e
    else s.b.ctx.kf.getLsbD j.toNat)
/-- The elements of R328's loop that saturated, with those of the same instruction before it was stopped (R80; log entry 15). -/
def hits (s : State) (k : BitVec 4) (sat : Nat → Bool) (e : Nat) : Bool :=
  (decide (s.b.ctx.rx.es.toNat ≤ e) && active s k e && sat e) || (decide (s.b.ctx.rx.es ≠ 0) && s.b.ctx.satP.getLsbD e)

/-- R80: Clamp of one value to a scalar floating format, with the sticky flags and whether forerunner saturation occurred. Round is taken
with its overflow in place of the unbounded exponent: what overflows is beyond every bound. UF beside CL is the model's reading (log
entry 60). -/
def clampOf (g : Fmt) (m : Mode) (fm : Bool) (cbound : BitVec 32) (x : FVal) : Nat × Flags × Bool :=
  let limit := (Fmt.f32.decode cbound.toNat).abs
  let top := g.decode g.maxCode
  let b := if fm || limit.isNan || limit.isZero then g.maxCode else (g.round .rtz (if top.lt limit then top else limit)).1
  let q := g.round m x
  if x.isNan then (g.nan, 0, false)
  else if !x.isInf && !q.2.getLsbD 2 && decide (q.1 % 2 ^ (g.mb + g.eb) ≤ b) then (q.1, q.2, false)
  else (g.signBit x.neg? + b, (if fm then 0x41 else 0x21) ||| (q.2 &&& 0x02), fm)

/-- R81: rounded, then saturated to a range with NX; NaN gives 0 with NV. -/
def integerOf (m : Mode) (lo hi : Int) : FVal → Int × Flags
  | .nan => (0, 0x10)
  | .inf n => (if n then lo else hi, 0x01)
  | .fin n k x =>
    let q := roundAt m n k x 0
    let i : Int := if n then -(q.1 : Int) else q.1
    (max lo (min hi i), if i < lo ∨ hi < i ∨ q.2 = true then 0x01 else 0)

/-- R334's rows, element `e` of the source bits `v` of type `st`: scalar and complex types as R80 and R81 give them; a block type on either
side is the model's own conversion. -/
def converted (s : State) (st : Reg) (v : VReg) (e : Nat) : Nat × Flags × Bool :=
  let t := typeX s
  let w := sewX s
  let c := elem v (sewOf st) e
  let f := (fmtOf st).getD .f32
  let clamp (i : Nat) (x : FVal) := clampOf (fmtX s) (s.b.ctx.rx.mode i) (s.b.ctx.rx.fctl.getLsbD 3) s.b.ctx.bound x
  let lo : Int := if t.toNat < 4 then -2 ^ (w - 1) else 0
  let hi : Int := if t.toNat < 4 then 2 ^ (w - 1) - 1 else 2 ^ w - 1
  let n : Int := if st.toNat < 4 then c.toInt else (c.toNat : Int)
  if 18 ≤ st.toNat ∨ 18 ≤ t.toNat ∨ st ∈ [14, 15] ∨ t ∈ [14, 15] then s.cvtEl st v e
  else if t = 16 ∨ t = 17 then
    let re := clamp (2 * e) (partsOf f (sewOf st) c).1
    let im := clamp (2 * e + 1) (partsOf f (sewOf st) c).2
    ((joined w (re.1, re.2.1) (im.1, im.2.1)).1, re.2.1 ||| im.2.1, re.2.2 || im.2.2)
  else if t.toNat < 8 then
    if st.toNat < 8 then (((max lo (min hi n)) % 2 ^ w).toNat, if lo ≤ n ∧ n ≤ hi then 0 else 0x01, false)
    else
      let r := integerOf (s.b.ctx.rx.mode e) lo hi (f.decode c.toNat)
      ((r.1 % 2 ^ w).toNat, r.2, false)
  else clamp e (if st.toNat < 8 then .fin (decide (n < 0)) n.natAbs 0 else f.decode c.toNat)

/-- The bits that element `e` of a conversion reads: where the instruction writes its own source, as its destination or its copy, the
elements before it have changed them (R328). -/
def cvtSource (s : State) (d : Dst) (st : Reg) (b : Src) (k : BitVec 4) : Nat → VReg
  | 0 => sourceBits s b
  | e + 1 =>
    let v := cvtSource s d st b k e
    let own := match b with
      | .v r => decide (d = .v r) || (copies s && decide (copyTo s = r))
      | .lq _ => false
    if own = true ∧ s.b.ctx.rx.es.toNat ≤ e ∧ active s k e = true then setEl v (sewX s) e (converted s st v e).1 else v

/-- R225, element by element: the new w, m and v and the flags, of the gradient `g` and the old values, all f32. -/
def optimised (x : XRegs) (o : Mode) (g w m v : FVal) : (Nat × Nat × Nat) × Flags :=
  let c (r : BitVec 32) : FVal := Fmt.f32.decode r.toNat
  let minus (p q : FVal) : FVal := p.add o.down q.negate
  let ob1 := c x.ob1; let ob2 := c x.ob2; let oc1 := c x.oc1; let oc2 := c x.oc2
  let oeps := c x.oeps; let olr := c x.olr; let owd := c x.owd
  let one : FVal := .fin false 1 0
  let m' := round1 .f32 o [ob1, m, g] ((ob1.mul m).add o.down ((minus one ob1).mul g))
  let v' := round1 .f32 o [ob2, v, g] ((ob2.mul v).add o.down (((minus one ob2).mul g).mul g))
  let mv := Fmt.f32.decode m'.1
  let vv := Fmt.f32.decode v'.1
  let den := round1 .f32 o [vv, oc2, oeps] ((vv.mul oc2).sqrt.add o.down oeps)
  let dv := Fmt.f32.decode den.1
  let num := mv.mul oc1
  let u := round1 .f32 o [mv, oc1, dv] (num.div dv)
  let uv := Fmt.f32.decode u.1
  let w' := round1 .f32 o [w, olr, uv, owd] (minus w (olr.mul (uv.add o.down (owd.mul w))))
  ((w'.1, m'.1, v'.1), m'.2 ||| v'.2 ||| den.2 ||| u.2 ||| w'.2 |||
    if dv.isZero && !num.isZero && !num.isInf && !num.isNan then 0x08 else 0)

/-! What an X-hart vector instruction names (R59, R65, R71): destination, popped queue, mask, dither, whether `vt` suits it, and whether
it goes element by element at one width, so that it may stop at an EG boundary (R67). -/

structure Shape where
  dst : Option Dst
  pop : Option (BitVec 2)
  k : BitVec 4
  /-- 0 no rounding step, 1 a rounding step, 2 dither whatever the mode -/
  dither : Nat
  fits : Bool
  stops : Bool

def shapeOf (s : State) (i : Instr) : Option Shape :=
  let t := (typeX s).toNat
  let int := decide (t < 8)
  let real := decide (8 ≤ t ∧ t ≤ 11)
  let float := real || t == 16 || t == 17
  let scalar := decide (sewX s ≤ 64)
  match i with
  | .vadd d _ b k | .vsub d _ b k | .vmul d _ b k | .vmulh d _ b k | .vmin d _ b k | .vmax d _ b k | .vand d _ b k | .vor d _ b k
  | .vxor d _ b k | .vshl d _ b k | .vshr d _ b k | .vsar d _ b k | .vabs d b k | .vneg d b k => some ⟨some d, popped b, k, 0, int, true⟩
  | .vaddVs d _ _ k | .vsubVs d _ _ k | .vmulVs d _ _ k | .vmulhVs d _ _ k | .vminVs d _ _ k | .vmaxVs d _ _ k | .vandVs d _ _ k
  | .vorVs d _ _ k | .vxorVs d _ _ k | .vshlVs d _ _ k | .vshrVs d _ _ k | .vsarVs d _ _ k => some ⟨some d, none, k, 0, int, true⟩
  | .vfadd d _ b k | .vfsub d _ b k | .vfmul d _ b k => some ⟨some d, popped b, k, 1, float, true⟩
  | .vfaddVs d _ _ k | .vfsubVs d _ _ k | .vfmulVs d _ _ k => some ⟨some d, none, k, 1, float && t != 17, true⟩
  | .vfdiv d _ b k | .vfsqrt d b k | .vscl d _ b k => some ⟨some d, popped b, k, 1, real, true⟩
  | .vfdivVs d _ _ k | .vsclVs d _ _ k => some ⟨some d, none, k, 1, real, true⟩
  | .vfmin d _ b k | .vfmax d _ b k | .vfabs d b k | .vtsum d _ b k => some ⟨some d, popped b, k, 0, real, true⟩
  | .vfminVs d _ _ k | .vfmaxVs d _ _ k => some ⟨some d, none, k, 0, real, true⟩
  | .vfneg d b k => some ⟨some d, popped b, k, 0, float, true⟩
  | .vfma d _ b k | .vfms d _ b k | .vfnma d _ b k => some ⟨some (.v d), popped b, k, 1, float, true⟩
  | .vfmaVs d _ _ k | .vfmsVs d _ _ k | .vfnmaVs d _ _ k => some ⟨some (.v d), none, k, 1, float && t != 17, true⟩
  | .vcmp _ _ b _ => some ⟨none, popped b, 0, 0, int, false⟩
  | .vcmpVs _ _ _ _ => some ⟨none, none, 0, 0, int, false⟩
  | .vfcmp _ _ b _ => some ⟨none, popped b, 0, 0, real, false⟩
  | .vfcmpVs _ _ _ _ => some ⟨none, none, 0, 0, real, false⟩
  | .kand _ _ _ | .kor _ _ _ | .kxor _ _ _ | .knot _ _ | .kmv _ _ | .kset _ _ | .kpop _ _ | .kfirst _ _ => some ⟨none, none, 0, 0, true, false⟩
  | .vext _ _ _ => some ⟨none, none, 0, 0, scalar, false⟩
  | .vmatch _ _ k => some ⟨none, none, k, 0, t != 14 && t != 15, false⟩
  | .vsel d _ b _ | .vmv d b => some ⟨some d, popped b, 0, 0, true, true⟩
  | .vselVs d _ _ _ => some ⟨some d, none, 0, 0, scalar, true⟩
  | .vbcast d _ k => some ⟨some d, none, k, 0, scalar, true⟩
  | .vrand d k => some ⟨some d, none, k, 2, t == 2 || t == 3 || t == 6 || t == 7 || t == 10 || t == 11, true⟩
  | .vslideup d _ _ k | .vslidedn d _ _ k | .vcompress d _ k | .vexpand d _ k => some ⟨some d, none, k, 0, true, false⟩
  | .vperm d _ b k => some ⟨some d, popped b, k, 0, true, false⟩
  | .viota d k => some ⟨some d, none, k, 0, int, false⟩
  | .vnz d _ k => some ⟨some d, none, k, 0, decide (t < 12) && t != 0 && t != 4, false⟩
  | .vredsum d _ k | .vredmax d _ k | .vredmin d _ k => some ⟨some d, none, k, 0, int, false⟩
  | .vfredmax d _ k | .vfredmin d _ k | .vamax d _ k => some ⟨some d, none, k, 0, real, false⟩
  | .vfredsum d _ k => some ⟨some d, none, k, 1, float, false⟩
  | .vscan d _ k => some ⟨some d, none, k, if t < 8 then 0 else 1, decide (t < 12) || t == 16 || t == 17, false⟩
  | .vclamp d b k => some ⟨some d, popped b, k, 0, decide (8 ≤ t ∧ t ≤ 13), false⟩
  | .vcvt d st b k => some ⟨some d, popped b, k, 1, cvtOk s st, false⟩
  | .vopt d _ k => some ⟨some (.v d), none, k, 1, t == 10, true⟩
  | _ => none

/-- R59: what a dropped instruction leaves: its source popped, a flagged entry pushed, `es` 0, and dither spent as if it had run (R86). -/
def dropped (s : State) (p : Shape) : State :=
  { s with
    egStop := none
    b := { s.b with
      ctx := { s.b.ctx with
        lq := match p.pop with
          | some q => s.b.ctx.lq.set q.toNat (s.b.ctx.lq.get q.toFin).tail q.isLt
          | none => s.b.ctx.lq
        sq := match p.dst with
          | some (.sq q) => s.b.ctx.sq.set q.toNat (s.b.ctx.sq.get q.toFin ++ [⟨0, true, none⟩]) q.isLt
          | _ => s.b.ctx.sq
        rx := { s.b.ctx.rx with
          es := 0
          dord := if p.dither = 2 ∨ (p.dither = 1 ∧ s.b.ctx.rx.fctl.extractLsb' 0 3 = 5) then s.b.ctx.rx.dord + 1 else s.b.ctx.rx.dord } } } }

/-- The popped queue has a whole head, and the pushed one room or the instruction's own entry. -/
def headThere (s : State) (p : Shape) : Prop := ∀ q, p.pop = some q → ∃ e l, s.b.ctx.lq.get q.toFin = e :: l ∧ e.part = none
def roomThere (s : State) (p : Shape) : Prop :=
  ∀ q, p.dst = some (.sq q) → s.begun q ≠ none ∨ (s.b.ctx.sq.get q.toFin).length < 8

/-- A type that the instruction does not take is cause 1, and so is nothing else here; a prefix that asks for a copy of a mask or scalar
result is cause 11 (R65). -/
def goesAhead (s : State) (p : Shape) : Prop := p.fits = true ∧ (p.dst = none → copies s = false)

/-! The A-hart's vector memory instructions (R60, R339, R350). -/

def vlA (s : State) : Nat := s.b.ctx.ra.vl.toNat
def typeA (s : State) : Reg := s.b.ctx.ra.vt
def bytesA (s : State) : Nat := sewOf s.b.ctx.ra.vt / 8
def egA (s : State) : Nat := 1024 / sewOf s.b.ctx.ra.vt

/-- The mask that a masked operation pops, or all-true. -/
def maskA (s : State) (masked : Bool) (e : Nat) : Bool :=
  if masked then (match s.b.ctx.kq with | k :: _ => k.bits.getLsbD e | [] => false) else true
def activeA (s : State) (masked : Bool) (e : Nat) : Bool := decide (e < vlA s) && decide (e < 2048) && maskA s masked e
def headSq (s : State) (q : BitVec 2) : Option Entry := (s.b.ctx.sq.get q.toFin).head?
def indexA (s : State) : Option (BitVec 2) → VReg
  | none => 0
  | some q => match headSq s q with | some e => e.data | none => 0

/-- The queues hold what the operation pops: a mask, a data entry, an index entry. -/
def HeadsThere (s : State) (masked : Bool) (data index : Option (BitVec 2)) : Prop :=
  (masked = true → s.b.ctx.kq ≠ []) ∧ ∀ q, data = some q ∨ index = some q → ∃ e, headSq s q = some e ∧ e.part = none

/-- R60: an all-false mask, or a flagged data or index entry. -/
def DropsA (s : State) (masked : Bool) (data index : Option (BitVec 2)) : Prop :=
  (∀ e, activeA s masked e = false) ∨ (masked = true ∧ ∃ k, s.b.ctx.kq.head? = some k ∧ k.flagged = true) ∨
    ∃ q e, (data = some q ∨ index = some q) ∧ headSq s q = some e ∧ e.flagged = true

/-- The state with the popped entries gone, `es` 0, and nothing left of an earlier attempt. -/
def poppedA (s : State) (masked : Bool) (data index : Option (BitVec 2)) : State :=
  let drop (o : Option (BitVec 2)) (v : Vector (List Entry) 4) : Vector (List Entry) 4 :=
    match o with
    | some q => v.set q.toNat (v.get q.toFin).tail q.isLt
    | none => v
  { s with
    egStop := none
    b := { s.b with
      memDone := 0
      ctx := { s.b.ctx with
        kq := if masked then s.b.ctx.kq.tail else s.b.ctx.kq, sq := drop index (drop data s.b.ctx.sq), ra := { s.b.ctx.ra with es := 0 } } } }

def pushedA (s : State) (q : BitVec 2) (e : Entry) : State :=
  { s with b := { s.b with ctx := { s.b.ctx with lq := s.b.ctx.lq.set q.toNat (s.b.ctx.lq.get q.toFin ++ [e]) q.isLt } } }

/-- The operation starts anew, outside replica execution, and no stop is given. -/
structure FreshA (s : State) : Prop where
  issues : Issues .onlyA .user false false s
  alone : s.rset = none ∧ s.b.buf = []
  es : s.b.ctx.ra.es = 0 ∧ s.b.memDone = 0
  noStop : s.egStop = none

def RoomLq (s : State) (q : BitVec 2) : Prop := (s.b.ctx.lq.get q.toFin).length < 8 ∧ ∀ e ∈ s.b.ctx.lq.get q.toFin, e.part = none

/-- R122: what the A-hart's vector stores that have not performed give for a byte: the youngest of them that writes it. -/
def ahead (s : State) (key : Nat) : Option Nat :=
  ((s.b.out.filter fun i => i.holds key).getLast?).map fun i => i.data / 2 ^ (8 * (key - i.key)) % 256
/-- A byte as the A-hart's vector accesses find it, over what memory holds, and `n` of them (R2). -/
def viewed (s : State) (key : Nat) : Nat := (ahead s key).getD (s.mem.get key).toNat
def viewedValue (s : State) (key : Nat) : Nat → Nat
  | 0 => 0
  | n + 1 => viewed s key + 256 * viewedValue s (key + 1) n
/-- R356: the bytes lie in a poisoned word that those stores do not replace whole. -/
def poisonedTo (s : State) (key n : Nat) : Bool :=
  s.poison.any fun w => decide (8 * w < key + n ∧ key < 8 * w + 8) && (List.range 8).any fun i => (ahead s (8 * w + i)).isNone
/-- Those stores have performed, in order. -/
def performed (s : State) : State :=
  let t := (s.b.out.filter (·.home)).foldl (fun t i => t.writeMem i.key i.size i.data) s
  { t with b := { t.b with out := [] } }

/-- R55, R56, R103: where `n` bytes at `va` lie in space 0, 1 or 2, or the cause. -/
def located (s : State) (space : BitVec 2) (va : Word) (n : Nat) (k : Kind) : Except Nat (Nat × State) :=
  if va.toNat % n ≠ 0 then .error 3
  else if space = 0 then (if va.extractLsb' 57 7 ≠ 0 then .error 6 else s.ownCheck va.toNat n k)
  else if space = 1 then (if 2 ^ 20 ≤ va.toNat then .error 6 else .ok (2 ^ 45 + s.b.core * 2 ^ 20 + va.toNat, s))
  else if s.rset ≠ none then .error 6
  else if 2 ^ 28 ≤ va.toNat ∨ Config.dieCores ≤ va.toNat / 2 ^ 20 then .error 6
  else .ok (2 ^ 45 + (dieOf s.b.core * Config.dieCores + va.toNat / 2 ^ 20) * 2 ^ 20 + va.toNat % 2 ^ 20, s)

/-- Where elements lie, one after the other, each element with its address: the keys by element, and the translations then held. -/
def gathered (s : State) (k : Kind) : List (Nat × Word) → Except (Nat × Nat × State × List (Nat × Nat)) (List (Nat × Nat) × State)
  | [] => .ok ([], s)
  | (e, va) :: r =>
    match located s s.b.ctx.ac.mt va (bytesA s) k with
    | .error c => .error (e, c, s, [])
    | .ok (key, t) =>
      if poisonedTo t key (bytesA s) then .error (e, 7, s, [])
      else match gathered t k r with
        | .ok (ks, u) => .ok ((e, key) :: ks, u)
        | .error (e', c, u, ks) => .error (e', c, u, (e, key) :: ks)

/-- R185: the place of an element in its tile of side 2^`lt`, leaves in Morton order. -/
def mortonPlace (lt : Nat) (tr : Bool) (u : Nat) : Nat :=
  let i := if tr then u % 2 ^ lt else u / 2 ^ lt
  let j := if tr then u / 2 ^ lt else u % 2 ^ lt
  let bit (x b : Nat) : Nat := (x / 2 ^ b) % 2
  16 * ((List.range 4).map fun b => 2 ^ (2 * b + 1) * bit (i / 4) b + 2 ^ (2 * b) * bit (j / 4) b).sum + 4 * (i % 4) + j % 4

/-- R187, R344: an index out of an index entry. -/
def indexEntry (s : State) (v : VReg) (j : Nat) : Nat :=
  if typeA s = 14 ∨ typeA s = 15 then (elem v 16 j).toNat else (elem v (sewOf (typeA s)) j).toNat % 2 ^ 64

/-- Addresses of the forms (R339, R187, R185). -/
def unitA (s : State) (a : Reg) (e : Nat) : Word := s.aReg a + BitVec.ofNat 64 (e * bytesA s)
def stridedA (s : State) (a st : Reg) (e : Nat) : Word := s.aReg a + BitVec.ofNat 64 e * s.aReg st
def indexedA (s : State) (a : Reg) (g : BitVec 3) (q : BitVec 2) (e : Nat) : Word :=
  s.aReg a + BitVec.ofNat 64 ((indexEntry s (indexA s (some q)) (e / 2 ^ g.toNat) * 2 ^ g.toNat + e % 2 ^ g.toNat) * bytesA s)
def tiledA (s : State) (a : Reg) (e : Nat) : Word :=
  let lt := (s.b.ctx.ac.zl.extractLsb' 0 3).toNat
  s.aReg a + BitVec.ofNat 64 ((e / 4 ^ lt * 4 ^ lt + mortonPlace lt (s.b.ctx.ac.zl.getLsbD 7) (e % 4 ^ lt)) * bytesA s)
/-- R185's conditions. -/
def tiledOk (s : State) : Bool :=
  let lt := (s.b.ctx.ac.zl.extractLsb' 0 3).toNat
  decide (2 ≤ lt) && decide (lt ≤ 6) && 8 * 2 ^ (s.b.ctx.ac.zl.extractLsb' 5 2).toNat == sewOf (typeA s) && typeA s != 14 && typeA s != 15 &&
    vlA s % 4 ^ lt == 0

/-- A load: its index queue, whether its own conditions hold, whether elements draw tickets (R127), and an element's address. -/
structure LoadForm where
  index : Option (BitVec 2)
  fits : Bool
  tickets : Bool
  addr : Nat → Word

def loadTable (s : State) (q : BitVec 2) (a st : Reg) (ix : BitVec 2) (g : BitVec 3) (m : Bool) : List (Instr × LoadForm) :=
  [(.vld q a m, ⟨none, true, false, unitA s a⟩), (.vlds q a st m, ⟨none, true, false, stridedA s a st⟩),
   (.vldx q a ix m g, ⟨some ix, decide (g ≠ 7), false, indexedA s a g ix⟩), (.vldz q a m, ⟨none, tiledOk s, false, tiledA s a⟩),
   (.vldo q a m, ⟨none, decide (s.b.ctx.ac.mt = 0), true, unitA s a⟩)]

/-- The active elements with their addresses. -/
def activeAt (s : State) (m : Bool) (addr : Nat → Word) : List (Nat × Word) := ((List.range 2048).filter (activeA s m)).map fun e => (e, addr e)

/-- The entry of a load: the bytes at each active element's key as the hart finds them, zero elsewhere. -/
def EntryOf (s : State) (keys : List (Nat × Nat)) (data : VReg) : Prop :=
  ∀ e < 16384 / sewOf (typeA s), (elem data (sewOf (typeA s)) e).toNat =
    match keys.lookup e with
    | some key => viewedValue s key (bytesA s)
    | none => 0

/-- R18, R217: the plane that carries an element of chunk `q`: q mod 16, or with its port failed the next whose port works (the model's
choice, log entry 62). -/
def carrier (s : State) (q : Nat) : Option Nat :=
  ((List.range 16).map fun i => (q + i) % 16).find? fun p => s.ports.getLsbD p
/-- R217, R220: an element of the same channel (one sender, one plane) waits in the fabric. -/
def channelWaits (s : State) (l : List Arrival) (e : FabElem) : Bool :=
  l.any fun a => a.e.members.getD a.e.rank 0 == e.members.getD e.rank 0 &&
    carrier s (a.e.va.toNat / a.e.stride) == carrier s (e.va.toNat / e.stride)
/-- R122, R220: a plain store of the braid, of `n` bytes here that meet these, waits in the fabric. -/
def ownWaiting (s : State) (key n : Nat) : Prop :=
  ∃ x ∈ s.arrivals, x.by_ = some s.b.id ∧ x.e.op = 0 ∧ ∃ k u,
    s.check s.ownXlate s.b.task x.e.va.toNat x.e.size .store false = .ok (k, u) ∧ k < key + n ∧ key < k + x.e.size
/-- No plain store of the braid waits in the fabric. -/
def NoneWaiting (s : State) : Prop := ∀ x ∈ s.arrivals, x.by_ = some s.b.id → x.e.op ≠ 0
/-- R217, R220: an element of the braid for this module would overtake one that waits on its channel. -/
def heldBehind (s : State) (g : Group) (va : Word) : Bool :=
  g.owner s.b.ctx.ac.cstr.toNat va.toNat == s.lmember.toNat &&
    channelWaits s s.arrivals (s.elem g s.b.ctx.ac.cstr.toNat 0 (typeA s) va (bytesA s) 0)

/-! Stores: what is put in order, an element, or after an EG the progress word of `vstn`. -/

inductive Put where
  | element (e : Nat) (va : Word) (x : Nat)
  | progress (n : Nat)
deriving DecidableEq, Repr

def putsOf (s : State) (m : Bool) (q : BitVec 2) (word : Bool) (addr : Nat → Word) : List Put :=
  let data : VReg := match headSq s q with | some e => e.data | none => 0
  (List.range ((vlA s + egA s - 1) / egA s)).flatMap fun g =>
    (((List.range' (g * egA s) (egA s)).filter (activeA s m)).map fun e =>
      .element e (addr e) (elem data (sewOf (typeA s)) e).toNat) ++ (if word then [.progress (min (vlA s) ((g + 1) * egA s))] else [])

/-- One write of a vector store. In the global space it may perform later (R122), where the turn says so and it draws no ticket; what
performs now does so behind the stores before it. -/
def put (ticketed : Bool) (space : BitVec 2) (va : Word) (key n x : Nat) (s : State) : State :=
  if space ≠ 0 then s.writeMem key n x
  else if s.lazy = true ∧ ticketed = false then
    { s with b := { s.b with out := s.b.out ++
      [⟨0, va, key, n, x, s.b.ctx.ac.cop, s.b.ctx.ra.vt, s.b.ctx.fabric, s.b.ctx.ac.cstr.toNat, false, true, 0⟩] } }
  else (performed s).writeMem key n x

/-- What the puts leave and the keys, sizes and values written, or the first element refused, its cause, what stands then, and how many
elements were written before it. `word` is the address, key and scope of the progress word. -/
def scattered (word : Word × Nat × Nat) (ticketed : Bool) (s : State) :
    List Put → Except (Nat × Nat × State × Nat) (List (Nat × Nat × Nat) × State)
  | [] => .ok ([], s)
  | .element e va x :: r =>
    match located s s.b.ctx.ac.mt va (bytesA s) .store with
    | .error c => .error (e, c, s, 0)
    | .ok (key, t) => match scattered word ticketed (put ticketed s.b.ctx.ac.mt va key (bytesA s) x t) r with
      | .ok (ks, u) => .ok ((key, bytesA s, x) :: ks, u)
      | .error (e', c, u, n) => .error (e', c, u, n + 1)
  | .progress n :: r => match scattered word ticketed (put false 0 word.1 word.2.1 8 n (s.release word.2.2)) r with
    | .ok (ks, u) => .ok ((word.2.1, 8, n) :: ks, u)
    | .error h => .error h

/-- Fabric stores of one EG in order, each behind the vector stores before it (R218); one without room waits in the fabric (R220). -/
def fabricSends (g : Group) (s : State) : List Put → State
  | [] => s
  | .element _ va x :: r =>
    let t := performed s
    let e := t.elem g s.b.ctx.ac.cstr.toNat s.b.ctx.ac.cop (typeA s) va (bytesA s) x
    fabricSends g (match t.fabricStore g e with
      | some u => u
      | none => { t with arrivals := t.arrivals ++ [⟨e, some s.b.id⟩] }) r
  | .progress _ :: r => fabricSends g s r
/-- EG after EG, from the numbers listed: an EG goes whole, or stays at the sender behind an element that waits on a channel of its own
(R67, R220; log entry 99); then its number and what stands. -/
def fabricRun (g : Group) (puts : List Put) (s : State) : List Nat → Except (Nat × State) State
  | [] => .ok s
  | n :: r =>
    let l := puts.filter fun p => match p with | .element e _ _ => e / egA s == n | .progress _ => false
    if l.any fun p => match p with | .element _ va _ => heldBehind s g va | .progress _ => false then .error (n, s)
    else fabricRun g puts (fabricSends g s l) r

/-- Fabric loads in order (R218): the values by element. -/
def fabricGets (g : Group) (s : State) : List (Nat × Word) → List (Nat × Nat) × State
  | [] => ([], s)
  | (e, va) :: r =>
    let l := s.fabricLoad g va (bytesA s)
    let m := fabricGets g l.1 r
    ((e, l.2) :: m.1, m.2)

structure StoreForm where
  index : Option (BitVec 2)
  fits : Bool
  tickets : Bool
  addr : Nat → Word

def storeTable (s : State) (q : BitVec 2) (a st : Reg) (ix : BitVec 2) (g : BitVec 3) (m : Bool) : List (Instr × StoreForm) :=
  [(.vst q a m, ⟨none, true, false, unitA s a⟩), (.vsts q a st m, ⟨none, true, false, stridedA s a st⟩),
   (.vstx q a ix m g, ⟨some ix, decide (g ≠ 7 ∧ q ≠ ix), false, indexedA s a g ix⟩),
   (.vsto q a m, ⟨none, decide (s.b.ctx.ac.mt = 0), true, unitA s a⟩), (.vstu q a m, ⟨none, true, false, unitA s a⟩)]

/-- R218: the type suits the fabric operation, and no arrival-order add runs in deterministic mode (R221). -/
def FabricFits (s : State) (g : Group) : Prop :=
  (s.b.ctx.ac.cop = 0 ∨ s.b.ctx.ac.cop = 4 ∨ (8 ≤ (typeA s).toNat ∧ (typeA s).toNat ≤ 11) ∨ typeA s ∈ [2, 3, 6, 7]) ∧
    ¬ (s.b.ctx.ac.cop = 1 ∧ s.det = true ∧ g.arr = true)

def ticketsOn (b : Bool) (s t : State) (n : Nat) : State := if b then { t with ticket := s.ticket + n } else t

/-! The example axis (R189 to R200). -/

def xbaseOf (s : State) : Nat := s.b.ctx.xc.xbase.toNat
def entryX (s : State) (j : Nat) : XEntry := s.b.ctx.xt.getD j ⟨0, 0, 0, 0⟩
/-- R190: the entries of elements 0 to vl − 1 exist. -/
def InTable (s : State) : Prop := 0 < s.b.ctx.xt.length ∧ xbaseOf s + vlX s ≤ s.b.ctx.xt.length

/-- What the example instructions but `xsetb`, `xclr` and `xgate` name, with the types and the range that they take (R190, R194 to R200, R354). -/
def exampleShape (s : State) (i : Instr) : Option Shape :=
  let t := (typeX s).toNat
  let real := decide (8 ≤ t ∧ t ≤ 11)
  let inTable := decide (0 < s.b.ctx.xt.length ∧ xbaseOf s + vlX s ≤ s.b.ctx.xt.length)
  match i with
  | .xloss b k => some ⟨none, popped b, k, 0, decide (8 ≤ t ∧ t ≤ 10) && inTable, true⟩
  | .xnacc _ b k => some ⟨none, popped b, k, 1, real && inTable, true⟩
  | .xnaccSingle _ k => some ⟨none, none, k, 1, real && inTable, true⟩
  | .xgram e _ b k => some ⟨none, popped b, k, 1, real && decide (xbaseOf s + (s.xReg e).toNat < s.b.ctx.xt.length), false⟩
  | .xnorm d k => some ⟨some d, none, k, 1, decide (t = 10 ∨ t = 11) && inTable, true⟩
  | .xwt d k => some ⟨some d, none, k, 0, decide (t = 10) && inTable, true⟩
  | .xcomp d _ sel k => some ⟨some d, none, k, 0, decide (typeX s ∈ [1, 2, 3, 5, 6, 7] ∧ sel.toNat ≤ 5) && inTable, false⟩
  | _ => none
/-- The gate (R197, R198): its own mask, no lent one. -/
def gateShape (s : State) (d : Dst) (b : Src) (k : BitVec 4) : Shape :=
  ⟨some d, popped b, k, 1, decide (typeX s = 10 ∧ 0 < s.b.ctx.xt.length ∧ xbaseOf s + vlX s ≤ s.b.ctx.xt.length), true⟩

/-- The state with what an example instruction may write left out. -/
def apartFromTable (s : State) : State :=
  let t := apartFromVectors s
  { t with b := { t.b with ctx := { t.b.ctx with xt := [], k := .replicate 16 0, kf := 0, x := .replicate 32 0 } } }

/-- Entries after an instruction: those of elements that `new` names, the others as they were. -/
def Entries (s t : State) (new : Nat → Option XEntry) : Prop :=
  t.b.ctx.xt.length = s.b.ctx.xt.length ∧
  ∀ j < s.b.ctx.xt.length, entryX t j = ((if xbaseOf s ≤ j then new (j - xbaseOf s) else none).getD (entryX s j))

/-- An example instruction that writes entries alone, and has popped `pop`. -/
structure TableResult (s t : State) (pop : Option (BitVec 2)) (new : Nat → Option XEntry) : Prop where
  goes : Goes s t (s.pc + 4)
  entries : Entries s t new
  kept : t.b.ctx.v = s.b.ctx.v ∧ t.b.hwm = s.b.hwm ∧ t.b.ctx.sq = s.b.ctx.sq ∧ t.b.ctx.k = s.b.ctx.k ∧ t.b.ctx.kf = s.b.ctx.kf ∧
    t.b.ctx.x = s.b.ctx.x
  pops : ∀ q, t.b.ctx.lq.get q.toFin = if pop = some q then (s.b.ctx.lq.get q.toFin).tail else s.b.ctx.lq.get q.toFin
  es : t.b.ctx.rx.es = 0
  rest : Kept (apartFromTable s) (apartFromTable t)

/-- R195: nsq := Round(nsq + t, f64). -/
def accrue (m : Mode) (x : XEntry) (inputs : List FVal) (t : FVal) : XEntry × Flags :=
  let n := Fmt.f64.decode x.nsq.toNat
  let r := round1 .f64 m (n :: inputs) (n.add m.down t)
  ({ x with nsq := BitVec.ofNat 64 r.1 }, r.2)

/-- A quotient's one Round in f32, with DZ for a finite non-zero number over zero. -/
def quotient (m : Mode) (a b : Nat) : Nat × Flags :=
  let x := Fmt.f32.decode a
  let y := Fmt.f32.decode b
  let q := round1 .f32 m [x, y] (x.div y)
  (q.1, q.2 ||| if y.isZero && !x.isZero && !x.isInf && !x.isNan then 0x08 else 0)

/-- R197 for one example: w, flags, whether it is kept, and the sticky flags. Entry flags: kept 0, clipped 1, sampled-out 2, rejected 3, NaN 4. -/
def gated (c : XRegs) (m : Mode) (x : XEntry) (u : Nat) : Nat × BitVec 8 × Bool × Flags :=
  let v (a : Nat) : FVal := Fmt.f32.decode a
  let above (a b : FVal) : Bool := a.cmp b == some .gt
  let atMost (a b : FVal) : Bool := a.cmp b == some .lt || a.cmp b == some .eq
  let sq := Fmt.f64.decode x.nsq.toNat
  let n := round1 .f32 m [sq] sq.sqrt
  let g := if (v c.gclip.toNat).isNan then 0x7F800000 else c.gclip.toNat
  let isBad := (v n.1).isNan || (v x.loss.toNat).isNan
  if isBad then (0, 0x18, false, n.2)
  else if above (v n.1) (v c.gdrop.toNat) then (0, 0x08, false, n.2)
  else
    let small := atMost (v n.1) (v g)
    let cc : Nat × Flags := if small then (0x3F800000, 0) else quotient m g n.1
    let clip : BitVec 8 := if small then 0 else 0x02
    if c.gmode = 0 then (cc.1, clip ||| 0x01, true, n.2 ||| cc.2)
    else
      let always := (v c.gtau.toNat).isNan || atMost (v c.gtau.toNat) (.fin false 0 0)
      let q := quotient m (if small then n.1 else g) c.gtau.toNat
      let p : Nat × Flags :=
        if always then (0x3F800000, 0)
        else if (v q.1).cmp (v 0x3F800000) = some .lt then q else (0x3F800000, q.2)
      if (v u).cmp (v p.1) = some .lt then
        let w := quotient m cc.1 p.1
        (w.1, clip ||| 0x01, true, n.2 ||| cc.2 ||| p.2 ||| w.2)
      else (0, clip ||| 0x04, false, n.2 ||| cc.2 ||| p.2)

/-- What VecResult says of `t` with its table, masks and x registers as in `s`. -/
def withTableOf (s t : State) : State :=
  { t with b := { t.b with ctx := { t.b.ctx with xt := s.b.ctx.xt, k := s.b.ctx.k, kf := s.b.ctx.kf, x := s.b.ctx.x } } }

/-! The matrix arrays (R172 to R183, R90) and sampled products (R206 to R214). -/

def heldSlices (s : State) : Nat := s.b.ctx.xc.mgrant.toNat
/-- R11, R172: the slices of the braid's quad that no resident braid holds; a boot core has no array. -/
def quadFree (s : State) : Nat :=
  (if quadOf s.b.core < 160 then 4 else 0) -
    ((s.braids.filter fun c => c.live && quadOf c.core == quadOf s.b.core).map fun c => c.ctx.xc.mgrant.toNat).sum
/-- R156: braid `c` asked for slices before the braid in focus: by card priority, then by age. -/
def askedBefore (s : State) (c : Braid) : Bool :=
  let prio (b : Braid) : Nat := match s.task? b.task with | some k => k.prio0 | none => 0
  let since (b : Braid) : Nat := b.askAge.getD s.ticks
  decide (prio s.b < prio c) || (decide (prio c = prio s.b) && decide (since c < since s.b))
/-- Slices that a waiting `ctxload`, and a follower's waiting `matt`, have not got. -/
def lacksLoad (c : Braid) : Nat := match c.waitA with | some (.reattach n) => n - c.ctx.xc.mgrant.toNat | _ => 0
def lacksMatt (c : Braid) : Nat := match c.waitX with | some (.slices _ g) => g | _ => 0
/-- What a `ctxload` may take of them: not what earlier ones wait for (R156, R307). -/
def openLoad (s : State) : Nat :=
  quadFree s - ((s.rest.filter fun c => c.live && quadOf c.core == quadOf s.b.core && askedBefore s c).map lacksLoad).sum
/-- What a `matt` may take: not what any `ctxload` or an earlier `matt` waits for, and within the budget (R156, R172, R307). -/
def openMatt (s : State) : Nat :=
  let others := s.rest.filter fun c => c.live && quadOf c.core == quadOf s.b.core
  min (quadFree s - ((others.map lacksLoad).sum + ((others.filter (askedBefore s)).map lacksMatt).sum)) (s.sliceBudget (quadOf s.b.core))
def notAsking (s : State) : State := { s with b := { s.b with askAge := none } }
/-- `t` with the braid asking for slices since it first asked in `s` (R156). -/
def asking (s t : State) : State := { t with b := { t.b with askAge := some (s.b.askAge.getD s.ticks) } }
def withMx (s : State) (m : Matrix) : State := { s with b := { s.b with ctx := { s.b.ctx with mx := m } } }
def withXc (s : State) (x : XRegs) : State := { s with b := { s.b with ctx := { s.b.ctx with xc := x } } }
/-- R317: `es` left at 0. -/
def esZero (s : State) : State := { s with b := { s.b with ctx := { s.b.ctx with rx := { s.b.ctx.rx with es := 0 } } } }
def poppedX (s : State) : Option (BitVec 2) → State
  | none => s
  | some q => { s with b := { s.b with ctx := { s.b.ctx with lq := s.b.ctx.lq.set q.toNat (s.b.ctx.lq.get q.toFin).tail q.isLt } } }

/-- A source with a whole head, if it is a queue. -/
def SourceThere (s : State) (b : Src) : Prop := ∀ q, popped b = some q → ∃ e l, s.b.ctx.lq.get q.toFin = e :: l ∧ e.part = none

/-- R176: the K rows, or slices of blocks, that a slice's plane takes. -/
def rowsFor (t : Reg) : Nat := if t.toNat ≤ 11 then 16 else if t.toNat ≤ 13 then 32 else 1
def planeType (t : Reg) : Prop := 8 ≤ t.toNat ∧ t.toNat ≤ 15

/-- Row `r` of 64 elements of `w` bits. -/
def row64 (v : VReg) (w r : Nat) : VReg := (v.extractLsb' (64 * w * r) (64 * w)).setWidth 16384

def accOf (s : State) (c : BitVec 1) : Acc := if c = 0 then s.b.ctx.mx.acc0 else s.b.ctx.mx.acc1
def withAcc (m : Matrix) (c : BitVec 1) (a : Acc) : Matrix := if c = 0 then { m with acc0 := a } else { m with acc1 := a }
/-- Rows, and an element's code (R179). -/
def accRows (a : Acc) : Nat := if a.f64 then 32 else 64
def accCode (a : Acc) (r c : Nat) : Nat :=
  if a.f64 then (a.data.extractLsb' (64 * (64 * r + c)) 64).toNat else (a.data.extractLsb' (32 * (64 * r + c)) 32).toNat
def accFmt (a : Acc) : Fmt := if a.f64 then .f64 else .f32

/-- R90 for element data: groups of `n` products in order, each group's exact sum added with one rounding; code and flags. -/
def dotGroups (g : Fmt) (n : Nat) : Nat → Nat → List (FVal × FVal) → Nat × Flags
  | 0, acc, _ => (acc, 0)
  | f + 1, acc, l =>
    if l = [] then (acc, 0)
    else
      let u := accumulate g acc ((l.take n).map fun p => (p.1.mul p.2, p.1.mulInvalid p.2))
      let r := dotGroups g n f u.1 (l.drop n)
      (r.1, u.2 ||| r.2)

/-- A row of the stream against a column of the active plane: pairs in ascending K. -/
def pairsOf (s : State) (src : VReg) (ka r c : Nat) : List (FVal × FVal) :=
  let p := s.b.ctx.mx.active
  (List.range ka).map fun k =>
    (((fmtOf (typeX s)).getD .f32).decode (elem src (sewX s) (r * ka + k)).toNat,
     ((fmtOf p.ty).getD .f32).decode (elem (p.rows.getD k 0) (sewOf p.ty) c).toNat)

/-- The number that a finite value stands for: plus or minus `m` times 2^`e`. -/
def valueOf : FVal → Rat
  | .fin n m e => (if n then -(m : Rat) else (m : Rat)) *
      (if 0 ≤ e then ((2 ^ e.toNat : Nat) : Rat) else 1 / ((2 ^ (-e).toNat : Nat) : Rat))
  | _ => 0

/-- R182: an element of a drain. What rounds beyond the type is infinite for Clamp, also in e4m3, which has no code for it (R72, R80). -/
def drained (s : State) (a : Acc) (v : Bool) (e : Nat) : Nat × Flags × Bool :=
  let g := fmtX s
  let i := 64 * a.dc + e
  let m := s.b.ctx.rx.mode i
  let n := s.b.ctx.xc.mscnt.toNat
  if v ∧ n = 0 then (g.nan, 0x10, false)
  else
    let x := (accFmt a).decode (accCode a (i / 64) (i % 64))
    let y := if v then x.div (.fin false n 0) else x
    let q := g.round m y
    let beyond := y.isInf || (q.2.getLsbD 2 && q.1 % 2 ^ (g.mb + g.eb) != g.maxCode)
    let c := clampOf g m (s.b.ctx.rx.fctl.getLsbD 3) s.b.ctx.bound (if beyond then .inf y.neg? else g.decode q.1)
    (c.1, q.2 ||| c.2.1, c.2.2)

/-- R210: the index drawn for sample `t` and its scale. -/
def drawn (s : State) (t : Nat) : Nat × BitVec 32 :=
  let z := (dither s.b.ctx.rx t)
  let tab := s.b.tab
  let slot := (z.extractLsb' 32 32).toNat * tab.weights.length / 2 ^ 32
  let k := if (z.extractLsb' 8 24).toNat < tab.thr.getD slot 0 then slot else tab.alias_.getD slot 0
  (k, BitVec.ofNat 32 (Fmt.f32.round .rne ((Fmt.f64.decode s.b.ctx.xc.mz.toNat).div (Fmt.f32.decode (tab.weights.getD k 0).toNat))).1)

/-- R209's weights that make no table. -/
def refusedWeight (w : BitVec 32) : Bool :=
  let v := Fmt.f32.decode w.toNat
  v.isNan || v.isInf || (v.neg? && !v.isZero)

/-- R73: the stop test multiplies 0 by infinity, an invalid operation (R211; log entry 93). -/
def testFlags (s : State) : Flags :=
  let x := Fmt.f64.decode s.b.ctx.xc.mtgt.toNat
  let y := Fmt.f64.decode s.b.ctx.xc.mfro.toNat
  if s.b.ctx.xc.mscnt ≠ 0 ∧ ((x.isZero = true ∧ y.isInf = true) ∨ (x.isInf = true ∧ y.isZero = true)) then 0x10 else 0

/-- R211, where the stop test ends the instruction: 1 target met, 0 cap reached, 2 no table. -/
def samplingEnds (s : State) (cap : Word) : Option Nat :=
  let x := s.b.ctx.xc
  let o := (Fmt.f64.decode x.mvar.toNat).cmp ((Fmt.f64.decode x.mtgt.toNat).mul (Fmt.f64.decode x.mfro.toNat))
  if x.mscnt ≠ 0 ∧ (o = some .lt ∨ o = some .eq) then some 1
  else if cap.toNat ≤ x.mscnt.toNat then some 0
  else if s.b.tab.valid then none
  else some 2

/-- R211's conditions on types, lengths, the shadow plane and the tag. -/
def maySample (s : State) (c : BitVec 1) : Prop :=
  (typeX s = 8 ∨ typeX s = 9) ∧ vlX s ≠ 0 ∧ vlX s % 64 = 0 ∧ 1024 % vlX s = 0 ∧ (accOf s c).f64 = false ∧ s.b.ctx.mx.shadow.rows = [] ∧
    (s.b.ctx.xc.mscnt ≠ 0 → s.b.ctx.xc.statTag = c)

/-! Atomics (R132 to R137) and accumulation windows (R139 to R141). -/

def floatOfBits (w : Nat) : Fmt := if w = 32 then .f32 else .f64

/-- R133's table of what is written and the flags, for `w` bits, old value `x`, operand `y` and compare value `z`; and whether Extend
sign-extends (R134). -/
def amoTable (s : State) (d a b : Reg) (f : Bool) (o : AmoMod) : List (Instr × Bool × ((w : Nat) → BitVec w → BitVec w → BitVec w → Nat × Flags)) :=
  let num (w : Nat) (x : BitVec w) : FVal := (floatOfBits w).decode x.toNat
  [(.amoAdd d a b o, true, fun _ x y _ => ((x + y).toNat, 0)),
   (.amoFadd d a b o, false, fun w x y _ => round1 (floatOfBits w) (s.b.ctx.ra.mode 0) [num w x, num w y]
     ((num w x).add (s.b.ctx.ra.mode 0).down (num w y))),
   (.amoMax d a b f o, !f, fun w x y _ =>
     if f then exactly (floatOfBits w) ((num w x).max (num w y)) else ((if x.toInt ≤ y.toInt then y else x).toNat, 0)),
   (.amoMin d a b f o, !f, fun w x y _ =>
     if f then exactly (floatOfBits w) ((num w x).min (num w y)) else ((if x.toInt ≤ y.toInt then x else y).toNat, 0)),
   (.amoMaxn d a b o, false, fun _ x y _ => ((if x.toNat ≤ y.toNat then y else x).toNat, 0)),
   (.amoMinn d a b o, false, fun _ x y _ => ((if x.toNat ≤ y.toNat then x else y).toNat, 0)),
   (.amoXchg d a b o, false, fun _ _ y _ => (y.toNat, 0)), (.amoCas d a b o, false, fun _ x y z => ((if x = z then y else x).toNat, 0)),
   (.amoAnd d a b o, false, fun _ x y _ => ((x &&& y).toNat, 0)), (.amoOr d a b o, false, fun _ x y _ => ((x ||| y).toNat, 0)),
   (.amoMaxrs d a b f o, !f, fun w _ _ _ =>
     (if f then (floatOfBits w).signBit true + (floatOfBits w).infCode else 2 ^ (w - 1), 0))]

/-- The A-hart's flags and dither after a rounding atomic (R134). -/
def flaggedA (s : State) (fl : Flags) (rounds : Bool) : State :=
  { s with b := { s.b with ctx := { s.b.ctx with ra := { s.b.ctx.ra with
    fsts := s.b.ctx.ra.fsts ||| fl
    dord := if rounds = true ∧ s.b.ctx.ra.fctl.extractLsb' 0 3 = 5 then s.b.ctx.ra.dord + 1 else s.b.ctx.ra.dord } } } }

/-- The A-hart's release at a scope (R96, R117, R118, R122): at core scope or wider its cache is written back; its vector stores perform at
device scope, and at a narrower one do so for the agents in it and for the hart itself, which is noted on each. -/
def ordered (s : State) (scope : Nat) : State :=
  if 4 ≤ scope then performed s
  else { s with b := { s.b with out := s.b.out.map fun i => { i with level := max i.level (scope + 1) } } }
def releasedA (s : State) (scope : Nat) : State := ordered (if 2 ≤ scope then s.cacheWriteback else s) scope
/-- Its acquire: at core scope or wider, what other braids have released to it performs, and its cache is written back and emptied. -/
def acquiredA (s : State) (scope : Nat) : State := if 2 ≤ scope then (s.observe scope).cacheFlush else s
/-- Those of the executing hart; the X-hart has no access of its own (R118). -/
def released (s : State) (scope : Nat) : State := match s.hart with | .A => releasedA s scope | .X => s
def acquired (s : State) (scope : Nat) : State := match s.hart with | .A => acquiredA s scope | .X => s

/-- What an atomic of `n` bytes meets: its line out of the scalar cache, with what the hart stored there written back, and the hart's vector
stores to its bytes, with those before them, performed (R119, R122, R126). -/
def reached (key n : Nat) (t : State) : State := (t.cacheEvict key).settleBytes key n
/-- What it finds at home: so, and its release done where asked. -/
def atHome (o : AmoMod) (key n : Nat) (t : State) : State :=
  let t := reached key n t
  (if o.rl then releasedA t o.scope.toNat else t).cacheEvict key
/-- What it leaves: the write, its ticket (R127), its acquire. -/
def leftHome (o : AmoMod) (key n v : Nat) (u : State) : State :=
  let w := u.writeMem key n v
  let w := if o.aq ∧ o.rl ∧ o.scope = 4 then { w with ticket := w.ticket + 1 } else w
  if o.aq then acquiredA w o.scope.toNat else w

/-- Elements at their homes in ascending order (the model's order, log entry 28): each location gets `f` of the element and what it held. -/
def updated (f : Nat → Nat → Nat × Flags) (s : State) : List (Nat × Word) → Option (State × Flags)
  | [] => some (s, 0)
  | (e, va) :: r =>
    match located s s.b.ctx.ac.mt va (bytesA s) .atomic with
    | .error _ => none
    | .ok (key, t) =>
      let u := f e (t.mem.read key (bytesA s))
      match updated f (t.writeMem key (bytesA s) u.1) r with
      | none => none
      | some (v, fl) => some (v, u.2 ||| fl)

/-- An integer or floating step of R136, of `w`-bit codes under the A-hart's type. -/
def stepOf (s : State) (op : Nat) (e x y : Nat) : Nat × Flags :=
  let t := typeA s
  let w := sewOf t
  let g := floatOfBits w
  let i (c : Nat) : Int := if t.toNat < 4 then (BitVec.ofNat w c).toInt else c
  if op = 0 then ((x + y) % 2 ^ w, 0)
  else if op = 1 then
    round1 g (s.b.ctx.ra.mode e) [g.decode x, g.decode y] ((g.decode x).add (s.b.ctx.ra.mode e).down (g.decode y))
  else if t = 10 ∨ t = 11 then exactly g (if op = 2 then (g.decode x).max (g.decode y) else (g.decode x).min (g.decode y))
  else (if decide (i x ≤ i y) == decide (op = 2) then y else x, 0)

def opTypes (op : Nat) (t : Reg) : Prop :=
  if op = 0 then t ∈ [2, 3, 6, 7] else if op = 1 then t ∈ [10, 11] else t ∈ [2, 3, 6, 7, 10, 11]

def vamoTable (q : BitVec 2) (a : Reg) (ix : BitVec 2) (m : Bool) : List (Instr × Nat) :=
  [(.vamoAdd q a ix m, 0), (.vamoFadd q a ix m, 1), (.vamoMax q a ix m, 2), (.vamoMin q a ix m, 3)]

/-- Element `e` of a data entry. -/
def dataA (s : State) (q : BitVec 2) (e : Nat) : Nat :=
  (elem (match headSq s q with | some x => x.data | none => (0 : VReg)) (sewOf (typeA s)) e).toNat

/-- The address of an element of an indexed atomic (R136). -/
def atomicAddr (s : State) (a : Reg) (ix : BitVec 2) (e : Nat) : Word :=
  s.aReg a + BitVec.ofNat 64 ((elem (indexA s (some ix)) (sewOf (typeA s)) e).toNat * bytesA s)

/-! Windows. -/

def windowOf (s : State) (w : BitVec 2) : Option Window := s.b.ctx.wins.get w.toFin
def withWindow (s : State) (w : BitVec 2) (x : Option Window) : State :=
  { s with b := { s.b with ctx := { s.b.ctx with wins := s.b.ctx.wins.set w.toNat x w.isLt } } }

/-- R88's identity of a window's operation. -/
def identityOf (op : Nat) (t : Reg) : Nat :=
  let w := sewOf t
  let g := floatOfBits w
  if op = 0 then 0
  else if op = 1 then 2 ^ (w - 1)
  else if t = 10 ∨ t = 11 then (if op = 2 then g.signBit true else 0) + g.infCode
  else if t.toNat < 4 then (if op = 2 then 2 ^ (w - 1) else 2 ^ (w - 1) - 1)
  else if op = 2 then 0 else 2 ^ w - 1

/-- The key of a pool byte of the braid's core (R55). -/
def ownPool (s : State) (off : Nat) : Nat := 2 ^ 45 + s.b.core * 2 ^ 20 + off

/-- The sixteen copies filled with the identity. -/
def copiesFilled (s : State) (x : Window) : State :=
  let n := sewOf x.ty / 8
  (List.range (16 * x.len / n)).foldl (fun t i => t.writeMem (ownPool s (x.pool + i * n)) n (identityOf x.op.toNat x.ty)) s

/-- R141: element `e` of the data added into the copy of lane e mod 16. -/
def laneAdded (s : State) (x : Window) (q ix : BitVec 2) (els : List Nat) : State :=
  els.foldl (fun t e =>
    let n := bytesA s
    let key := ownPool s (x.pool + e % 16 * x.len + (elem (indexA s (some ix)) (sewOf (typeA s)) e).toNat * n)
    let r := stepOf s x.op.toNat e (t.mem.read key n) (dataA s q e)
    let u := t.writeMem key n r.1
    { u with b := { u.b with ctx := { u.b.ctx with ra := { u.b.ctx.ra with fsts := u.b.ctx.ra.fsts ||| r.2 } } } }) s

/-- R141, R297: the offsets of the target in ascending order, each combined with its sixteen copies in lane order. -/
def mergedInto (s : State) (x : Window) (step : Nat → Nat → Nat → Nat × Flags) : List Nat → Option (State × Flags)
  | [] => some (s, 0)
  | e :: r =>
    let n := sewOf x.ty / 8
    match s.ownCheck (x.base + BitVec.ofNat 64 (e * n)).toNat n .atomic with
    | .error _ => none
    | .ok (key, t) =>
      let v := (List.range 16).foldl (fun (u : Nat × Flags) l =>
        let w := step e u.1 (t.mem.read (ownPool s (x.pool + l * x.len + e * n)) n)
        (w.1, u.2 ||| w.2)) (t.mem.read key n, 0)
      match mergedInto (t.writeMem key n v.1) x step r with
      | none => none
      | some (u, fl) => some (u, v.2 ||| fl)

/-! The almanac, barriers, `mwait` and fences. -/

/-- The A-hart has stored the byte and not yet written it back. -/
def dirtyAt (s : State) (key : Nat) : Bool :=
  match s.cached (key / 64) with
  | some l => l.dirty.getLsbD (key % 64)
  | none => false

/-- Iteration `i` is posted (R144). -/
def posted (p : Loop) (i : Nat) : Prop := i < p.f ∨ ∃ r ∈ p.pend, r.1 ≤ i ∧ i < r.2
/-- R143, R144: at most eight pending ranges, in order, apart from one another and from the frontier. With `posted` it fixes the loop id's
state. -/
def LoopOk (p : Loop) : Prop :=
  p.pend.length ≤ 8 ∧ (∀ r ∈ p.pend, p.f < r.1 ∧ r.1 < r.2) ∧ p.pend.Pairwise fun r q => r.2 < q.1

/-- The braid's loop id holds `p`. -/
def HasLoop (s : State) (l : Reg) (p : Loop) : Prop := ∃ k, s.thisTask = some k ∧ k.loops[l.toNat]? = some p
def withLoop (s : State) (l : Reg) (p : Loop) : State :=
  { s with tasks := s.tasks.map fun k => if k.id = s.b.task then { k with loops := k.loops.set l.toNat p } else k }

/-- R145: where the barrier that the executing core calls `n` stands: its die's 64, or the module's 16. -/
def barrierPlace (s : State) (n : Nat) : Fin 272 := Fin.ofNat 272 (if n < 64 then dieOf s.b.core * 64 + n else 192 + n)
/-- The scope of a barrier's release and acquire (R145, R146): die, or device. -/
def scopeOf (n : Nat) : Nat := if n < 64 then 3 else 4
def barrierOf (s : State) (n : Nat) : Barrier := s.barriers.get (barrierPlace s n)
def withBarrier (s : State) (n : Nat) (x : Barrier) : State :=
  { s with barriers := s.barriers.set (barrierPlace s n).val x (barrierPlace s n).isLt }

/-- Hart `h` of a braid waits in `bwait` on the barrier at a place. -/
def BlockedAt (s : State) (b : Braid) (h : Hart) (place : Fin 272) : Prop :=
  ∃ d tok, b.wait h = some (.barrier d tok) ∧ barrierPlace { s with b := b } (tok.extractLsb' 8 8).toNat = place

def withMonitor (s : State) (on : Bool) : State := { s with b := { s.b with monitor := on } }
/-- R147: the 64 entries of the monitor table of the die are in use by others. -/
def monitorsTaken (s : State) : Prop :=
  s.b.monitor = false ∧ 64 ≤ (s.rest.filter fun b => b.monitor && dieOf b.core == dieOf s.b.core).length

/-- A job of the braid that `fence.eng` waits for (R129). -/
def Unended (s : State) (j : Job) : Prop :=
  j.braid = s.b.id ∧ (j.st = .waiting ∨ j.st = .running ∨
    (j.st = .registered ∧ ∀ n, j.srcStream = some n → (s.stream n).st ≠ .faulted))
/-- R129: the A-hart's jobs and streams are at an end. The X-hart issues none. -/
def EnginesDone (s : State) : Prop :=
  s.hart = .A → (∀ j ∈ s.jobs, ¬ Unended s j) ∧ ∀ n, (s.stream n).st ≠ .active

/-- R130: every result of a completed chunk has reached memory. -/
def resultsIn (s : State) : State := s.xres.foldl (fun t w => t.writeMem w.1 w.2.1 w.2.2) { s with xres := [] }

def withTlb (s : State) (keep : TlbEntry → Bool) : State := { s with tlb := s.tlb.filter keep }

/-- R308's range: lines of the first tier. -/
def DieLines (a b : Word) : Prop := a.toNat % 128 = 0 ∧ b.toNat % 128 = 0
def DieRange (a b : Word) : Prop := a.toNat < 2 ^ 39 ∧ a.toNat % 2 ^ 37 + b.toNat ≤ 96 * 2 ^ 30
def bare (s : State) : State := { s with mem := [], dram := [] }

/-! Streams, cards and engine jobs. -/

def withStream (s : State) (n : BitVec 3) (t : Stream) : State :=
  { s with b := { s.b with ctx := { s.b.ctx with streams := s.b.ctx.streams.set n.toNat t n.isLt } } }
/-- R111, R112: the finish of a stream whose landing is enabled makes the landing pending. -/
def landed (s : State) (n : BitVec 3) : State :=
  if s.b.ctx.landEn.getLsbD n.toNat then
    { s with b := { s.b with ctx := { s.b.ctx with landPend := s.b.ctx.landPend ||| BitVec.ofNat 8 (2 ^ n.toNat) } } }
  else s
/-- No pending trigger of the stream has reached its threshold. -/
def NoneDue (s : State) (n : BitVec 3) : Prop := ∀ g ∈ (s.stream n).trigs, (s.stream n).ctr < g.thr
/-- R217: the fabric space can be used. -/
def FabricOpen (s : State) : Prop := s.b.ctx.ac.cgrp ≠ 0 ∧ s.b.ctx.ac.cstr ≠ 0 ∧ s.b.ctx.grp ≠ none
/-- R105: where an end of a stream may lie, by its space. -/
def EndFits (space : BitVec 2) (base bytes : Nat) : Prop :=
  match space.toNat with
  | 1 => base < 2 ^ 20 ∧ base + bytes ≤ 2 ^ 20
  | 2 => base < 160 * 2 ^ 20 ∧ base % 2 ^ 20 + bytes ≤ 2 ^ 20
  | _ => bytes = 0 ∨ base + bytes ≤ 2 ^ 57
/-- R108, R109: registered jobs of the stream are discarded. -/
def withoutJobs (s : State) (n : BitVec 3) : State :=
  { s with jobs := s.jobs.map fun j =>
    if j.st = .registered ∧ j.braid = s.b.id ∧ j.srcStream = some n then { j with st := .discarded } else j }

/-- The bytes the A-hart reads by `n` loads of `z` bytes from `va` on, through its cache (R236). -/
def loads (s : State) (va : Word) (z : Nat) : Nat → Option (List Byte × State)
  | 0 => some ([], s)
  | n + 1 => match loads s va z n with
    | none => none
    | some (l, t) =>
      let a := va + BitVec.ofNat 64 (z * n)
      if a.toNat % z ≠ 0 ∨ a.extractLsb' 57 7 ≠ 0 then none
      else match t.ownCheck a.toNat z .load with
        | .error _ => none
        | .ok (key, u) => match u.cacheLoad key z with
          | .error _ => none
          | .ok (v, w) => some (l ++ (List.range z).map (fun i => BitVec.ofNat 8 (v / 256 ^ i)), w)

/-- R231 to R236: a card of a class, with the header at its base for class 1, read and accepted. -/
def CardRead (s : State) (cls : Nat) (va : Word) (card hd : List Byte) (t : State) : Prop :=
  ∃ u, loads s va 8 8 = some (card, u) ∧ cardOk cls card = true ∧ (∀ a ∈ cardAddrs cls card, a < 2 ^ 57) ∧
    (cls = 0 → hd = [] ∧ t = u) ∧
    (cls = 1 → loads u (BitVec.ofNat 64 (cardBase card)) 8 16 = some (hd, t) ∧ Header.ok hd 0 = true ∧ qubitsOk card (.of hd) = true ∧
      t.groupOk (.of hd) = true)

/-- The job at the end of the dependence order (R30, R238). -/
def withJob (s : State) (num cls : Nat) (card : List Byte) (image : Option (List Byte)) (hdr : Word) (st : JobState)
    (src : Option (BitVec 3)) (regions : List Region) (mbits : Nat) : State :=
  { s with
    jobs := s.jobs ++ [{
      id := s.nextId, braid := s.b.id, task := s.b.task, num := num, cls := cls, card := card, image := image, hdrAddr := hdr, st := st
      cause := 0, root := s.b.ctx.ac.pgroot, asn := s.b.ctx.ac.asn, grp := s.b.ctx.grp, srcStream := src, regions := regions, age := s.age
      mbits := mbits }]
    nextId := s.nextId + 1
    age := s.age + 1 }
/-- The submission's number counted and written to `d` (R236). -/
def numbered (s : State) (d : Reg) (n : Nat) : State := { s with b := { s.b with jobsIssued := n } }.setA d (BitVec.ofNat 64 n)
/-- R236: 64 jobs that the braid submitted are unfinished. -/
def JobsFull (s : State) : Prop :=
  64 ≤ (s.jobs.filter fun j => decide (j.braid = s.b.id ∧ j.num ≠ 0 ∧ (j.st = .registered ∨ j.st = .waiting ∨ j.st = .running))).length
/-- R300: the hart's cache no longer holds the line of the job's completion word, so that a load finds the word as it now stands. -/
def endSeen (s : State) (j : Job) : State :=
  if fieldAt j.card 40 8 = 0 ∨ 2 ^ 57 ≤ fieldAt j.card 40 8 then s
  else match s.check ⟨none, j.root.toNat, j.asn, true⟩ 0 (fieldAt j.card 40 8) 8 .load false with
    | .error _ => s
    | .ok (key, t) => t.cacheEvict key
/-- R237's map of a job. -/
def jobCode (j : Job) : Nat :=
  match j.st with
  | .registered => 1
  | .waiting => 1
  | .running => 2
  | .completed => 3
  | .failed => 4 + 256 * j.cause
  | .discarded => 5

/-! Tasks, strips, landings and the prefix. -/

/-- R32, R148: the queue's 256 places are taken, by card addresses and by a task whose card was read and that is not dispatched. -/
def QueueFull (s : State) (q : Nat) : Prop :=
  256 ≤ (s.cards.filter fun c => c.q == q).length + (s.tasks.filter fun k => k.q == q && k.st == .waiting).length
def withCard (s : State) (q : Nat) (a : Word) : State :=
  { s with
    cards := s.cards ++ [{ q := q, addr := a, root := s.b.ctx.ac.pgroot, asn := s.b.ctx.ac.asn, parent := some s.b.task, host := false, age := s.age }]
    age := s.age + 1 }

/-- R26: strips of a level. -/
def stripsOf (l : LevelRec) : Nat := (l.extent + l.strip - 1) / l.strip
/-- R29: the die groups D of a task. -/
def groupsOf (k : Task) : Nat :=
  match k.levels with
  | l :: _ => if l.kind = 3 then stripsOf l else 1
  | [] => 1
/-- R38: the strips S of a group, the product over the levels of kind 2. -/
def spanOf (k : Task) : Nat := ((k.levels.filter fun l => l.kind == 2).map stripsOf).foldr (· * ·) 1
/-- R38, R39: braid `c`'s strip numbers, first and one past the last. -/
def dealt (k : Task) (c : Nat) : Nat × Nat :=
  let braids := k.ncores / groupsOf k
  let i := c % braids
  let first := c / braids * spanOf k
  if k.det then
    let virtual := k.canon / groupsOf k
    let block (v : Nat) := v * spanOf k / virtual
    (first + block (i * virtual / braids), first + block ((i + 1) * virtual / braids))
  else (first + i * spanOf k / braids, first + (i + 1) * spanOf k / braids)
/-- R37's table. -/
def identity (k : Task) (c sel : Nat) : Nat :=
  if sel = 0 then (if k.det then k.canon else k.ncores)
  else if sel = 1 then c
  else if sel = 2 then c / (k.ncores / groupsOf k)
  else if sel = 3 then k.ncores
  else if sel < 8 then ((k.levels[sel - 4]?).map LevelRec.extent).getD 0
  else ((k.levels[sel - 8]?).map LevelRec.strip).getD 0
/-- R40: strips the hart has taken. -/
def taken (s : State) : Nat := match s.hart with | .A => s.b.ctx.curA | .X => s.b.ctx.curX
def withTaken (s : State) (n : Nat) : State :=
  match s.hart with
  | .A => { s with b := { s.b with ctx := { s.b.ctx with curA := n } } }
  | .X => { s with b := { s.b with ctx := { s.b.ctx with curX := n } } }
def stripped (s : State) (d : Reg) (v : Word) : State := withHr s (fun r => { r with lstrip := v, dord := 0 }) |>.setReg d v

/-- R252: the word of `repq` in a set; count and degraded as they stood at its last release. -/
def setWord (s : State) (r : RSet) : Word :=
  (BitVec.ofNat 32 r.rel ++ (0 : BitVec 26) ++ BitVec.ofBool r.rerun ++ BitVec.ofBool r.deg0 ++ BitVec.ofNat 2 r.count0 ++
    BitVec.ofNat 2 s.b.rep : BitVec 64)

/-- R43: the hart has ended; an A-hart that ends inside the system handler ends there (log entry 73). -/
def withEnd (s : State) : State :=
  match s.hart with
  | .A => { s with b := { s.b with endS := s.sysMode, ctx := { s.b.ctx with endA := true } } }
  | .X => { s with b := { s.b with ctx := { s.b.ctx with endX := true } } }
/-- R43: the A-hart's streams have finished, or are cancelled or idle. -/
def StreamsDone (s : State) : Prop := s.hart = .A → ∀ n, (s.stream n).st ≠ .active ∧ (s.stream n).st ≠ .faulted
def withLandings (s : State) (en pend : BitVec 8) : State :=
  { s with b := { s.b with ctx := { s.b.ctx with landEn := en, landPend := pend } } }

/-! Control registers (R291 to R295). -/

/-- A row of R291: number, scope, levels of reading and writing, the fields written as they are and those that a written 1 clears, and
the value that hart `h`'s copy reads. -/
structure CtlReg where
  n : Nat
  scope : Scope
  read : Level
  write : Option Level
  rw : Nat
  w1c : Nat
  get : State → Hart → Word

def hartOf (s : State) (h : Hart) : HartRegs := match h with | .A => s.b.ctx.ra | .X => s.b.ctx.rx
def small {w : Nat} (x : BitVec w) : Word := BitVec.ofNat 64 x.toNat
def hartReg (n : Nat) (write : Level) (bits : Nat) (get : HartRegs → Word) : CtlReg :=
  ⟨n, .hart, .user, some write, 2 ^ bits - 1, 0, fun s h => get (hartOf s h)⟩
def aReg (n : Nat) (rw : Nat) (get : Braid → Word) : CtlReg := ⟨n, .a, .user, some .user, rw, 0, fun s _ => get s.b⟩
def sReg (n : Nat) (rw : Nat) (get : Braid → Word) : CtlReg := ⟨n, .a, .system, some .system, rw, 0, fun s _ => get s.b⟩
def xReg (n : Nat) (write : Option Level) (bits : Nat) (get : XRegs → Word) : CtlReg :=
  ⟨n, .x, .user, write, 2 ^ bits - 1, 0, fun s _ => get s.b.ctx.xc⟩

/-- R46: what a core has counted since it started, a free number of cycles for each step (log entry 6). -/
def cyclesOf (s : State) (core : Nat) : Word :=
  ((List.range' s.startTick (s.ticks - s.startTick)).map (Config.elapsed core)).sum

/-- R291's table, with the fields of R292 and of the maps it names. -/
def ctlTable : List CtlReg :=
  [hartReg 0x000 .system 12 (small ·.vl), hartReg 0x001 .system 5 (small ·.vt), aReg 0x002 3 (small ·.ctx.ac.mt),
   ⟨0x003, .braid, .user, some .system, 0xFFF, 0, fun s _ => small s.b.ctx.vcap⟩, hartReg 0x004 .system 12 (small ·.es),
   hartReg 0x005 .system 64 (·.eei), xReg 0x006 (some .system) 12 (small ·.pfl), hartReg 0x010 .user 8 (small ·.fctl),
   ⟨0x011, .hart, .user, some .user, 0, 0xFF, fun s h => small (hartOf s h).fsts⟩, hartReg 0x012 .user 64 (·.seed),
   hartReg 0x013 .system 64 (·.dord), aReg 0x014 0x01FFFFFFFFFFFFC0 (·.ctx.ac.trec), aReg 0x015 0xE7 (small ·.ctx.ac.zl),
   xReg 0x020 none 3 (small ·.mgrant)] ++
  [xReg 0x021 (some .system) 64 (·.mz), xReg 0x022 (some .system) 64 (·.mscnt), xReg 0x023 (some .system) 64 (·.mvar),
   xReg 0x024 (some .system) 64 (·.mfro), xReg 0x025 (some .user) 64 (·.mtgt), aReg 0x030 0x01FFFFFFFFFFFFC0 (·.ctx.ac.cgrp),
   aReg 0x031 7 (small ·.ctx.ac.cop), aReg 0x032 0x1FFFFF (small ·.ctx.ac.cstr),
   ⟨0x033, .a, .user, some .user, 0, 3, fun s _ => small s.b.ctx.ac.cstat⟩] ++
  [xReg 0x040 (some .user) 8 (small ·.xbase), xReg 0x041 (some .user) 32 (small ·.gdrop), xReg 0x042 (some .user) 32 (small ·.gclip),
   xReg 0x043 (some .user) 32 (small ·.gtau), xReg 0x044 (some .user) 1 (small ·.gmode), xReg 0x050 (some .user) 32 (small ·.ob1),
   xReg 0x051 (some .user) 32 (small ·.ob2), xReg 0x052 (some .user) 32 (small ·.olr), xReg 0x053 (some .user) 32 (small ·.oeps),
   xReg 0x054 (some .user) 32 (small ·.owd), xReg 0x055 (some .user) 32 (small ·.oc1), xReg 0x056 (some .user) 32 (small ·.oc2),
   aReg 0x057 (2 ^ 64 - 1) (·.ctx.ac.tstep)] ++
  [⟨0x060, .core, .user, none, 0, 0, fun s _ => cyclesOf s s.b.core⟩,
   ⟨0x061, .core, .user, none, 0, 0, fun s _ => if s.b.core < 640 then BitVec.ofNat 64 s.b.core else BitVec.allOnes 64⟩,
   ⟨0x062, .core, .user, none, 0, 0, fun s _ => BitVec.ofNat 64 (dieOf s.b.core)⟩, hartReg 0x063 .system 64 (·.lstrip),
   ⟨0x064, .module, .user, none, 0, 0, fun s _ => s.lmember⟩] ++
  [sReg 0x070 0xFF (small ·.cause), sReg 0x071 0x01FFFFFFFFFFFFFC (·.epc), sReg 0x072 0x01FFFFFFFFFFFFFC (·.tvec),
   aReg 0x073 0x01FFFFFFFFFFFFFC (·.ctx.ac.lvec), sReg 0x074 0xFE0 (small ·.status), sReg 0x080 0x00000FFFFFFF0000 (·.ctx.ac.pgroot),
   sReg 0x081 0xFFFF (small ·.ctx.ac.asn), ⟨0x082, .module, .system, some .system, 0x00000FFFFFFF0000, 0, fun s _ => s.aproot⟩,
   ⟨0x083, .module, .system, some .system, 0xFFFF, 0, fun s _ => small s.apasn⟩]

/-- The row that a number names and whose copy it is: the hart's own, or with 0x800 added the X-hart's copy of a Hart register. -/
def ctlRow (h : Hart) (n : Nat) : Option (CtlReg × Hart) :=
  match ctlTable.find? (·.n == n % 0x800) with
  | none => none
  | some r => if n < 0x800 then some (r, h) else if r.scope = .hart then some (r, .X) else none

/-- R293's checks 1 to 4: the row and the copy, or the cause and `eei`. An X-hart at system level has no register of scope A (the model's
reading). -/
def ctlAccess (s : State) (n : BitVec 12) (write : Bool) : Except (Nat × Word) (CtlReg × Hart) :=
  match ctlRow s.hart n.toNat with
  | none => .error (1, 0)
  | some (r, h) =>
    if 0x800 ≤ n.toNat ∧ s.hart = .X then .error (1, 0)
    else if 0x800 ≤ n.toNat ∧ s.b.level = .user then .error (2, small n)
    else if r.scope = .a ∧ s.hart = .X then .error (1, 0)
    else if r.scope = .x ∧ s.hart = .A ∧ s.b.level = .user then .error (1, 0)
    else if s.b.level.rank < (if write then r.write.getD r.read else r.read).rank then .error (2, small n)
    else if write = true ∧ r.write = none then .error (1, 0)
    else .ok (r, h)

/-- R294: the new value of a register, of its old value `x` and the operand `y`. -/
def ctlTable2 (r : Reg) (n : BitVec 12) : List (Instr × (CtlReg → Word → Word → Word)) :=
  let m (k : Nat) : Word := BitVec.ofNat 64 k
  [(.crw r n, fun c x y => (x &&& ~~~(m c.rw) &&& ~~~(m c.w1c &&& y)) ||| (y &&& m c.rw)), (.crs r n, fun c x y => x ||| (y &&& m c.rw)),
   (.crc r n, fun c x y => x &&& ~~~(y &&& (m c.rw ||| m c.w1c)))]

/-- R293 check 5: values that a register refuses. -/
def refused (n : Nat) (v : Word) : Prop :=
  (n = 0x001 ∧ 18 ≤ v.toNat) ∨ (n = 0x003 ∧ v.toNat ∉ [128, 256, 512, 1024, 2048]) ∨ (n = 0x010 ∧ 6 ≤ v.toNat % 8) ∨
  (n = 0x031 ∧ 5 ≤ v.toNat) ∨ (n = 0x032 ∧ v ≠ 0 ∧ (v.toNat % 128 ≠ 0 ∨ 2 ^ 20 < v.toNat)) ∨
  (n = 0x074 ∧ v.extractLsb' 10 2 = 3) ∨ ((n = 0x080 ∨ n = 0x082) ∧ v.extractLsb' 39 5 ≠ 0)
/-- R68: `es` takes a multiple of the EG size of its hart's type. -/
def kept (s : State) (c : CtlReg) (h : Hart) (v : Word) : Word :=
  if c.n = 0x004 then BitVec.ofNat 64 (v.toNat / (1024 / sewOf (hartOf s h).vt) * (1024 / sewOf (hartOf s h).vt)) else v

def bareHart (r : HartRegs) : HartRegs :=
  { r with vl := 0, vt := 0, es := 0, eei := 0, fctl := 0, fsts := 0, seed := 0, dord := 0, lstrip := 0 }
/-- The state without its control registers and what a write of `trec` or `cgrp` loads, and without the A-hart's program counters. -/
def apartFromControl (s : State) : State :=
  { s with
    aproot := 0
    apasn := 0
    b := { s.b with
      cause := 0, epc := 0, tvec := 0, status := 0, pcH := 0
      ctx := { s.b.ctx with
        ra := bareHart s.b.ctx.ra, rx := bareHart s.b.ctx.rx, ac := .init, xc := { XRegs.init with statTag := s.b.ctx.xc.statTag }
        vcap := 0, pcA := 0, bound := 0, grp := none } } }

/-- The hart has completed an instruction and stands at the next, its prefix apart. -/
def Passed (s t : State) : Prop :=
  t.hart = s.hart ∧ t.pc = s.pc + 4 ∧ t.waitOf s.hart = none ∧ t.b.count s.hart = s.b.count s.hart + 1
/-- Register `c`, of hart `h` if the harts have their own, reads `v`; every other control register reads as it did. -/
def CtlSet (s t : State) (c : CtlReg) (h : Hart) (v : Word) : Prop :=
  ∀ r ∈ ctlTable, ∀ g, r.get t g = if r.n = c.n ∧ (c.scope = .hart → g = h) then v else r.get s g

/-! The save area (R165). -/

/-- The `n` bytes at `va` lie in one translation, held where accesses in the context `x` look first, which permits loads and stores, at keys
from `base` on, apart from poison and the mailbox window. -/
def Held (s : State) (x : Xlate) (va base n : Nat) : Prop :=
  va + n ≤ 2 ^ 57 ∧ s.poison = [] ∧ (∀ off < n, base + off < windowBase ∨ windowBase + 0x10000 ≤ base + off) ∧
  ∃ e, e.pte.getLsbD 1 = true ∧ e.pte.getLsbD 2 = true ∧ (x.user = true → e.pte.getLsbD 4 = true) ∧
    ∀ off < n, s.tlbFind x (va + off) = some (e, s) ∧ keyOf e.pte.toNat e.size (va + off) = some (base + off)

/-- The area at `va` is held in the braid's own context, and no task has number 0 (tasks are numbered from 1). -/
def AreaHeld (s : State) (va base : Nat) : Prop := va % 0x10000 = 0 ∧ Held s s.ownXlate va base 0x60000 ∧ ∀ k ∈ s.tasks, k.id ≠ 0

/-- The word of the area at an offset, as `s` has it in memory. -/
def areaWord (s : State) (base off : Nat) : Nat := s.mem.read (base + off) 8
/-- `n` words from an offset on, the lowest first. -/
def areaWide (s : State) (base off : Nat) : Nat → Nat
  | 0 => 0
  | n + 1 => areaWide s base off n + areaWord s base (off + 8 * n) * 2 ^ (64 * n)

/-- R291: the context control registers in the order of the A area, and of the X area. -/
def contextA : List Nat :=
  [0x000, 0x001, 0x004, 0x005, 0x010, 0x011, 0x012, 0x013, 0x063, 0x002, 0x003, 0x014, 0x015, 0x030, 0x031, 0x032, 0x033, 0x057, 0x073,
   0x080, 0x081]
def contextX : List Nat :=
  [0x000, 0x001, 0x004, 0x005, 0x010, 0x011, 0x012, 0x013, 0x063, 0x006, 0x020, 0x021, 0x022, 0x023, 0x024, 0x025, 0x040, 0x041, 0x042,
   0x043, 0x044, 0x050, 0x051, 0x052, 0x053, 0x054, 0x055, 0x056]

/-- The rows of R165 whose places it gives, in the memory of `t`: what `c` holds, its control registers read in `r`. The two resume
addresses and the return latch stand in the order R165 names them. -/
structure AreaHolds (t : State) (base : Nat) (c : Ctx) (r : State) : Prop where
  a : ∀ i : Reg, areaWord t base (8 * i.toNat) = (c.a.get i.toFin).toNat
  shadow : ∀ i : BitVec 3, areaWord t base (0x100 + 8 * i.toNat) = (c.sh.get i.toFin).toNat
  x : ∀ i : Reg, areaWord t base (0x140 + 8 * i.toNat) = (c.x.get i.toFin).toNat
  resume : areaWord t base 0x240 = c.pcA.toNat ∧ areaWord t base 0x248 = c.pcX.toNat ∧ areaWord t base 0x250 = c.retLatch.toNat
  crA : ∀ i < 21, ∀ q ∈ ctlTable, contextA[i]? = some q.n → areaWord t base (0x800 + 8 * i) = (q.get r .A).toNat
  crX : ∀ i < 28, ∀ q ∈ ctlTable, contextX[i]? = some q.n → areaWord t base (0xA00 + 8 * i) = (q.get r .X).toNat
  masks : ∀ j : BitVec 4, j ≠ 0 → areaWide t base (0x1000 + 256 * j.toNat) 32 = (c.k.get j.toFin).toNat
  tokens : (∀ i v, c.tqa[i]? = some v → i < 32 → areaWord t base (0x4000 + 8 * i) = v.toNat) ∧
    ∀ i v, c.tqx[i]? = some v → i < 32 → areaWord t base (0x4100 + 8 * i) = v.toNat
  kq : ∀ (i : Nat) e, c.kq[i]? = some e → i < 16 → areaWide t base (0x5000 + 256 * i) 32 = e.bits.toNat
  table : ∀ (i : Nat) e, c.xt[i]? = some e → i < 256 →
    areaWord t base (0x2000 + 32 * i) = e.nsq.toNat ∧ areaWord t base (0x2008 + 32 * i) = e.loss.toNat + 2 ^ 32 * e.w.toNat ∧
    areaWord t base (0x2010 + 32 * i) = e.flags.toNat ∧ areaWord t base (0x2018 + 32 * i) = 0
  queues : ∀ (q : BitVec 2) (i : Nat) e, i < 8 →
    ((c.lq.get q.toFin)[i]? = some e → areaWide t base (0x20000 + 16384 * q.toNat + 2048 * i) 256 = e.data.toNat) ∧
    ((c.sq.get q.toFin)[i]? = some e → areaWide t base (0x30000 + 16384 * q.toNat + 2048 * i) 256 = e.data.toNat)
  accs : areaWide t base 0x40000 2048 = c.mx.acc0.data.toNat ∧ areaWide t base 0x44000 2048 = c.mx.acc1.data.toNat

/-- R167: the context of the interrupted harts as it stood at trap entry; its streams, pending landings and `cstat` have gone on (the model's
reading, log entry 50). Where no entry is on record, the context as it is with the trapping hart's resume address (R157). -/
def interrupted (s : State) : Ctx :=
  match s.b.entryCtx with
  | some c => { c with streams := s.b.ctx.streams, landPend := s.b.ctx.landPend, ac := { c.ac with cstat := s.b.ctx.ac.cstat } }
  | none => if s.b.status.getLsbD 9 then { s.b.ctx with pcX := s.b.epc } else { s.b.ctx with pcA := s.b.epc }
/-- What a save and a load of a context do first: vector stores and the scalar cache have reached memory (log entry 50). -/
def flushed (s : State) : State := (performed s).cacheFlush

/-- Queues, grants and tokens within their built depths (R22, R51), and no more than R165 gives places for. -/
def FitsArea (c : Ctx) : Prop :=
  (∀ q, (c.lq.get q).length ≤ 8 ∧ (c.sq.get q).length ≤ 8) ∧ c.tqa.length ≤ 32 ∧ c.tqx.length ≤ 32 ∧ c.kq.length ≤ 16 ∧
  c.grants.length ≤ 4 ∧ c.xt.length ≤ 256 ∧ (∀ n, ((c.streams.get n).trigs.length ≤ 4)) ∧
  (∀ p, p = c.mx.active ∨ p = c.mx.shadow → p.rows.length ≤ 4 * (rowsPerSlice p.ty).getD 1) ∧
  ∀ b, c.mx.batch = some b → b.ks.length ≤ 16 ∧ b.sig.length ≤ 16 ∧ b.bRows.length ≤ 16 ∧ b.aCols.length ≤ 16

/-- What `ctxsave` may change beside the area: the cache, emptied, vector stores, performed, and the marks. -/
def apartFromSave (s : State) : State := { apartFromMemory s with b := { (apartFromMemory s).b with hwm := .replicate 32 0, out := [] } }

/-- R69, R165, R167: after a save to `base`. -/
structure Saved (s t : State) (base : Nat) : Prop where
  holds : AreaHolds t base (interrupted s) (s.setCtx (interrupted s))
  vectors : ∀ (r : Reg) (j : Nat), j < 256 → areaWord t base (0x10000 + 2048 * r.toNat + 8 * j) =
    if j < 16 * s.b.hwm.get r.toFin then ((interrupted s).v.get r.toFin).toNat / 2 ^ (64 * j) % 2 ^ 64
    else areaWord (flushed s) base (0x10000 + 2048 * r.toNat + 8 * j)
  elsewhere : ∀ k, k < base ∨ base + 0x60000 ≤ k → t.mem.get k = (flushed s).mem.get k
  marks : t.b.hwm = .replicate 32 0
  cache : t.b.cache = [] ∧ t.b.out = []

/-- R4, R189, R294: what is reserved in a context read from an area is zero. -/
structure Masked (c : Ctx) : Prop where
  addresses : c.ac.trec &&& ~~~0x01FFFFFFFFFFFFC0 = 0 ∧ c.ac.cgrp &&& ~~~0x01FFFFFFFFFFFFC0 = 0 ∧ c.ac.lvec &&& ~~~0x01FFFFFFFFFFFFFC = 0 ∧
    c.ac.pgroot &&& ~~~0x00000FFFFFFF0000 = 0
  fields : c.ac.zl &&& 0x18 = 0 ∧ c.ac.cstat &&& 0x00FC = 0
  table : ∀ e ∈ c.xt, e.flags &&& 0xE0 = 0

/-! Events at a braid. -/

/-- The braid in focus is `b`, resident, and hart `h` is the one to move, not held at a release of its set. -/
def Acting (s : State) (b : Nat) (h : Hart) : Prop := s.b.id = b ∧ s.b.live = true ∧ s.hart = h ∧ s.heldBack = false

/-- The events that name a braid. -/
def BraidEvent (b : Nat) (i : Instr) : Prop :=
  i = .queueDeadlock b ∨ i = .takeInterrupt b ∨ i = .streamFaultTrap b ∨ i = .landingEntry b ∨ i = .forcedReleaseBuffer b ∨
  i = .forcedReleaseTimeout b ∨ i = .mwaitWake b ∨ i = .swaitWake b ∨ i = .setvlsTrimWake b ∨ i = .jobSlotWake b ∨ i = .triggerSlotWake b ∨
  i = .mattFollowerWake b ∨ i = .ctxloadSliceWake b ∨ (∃ l, i = .scalarCacheWriteback b l) ∨
  (∃ n, i = .streamElementLand b n ∨ i = .streamElementFault b n ∨ i = .streamTriggerFire b n) ∨
  (∃ h trap e, i = .uncorrectableError (.array b h trap e)) ∨
  ∃ h, i = .bwaitWake b h ∨ i = .almanacWaitWake b h ∨ i = .postStallWake b h ∨ i = .queueWaitWake b h ∨ i = .grantFifoWake b h ∨
    i = .tdoneDrainWake b h ∨ i = .fenceEngWake b h ∨ i = .idleWake b h

/-- The event ends waits of hart `h`, those that `of` holds of. -/
def Ends (b : Nat) (h : Hart) (i : Instr) (of : Wait → Prop) : Prop :=
  (i = .bwaitWake b h ∧ of = fun w => ∃ d tok, w = .barrier d tok) ∨ (i = .almanacWaitWake b h ∧ of = fun w => ∃ l n, w = .almanac l n) ∨
  (i = .postStallWake b h ∧ of = fun w => ∃ l n c, w = .post l n c) ∨
  (i = .queueWaitWake b h ∧ of = fun w => ∃ q, w = .pop q ∨ (w = .push q ∧ q ≠ .grant)) ∨
  (i = .grantFifoWake b h ∧ of = fun w => w = .push .grant) ∨ (i = .tdoneDrainWake b h ∧ of = fun w => w = .drain) ∨
  (i = .fenceEngWake b h ∧ of = fun w => w = .engines) ∨ (i = .idleWake b h ∧ of = fun w => w = .idle) ∨
  (h = .A ∧ i = .mwaitWake b ∧ of = fun w => ∃ d v o, w = .word d v o) ∨ (h = .A ∧ i = .swaitWake b ∧ of = fun w => ∃ d r t, w = .stream d r t) ∨
  (h = .A ∧ i = .setvlsTrimWake b ∧ of = fun w => ∃ d r n t, w = .trim d r n t) ∨ (h = .A ∧ i = .jobSlotWake b ∧ of = fun w => w = .jobs) ∨
  (h = .A ∧ i = .triggerSlotWake b ∧ of = fun w => ∃ n, w = .trigs n) ∨
  (h = .A ∧ i = .ctxloadSliceWake b ∧ of = fun w => ∃ n, w = .reattach n) ∨
  (h = .X ∧ i = .mattFollowerWake b ∧ of = fun w => ∃ d g, w = .slices d g)

/-- R22 to R24: a pop finds no entry, or one that is not complete; a push finds no room. -/
def popBlocked (s : State) (q : QName) : Prop :=
  let none (l : List Entry) : Prop := ∀ e r, l = e :: r → e.part ≠ .none
  match q with
  | .lq n => none (s.b.ctx.lq.get n.toFin)
  | .sq n => none (s.b.ctx.sq.get n.toFin)
  | .tqa => s.b.ctx.tqa = []
  | .tqx => s.b.ctx.tqx = []
  | .kq => s.b.ctx.kq = []
  | .grant => False
def pushBlocked (s : State) (q : QName) : Prop :=
  match q with
  | .lq n => 8 ≤ (s.b.ctx.lq.get n.toFin).length
  | .sq n => 8 ≤ (s.b.ctx.sq.get n.toFin).length
  | .tqa => 32 ≤ s.b.ctx.tqa.length
  | .tqx => 32 ≤ s.b.ctx.tqx.length
  | .kq => 16 ≤ s.b.ctx.kq.length
  | .grant => 4 ≤ s.b.ctx.grants.length

/-- The hart goes on at its waiting instruction. -/
def Retries (i : Instr) (s : State) : Prop := exec i s = .next (s.setWait none)
/-- The event ends the wait if `p`, and else changes nothing. -/
def RetriesIf (p : Prop) (i : Instr) (s : State) : Prop := (p → Retries i s) ∧ (¬ p → Idles i s)
/-! Events at a boundary (R24, R110, R112, R160). -/

/-- Hart `h` waits at a queue, and its wait cannot end. -/
def Stuck (s : State) (h : Hart) : Prop :=
  ∃ q, (s.waitOf h = some (.pop q) ∧ popBlocked s q) ∨ (s.waitOf h = some (.push q) ∧ pushBlocked s q)
/-- Stream `n` holds a fault with underlying cause `c` that no trap has reported; no lower stream does (R110). -/
def Undelivered (s : State) (n : BitVec 3) (c : Nat) : Prop :=
  (s.stream n).st = .faulted ∧ (s.stream n).fault = some c ∧ (s.stream n).told = false ∧
  ∀ m < n, ¬ ((s.stream m).st = .faulted ∧ (s.stream m).fault ≠ none ∧ (s.stream m).told = false)
/-- The interrupt that comes first of those pending (R160), taken from those pending, and from those due at a set's last release. -/
def firstIrq (s : State) : Nat := if s.b.irq35 then 35 else if s.b.irq32 then 32 else 34
def withoutIrq (s : State) : State :=
  { s with b :=
    if s.b.irq35 then { s.b with irq35 := false, due := s.b.due &&& 6 }
    else if s.b.irq32 then { s.b with irq32 := false, due := s.b.due &&& 5 }
    else { s.b with irq34 := false, due := s.b.due &&& 3 } }
/-- An interrupt is pending and `status`.ie is 1. -/
def CanInterrupt (s : State) : Prop :=
  s.b.status.getLsbD 7 = true ∧ (s.b.irq32 = true ∨ s.b.irq34 = true ∨ s.b.irq35 = true)
/-- The hart that an interrupt stops: the A-hart, or the X-hart once the A-hart has ended (the model's choice, log entry 25). -/
def stoppedBy (s : State) : Hart := if s.b.ctx.endA then .X else .A
/-- R112: the pending landing that comes first. -/
def FirstLanding (s : State) (n : BitVec 3) : Prop :=
  s.b.ctx.landPend.getLsbD n.toNat = true ∧ ∀ m < n, s.b.ctx.landPend.getLsbD m.toNat = false
def CanLand (s : State) : Prop :=
  s.sysMode = false ∧ s.b.level = .user ∧ s.b.ctx.inLand = false ∧ s.b.ctx.endA = false ∧ s.b.agreedA = false
/-- A hart waits to take a trap with its set (log entry 95); none of the braid's does. -/
def trapWaits : Option Wait → Bool
  | some (.trap _ _ _) => true
  | _ => false
abbrev NoTrapWaits (b : Braid) : Prop := trapWaits b.waitA = false ∧ trapWaits b.waitX = false
def atHart (s : State) (h : Hart) : State := { s with hart := h }

/-! The host's accesses, starts and failures. -/

def winBit (q : BitVec 6) : BitVec 64 := BitVec.ofNat 64 (2 ^ q.toNat)
/-- R256: a push is refused: its address is not aligned, the queue is full, or the module is not in service. -/
def PushRefused (s : State) (q : BitVec 6) (a : Word) : Prop := a.toNat % 256 ≠ 0 ∨ s.modState ≠ 1 ∨ QueueFull s q.toNat
/-- R256, R99: the card address held, with the table root and ASN of host pushes as they are now. -/
def withHostCard (s : State) (q : BitVec 6) (a : Word) : State :=
  { s with
    cards := s.cards ++ [{ q := q.toNat, addr := a, root := s.aproot, asn := s.apasn, parent := none, host := true, age := s.age }]
    age := s.age + 1 }
/-- R256, R259: err set, and MSI-X vector 3 as it becomes so. -/
def withErr (s : State) (q : BitVec 6) : State :=
  if s.winErr.getLsbD q.toNat then s else { s with winErr := s.winErr ||| winBit q, msix := s.msix ++ [3] }
def replied (s : State) (r : Option Nat) : State := { s with hostReplies := s.hostReplies ++ [r] }

/-- R258: the resident braid of a core that a doorbell reaches: none is of higher card priority, or of equal priority and dispatched
earlier or at once; braids of a gang being pre-empted are passed over. -/
def Rung (s : State) (core : Nat) (c : Braid) : Prop :=
  let here (d : Braid) : Prop := d.live = true ∧ d.core = core ∧ ∀ k, s.task? d.task = some k → k.st ≠ .preempting
  let rank (d : Braid) : Nat × Nat := match s.task? d.task with | some k => (k.prio0, k.started) | none => (0, 0)
  c ∈ s.braids ∧ here c ∧ ∀ d ∈ s.braids, here d → d.id ≠ c.id → (rank d).1 < (rank c).1 ∨ ((rank d).1 = (rank c).1 ∧ (rank c).2 < (rank d).2)
def NoneThere (s : State) (core : Nat) : Prop :=
  ∀ d ∈ s.braids, d.live = true → d.core = core → ∃ k, s.task? d.task = some k ∧ k.st = .preempting
def rang (s : State) (id : Nat) : State :=
  let mark (d : Braid) : Braid := if d.id = id then { d with irq34 := true } else d
  { s with b := mark s.b, rest := s.rest.map mark }

/-- R16, R160, R259: a health event: MSI-X vector 2, and interrupt 35 at the braid firmware names, with its set (log entry 33). -/
def healthy (s : State) : State :=
  let mark (d : Braid) : Braid := match s.healthTo with
    | some id => if s.together id d then { d with irq35 := true } else d
    | none => d
  { s with msix := s.msix ++ [2], b := mark s.b, rest := s.rest.map mark }

/-- R15, R16: the table names 40 distinct physical quads of each die for its logical ones, none that has failed. -/
def RemapGood (bad r : List Nat) : Prop := r.length = 160 ∧ r.Nodup ∧ ∀ q p, r[q]? = some p → p / 42 = q / 40 ∧ p ∉ bad

/-- R46, R261, R264: the module as a start leaves it, its memory apart: no braid, task, card, job, translation, chunk or element; barriers
not initialised; registers as at reset, the cores' counts at 0; the failed quads and the ageing indicators kept (log entry 58). -/
structure Emptied (s t : State) : Prop where
  braids : t.b = .init ∧ t.rest = []
  work : t.tasks = [] ∧ t.cards = [] ∧ t.jobs = [] ∧ t.sets = [] ∧ t.chunks = [] ∧ t.arrivals = [] ∧ t.xres = [] ∧ t.pend34 = []
  barriers : t.barriers = .replicate 272 ⟨0, 0, 0⟩
  tlb : t.tlb = []
  host : t.winErr = 0 ∧ t.aproot = 0 ∧ t.apasn = 0 ∧ t.apBase = 0
  quads : t.outQuads = [] ∧ t.badQuads = s.badQuads
  dram : t.dram = []
  counts : ∀ c, cyclesOf t c = 0
  ageing : t.endOfLife = s.endOfLife ∧ t.ageing = s.ageing
/-- Service entered with a report's ports, remap table and member number; without a working port there is none (R15, R18, R263, R292). -/
def Served (t : State) (r : StartReport) : Prop :=
  t.modState = 1 ∧ t.failedCold = 0 ∧ t.mustCold = false ∧ t.ports = r.ports ∧ t.remap = r.remap ∧
  t.lmember = (match r.member with | some m => if r.ports = 0 then BitVec.allOnes 64 else BitVec.ofNat 64 m.toNat | none => BitVec.allOnes 64)
/-- The keys whose bytes `t` has from `s`; the others read 0 (R93, R261: no value is stated for them). -/
def Survives (s t : State) (p : Nat → Prop) : Prop := ∀ k, (p k → t.mem.get k = s.mem.get k) ∧ (¬ p k → t.mem.get k = 0)

/-! The dispatcher and the engines. -/

/-- R355: the completion word at `va`, 0 for none, in a task's context; one that cannot be written, or is not aligned (the model's choice, log
entry 64), is lost with a health event. -/
def worded (s : State) (root : Word) (asn : BitVec 16) (va v : Nat) : State :=
  if va = 0 then s
  else if va < 2 ^ 57 ∧ va % 8 = 0 then
    match s.check ⟨none, root.toNat, asn, true⟩ 0 va 8 .store false with
    | .ok (key, t) => t.writeMem key 8 v
    | .error _ => healthy s
  else healthy s
/-- R259: MSI-X vector 0. -/
def notified (s : State) (on : Bool) : State := if on then { s with msix := s.msix ++ [0] } else s

/-- R27: `n` bits of the control word of a card. -/
def ctl (c : List Byte) (lo n : Nat) : Nat := fieldAt c 80 8 / 2 ^ lo % 2 ^ n
/-- R26, R28: the records of a card. -/
def levelRec (c : List Byte) (i : Nat) : LevelRec := ⟨fieldAt c (16 + 16 * i) 8, fieldAt c (24 + 16 * i) 4, fieldAt c (28 + 16 * i) 1⟩
def regionRec (c : List Byte) (i : Nat) : Region :=
  ⟨fieldAt c (128 + 16 * i) 8 % 2 ^ 57, fieldAt c (136 + 16 * i) 8, fieldAt c (128 + 16 * i) 8 / 2 ^ 62⟩
/-- R25 to R28, R41: the task of a card, with its launcher's domain and footprint where it inherits. -/
def taskOf (s : State) (r : CardRef) (c : List Byte) : Task :=
  let launcher := if ctl c 37 1 = 1 then r.parent.bind fun p => s.tasks.find? (·.id == p) else none
  { id := s.nextId, q := r.q, aentry := BitVec.ofNat 64 (fieldAt c 0 8), xentry := BitVec.ofNat 64 (fieldAt c 8 8)
    levels := [0, 1, 2, 3].map (levelRec c) |>.filter (·.kind != 0), xsize := ctl c 48 9, prio0 := ctl c 40 3, boost := 0, losses := 0
    inherit_ := ctl c 37 1 == 1, hostint := ctl c 36 1 == 1, check := ctl c 35 1 == 1, det := ctl c 34 1 == 1, reps := ctl c 32 2
    canon := ctl c 16 16, ncores := ctl c 0 10, cword := fieldAt c 88 8
    domain := match launcher with
      | some p => p.domain
      | none => if fieldAt c 96 8 = 0 then BitVec.ofNat 64 (2 ^ r.q) else BitVec.ofNat 64 (fieldAt c 96 8)
    regions := match launcher with
      | some p => p.regions
      | none => [0, 1, 2, 3, 4, 5, 6, 7].map (regionRec c) |>.filter (·.mode != 0)
    root := r.root, asn := r.asn, parent := r.parent, age := r.age, started := 0, st := .waiting
    loops := .replicate 16 .init, failed := none }

/-- R25 to R29: what an accepted card meets. -/
structure CardGood (c : List Byte) (k : Task) (host : Bool) : Prop where
  zero : ctl c 57 7 = 0 ∧ ctl c 43 5 = 0 ∧ ctl c 38 2 = 0 ∧ ctl c 10 6 = 0 ∧ ∀ i < 24, c.getD (104 + i) 0 = 0
  entries : fieldAt c 0 8 % 4 = 0 ∧ fieldAt c 8 8 % 4 = 0 ∧ fieldAt c 88 8 % 8 = 0
  levels : ∀ i < 4, let l := levelRec c i
    (∀ j < 3, c.getD (29 + 16 * i + j) 0 = 0) ∧
    ((l.kind = 0 ∧ l.extent = 0 ∧ l.strip = 0) ∨ ((l.kind = 1 ∨ l.kind = 2 ∨ (l.kind = 3 ∧ i = 0)) ∧ 1 ≤ l.extent ∧ l.extent ≤ 2 ^ 48 ∧ 1 ≤ l.strip))
  order : ∀ j < 4, ∀ i < j, (levelRec c i).kind = 0 → (levelRec c j).kind = 0
  ranges : 1 ≤ k.ncores ∧ k.ncores ≤ 640 ∧ 1 ≤ k.reps ∧ k.xsize ≤ 256 ∧ (k.det = true → 1 ≤ k.canon)
  footprint : k.inherit_ = false → ∀ i < 8, fieldAt c (128 + 16 * i) 8 / 2 ^ 57 % 32 = 0 ∧
    ((regionRec c i).mode ≠ 0 → 1 ≤ (regionRec c i).len ∧ (regionRec c i).len ≤ 2 ^ 57 - (regionRec c i).base)
  gang : (groupsOf k = 1 ∨ groupsOf k = 2 ∨ groupsOf k = 4) ∧ k.ncores % groupsOf k = 0 ∧ k.ncores * k.reps ≤ 640 ∧
    (k.reps = 3 → groupsOf k = 1) ∧ (k.det = true → k.canon % groupsOf k = 0) ∧
    ((∃ l ∈ k.levels, l.kind = 3) → k.ncores / groupsOf k ≤ 160)
  window : host = true → k.inherit_ = false

/-- R148: the card address that heads queue `q`, behind no task that is not dispatched. -/
def HeadCard (s : State) (q : Nat) (c : CardRef) : Prop :=
  (∀ k ∈ s.tasks, k.q = q → k.st ≠ .waiting) ∧ s.cards.find? (·.q == q) = some c
/-- The queue without the card of an age. -/
def cardGone (s : State) (c : CardRef) : State := { s with cards := s.cards.filter (·.age != c.age) }

/-- R30: two regions make an edge. -/
def edge (early late : Region) : Bool :=
  decide (early.base < late.base + late.len ∧ late.base < early.base + early.len) &&
  [(2, 1), (3, 1), (1, 2), (1, 3), (2, 2), (2, 3), (3, 2)].contains (early.mode, late.mode)
def edgeIn (early late : List Region) : Bool := early.any fun a => late.any (edge a)
/-- R41, R238: a job of task `t` has no edge against task `u`. -/
def related (t u : Task) : Bool := t.id == u.id || (t.inherit_ && (t.parent == some u.id || (u.inherit_ && u.parent == t.parent)))
def jobOpen (j : Job) : Bool := j.st == .registered || j.st == .waiting || j.st == .running
/-- R30, R148: an earlier card stands at the head of its queue, to be read now. -/
def unreadBefore (s : State) (age : Nat) : Bool :=
  s.cards.any fun c => decide (c.age < age) && (s.tasks.all fun k => k.q != c.q || k.st != .waiting) && s.cards.find? (·.q == c.q) == some c
/-- R30: an earlier card, or an earlier unfinished task or job, holds the task back; and a later one that had started before the task's card was
read (log entry 85). -/
def held (s : State) (k : Task) : Bool :=
  unreadBefore s k.age || (s.tasks.any fun u =>
    (decide (u.age < k.age) && u.st != .done || !decide (u.age < k.age) && (u.st == .running || u.st == .preempting || u.st == .preempted)) &&
    !related k u && !(u.inherit_ && u.parent == some k.id) && (u.domain &&& k.domain) != 0 && edgeIn u.regions k.regions) ||
  s.jobs.any fun j => (decide (j.age < k.age) && jobOpen j || j.st == .running) && match s.tasks.find? (·.id == j.task) with
    | some u => !related u k && (u.domain &&& k.domain) != 0 && edgeIn j.regions k.regions
    | none => false
/-- R148, R150: a task ready to be dispatched or resumed, and its current priority (R45). -/
def isReady (s : State) (k : Task) : Bool := (k.st == .waiting && !held s k) || (k.st == .preempted && k.failed == none)
def prioOf (k : Task) : Nat := min 7 (k.prio0 + k.boost)
/-- R16: no placement on the cores in service exists, were they empty. Whether there is room is the model's own test of R149. -/
def noPlace (s : State) (k : Task) : Bool := k.st == .waiting && !s.placeable (s.tasks.map (·.id)) k
def canGo (s : State) (k : Task) : Bool := isReady s k && (s.hasRoom [] k || noPlace s k)
/-- R148: the task is chosen: by current priority, then by age. -/
def IsChosen (s : State) (k : Task) : Prop :=
  s.modState = 1 ∧ canGo s k = true ∧ ∀ u ∈ s.tasks, prioOf k < prioOf u ∨ (prioOf u = prioOf k ∧ u.age < k.age) → canGo s u = false
/-- R45, R148: every other ready task has lost the decision. -/
def decided (s : State) (k : Task) : State :=
  { s with tasks := s.tasks.map fun u => if u.id != k.id && isReady s u then { u with losses := u.losses + 1 } else u }
def withTask (s : State) (id : Nat) (f : Task → Task) : State := { s with tasks := s.tasks.map fun u => if u.id = id then f u else u }
/-- R36: cores for the gang, replica after replica: of those in service with fewer than 4 resident braids; braid c of two replicas on two
dies; with a level of kind 3 each group on one die, the groups of a replica on distinct dies. -/
def Placed (s : State) (k : Task) (cores : List Nat) : Prop :=
  let at' (r c : Nat) := cores.getD (r * k.ncores + c) 0
  let per := k.ncores / groupsOf k
  cores.length = k.ncores * k.reps ∧ cores.Nodup ∧
  (∀ c ∈ cores, c < 640 ∧ c / 4 ∉ s.outQuads ∧ (s.braids.filter fun b => b.live && b.core == c).length < 4) ∧
  (∀ c < k.ncores, ∀ r < k.reps, ∀ r' < r, at' r c / 160 ≠ at' r' c / 160) ∧
  ((∃ l ∈ k.levels, l.kind = 3) → (∀ r < k.reps, ∀ c < k.ncores, at' r c / 160 = at' r (c / per * per) / 160) ∧
    (∀ r < k.reps, ∀ g < groupsOf k, ∀ g' < g, at' r (g * per) / 160 ≠ at' r (g' * per) / 160))
/-- R166: a braid at dispatch; its first checkpoint is its start (R244). What a card sets in bits [63:57] of an entry stays (the model's choice,
log entry 63): the hart's first fetch raises cause 6 (R97). -/
def fresh (k : Task) (id core idx rep : Nat) : Braid :=
  let c : Ctx := { Ctx.init with
    ac := { ARegs.init with pgroot := k.root, asn := k.asn }, pcA := k.aentry, pcX := k.xentry
    xt := .replicate k.xsize .init }
  ({ Braid.init with ctx := c, id := id, live := true, core := core, task := k.id, idx := idx, rep := rep } : Braid).checkpoint
/-- R258: interrupts pending at cores reach the braids that arrive there, and what stands in one set with them (log entry 33). -/
def arrived (s : State) (l : List (Nat × Nat)) : State :=
  let mark (b : Braid) : Braid :=
    if l.any fun p => s.pend34.contains p.2 && (b.id == p.1 || s.sets.any fun r => r.members.any (·.1 == p.1) && r.members.any (·.1 == b.id))
    then { b with irq34 := true } else b
  { s with b := mark s.b, rest := s.rest.map mark, pend34 := s.pend34.filter fun c => !(l.any (·.2 == c)) }
/-- R36, R166, R241: the gang of a task on its cores. -/
def dispatched (s : State) (k : Task) (cores : List Nat) : State :=
  let s := withTask s k.id fun u => { u with st := .running, started := s.age }
  let new := (List.range cores.length).map fun i => fresh k (s.nextId + i) (cores.getD i 0) (i % k.ncores) (i / k.ncores)
  let sets := (List.range k.ncores).map fun c =>
    ({ task := k.id, idx := c, members := (List.range k.reps).map fun r => (s.nextId + r * k.ncores + c, r)
       leader := 0, rel := 0, degraded := false, failed := [], logA := [], logX := [], pairs := [], trims := [], logF := [], stop := none
       count0 := k.reps, deg0 := false } : RSet)
  arrived { s with rest := s.rest ++ new, sets := s.sets ++ (if 2 ≤ k.reps then sets else []), nextId := s.nextId + cores.length, age := s.age + 1 }
    (new.map fun b => (b.id, b.core))

/-- R150: the order in which gangs are pre-empted. -/
def victimFirst (u v : Task) : Prop := u.prio0 < v.prio0 ∨ (u.prio0 = v.prio0 ∧ v.started < u.started)
/-- R150: the gangs that a task may pre-empt, in that order. -/
def Eligible (s : State) (k : Task) (l : List Task) : Prop :=
  l.Perm (s.tasks.filter fun u => u.st == .running && decide (u.prio0 < prioOf k)) ∧ l.Pairwise victimFirst
def idsOf (l : List Task) : List Nat := (l.map (·.id)).reverse

/-- R165, R168: rows of the area that the context of a resumed braid comes from. -/
structure AreaGives (s : State) (base : Nat) (c : Ctx) : Prop where
  zeros : c.a.get 0 = 0 ∧ c.x.get 0 = 0 ∧ c.k.get 0 = 0
  scalar : ∀ i : Reg, i ≠ 0 →
    (c.a.get i.toFin).toNat = areaWord s base (8 * i.toNat) ∧ (c.x.get i.toFin).toNat = areaWord s base (0x140 + 8 * i.toNat)
  shadow : ∀ i : BitVec 3, (c.sh.get i.toFin).toNat = areaWord s base (0x100 + 8 * i.toNat)
  resume : c.pcA.toNat = areaWord s base 0x240 ∧ c.pcX.toNat = areaWord s base 0x248 ∧ c.retLatch.toNat = areaWord s base 0x250
  vectors : ∀ i : Reg, (c.v.get i.toFin).toNat = areaWide s base (0x10000 + 2048 * i.toNat) 256
  masks : ∀ i : BitVec 4, i ≠ 0 → (c.k.get i.toFin).toNat = areaWide s base (0x1000 + 256 * i.toNat) 32
  accs : c.mx.acc0.data.toNat = areaWide s base 0x40000 2048 ∧ c.mx.acc1.data.toNat = areaWide s base 0x44000 2048
  slices : c.xc.mgrant.toNat = areaWord s base 0xA50

/-- R44: nothing of the task is left: no braid resident or saved, no vector store to perform, no unfinished owned job or inheriting child, none
among the cards. -/
def IsOver (s : State) (k : Task) : Prop :=
  k.st ≠ .waiting ∧ k.st ≠ .done ∧ (∀ b ∈ s.braids, b.task = k.id → b.live = false ∧ b.left = false ∧ b.out = []) ∧
  (∀ j ∈ s.jobs, j.task = k.id → fieldAt j.card 1 1 % 2 = 1 → jobOpen j = false) ∧
  (∀ u ∈ s.tasks, u.parent = some k.id → u.inherit_ = true → u.st = .done) ∧
  ∀ c ∈ s.cards, c.parent = some k.id → s.cardInherits c = false

/-- R30, R238: an earlier card, or an earlier unfinished task or job, holds the job back. -/
def jobHeld (s : State) (j : Job) : Bool :=
  match s.tasks.find? (·.id == j.task) with
  | none => false
  | some t =>
    unreadBefore s j.age || (s.tasks.any fun u => decide (u.age < j.age) && u.st != .done && !related t u && (u.domain &&& t.domain) != 0 && edgeIn u.regions j.regions) ||
    s.jobs.any fun i => decide (i.age < j.age) && jobOpen i && match s.tasks.find? (·.id == i.task) with
      | some u => (u.domain &&& t.domain) != 0 && edgeIn i.regions j.regions
      | none => false
/-- R11, R238: a job that can start; of class 1 eight run at a time. -/
def startsNow (s : State) (j : Job) : Bool :=
  j.st == .waiting && !jobHeld s j && (j.cls == 0 || decide ((s.jobs.filter fun i => i.st == .running && i.cls == j.cls).length < 8))
def JobAt (s : State) (id : Nat) (j : Job) : Prop := s.jobs.find? (·.id == id) = some j
def withJobs (s : State) (id : Nat) (f : Job → Job) : State := { s with jobs := s.jobs.map fun i => if i.id = id then f i else i }
/-- R44, R238: the job ends: its completion word in its task's context, then its state. -/
def jobEnded (s : State) (j : Job) (c : Nat) : State :=
  let r := match s.tasks.find? (·.id == j.task) with | some k => (k.root, k.asn) | none => (j.root, j.asn)
  withJobs (worded s r.1 r.2 (fieldAt j.card 40 8) (if c = 0 then 1 else 256 * c + 3)) j.id fun i =>
    { i with st := if c = 0 then .completed else .failed, cause := c }

/-- The `n` bytes at `va` are held in a job's context, and its task asks for no footprint check. -/
def JobHolds (s : State) (j : Job) (va base n : Nat) : Prop :=
  va % 8 = 0 ∧ base % 8 = 0 ∧ Held s ⟨none, j.root.toNat, j.asn, true⟩ va base n ∧ ∀ k, s.tasks.find? (·.id == j.task) = some k → k.check = false
/-- Two ranges of keys have no byte in common. -/
def Apart (a n b m : Nat) : Prop := a + n ≤ b ∨ b + m ≤ a

/-- R233: a state with all its bits local: `n` qubits of type `ty`, `map[q]` the physical bit of qubit `q`, its header's bytes `hd`. -/
structure LocalState (s : State) (hk : Nat) (hd : List Byte) (n ty : Nat) (map : List Nat) : Prop where
  bytes : ∀ i < 16, s.mem.read (hk + 8 * i) 8 = fieldAt hd (8 * i) 8
  len : hd.length = 128
  ok : Header.ok hd 0 = true
  fields : fieldAt hd 0 1 = n ∧ fieldAt hd 1 1 = ty ∧ fieldAt hd 2 1 = 0 ∧ fieldAt hd 3 1 = 0
  perm : map = (List.range n).map fun q => fieldAt hd (8 + q) 1
/-- Bytes of an amplitude, and the amplitude at a physical index. -/
def ampSize (ty : Nat) : Nat := if ty = 16 then 8 else 16
def ampAt (s : State) (hk ty p : Nat) : Nat := s.mem.read (hk + 4096 + p * ampSize ty) (ampSize ty)

/-- R239: an amplitude's parts; a complex number rounded to nearest even; one output of a group. -/
def ampFmt (ty : Nat) : Fmt := if ty = 16 then .f32 else .f64
def ampRe (ty c : Nat) : FVal := (ampFmt ty).decode (c % 2 ^ (4 * ampSize ty))
def ampIm (ty c : Nat) : FVal := (ampFmt ty).decode (c / 2 ^ (4 * ampSize ty))
def roundedC (ty : Nat) (re im : FVal) : Nat := ((ampFmt ty).round .rne re).1 + ((ampFmt ty).round .rne im).1 * 2 ^ (4 * ampSize ty)
def total : List FVal → FVal
  | [] => .zero
  | x :: r => r.foldl (FVal.add false) x
def rowTimes (ty : Nat) (row ins : List Nat) : Nat :=
  if ins.any fun c => (ampRe ty c).isNan || (ampIm ty c).isNan then roundedC ty .nan .nan
  else
    let p := row.zip ins
    roundedC ty
      (total (p.flatMap fun (u, x) => [(ampRe ty u).mul (ampRe ty x), ((ampIm ty u).mul (ampIm ty x)).negate]))
      (total (p.flatMap fun (u, x) => [(ampRe ty u).mul (ampIm ty x), (ampIm ty u).mul (ampRe ty x)]))
/-- The number that the bits `bits` of an index spell, the first lowest; the index with those bits made to spell `c`. -/
def spelt (bits : List Nat) (p : Nat) : Nat := bits.foldr (fun b v => (if p.testBit b then 1 else 0) + 2 * v) 0
def withSpelt (bits : List Nat) (p c : Nat) : Nat :=
  bits.zipIdx.foldl (fun v b => if v.testBit b.1 = c.testBit b.2 then v else v ^^^ 2 ^ b.1) p

/-! Streams as they run, the fabric, and releases of replica sets. -/

/-- R105, R217: the end of a stream lies at another member: in the fabric space, with another owner. -/
def elsewhere (s : State) (t : Stream) (space : BitVec 2) (va : Nat) : Bool :=
  space == 3 && match t.grp with
    | some g => g.members.getD (va / t.stride % g.members.length) 0 != s.lmember.toNat
    | none => 0 != s.lmember.toNat
/-- R55, R56, R103, R105: where `n` bytes of a stream's end lie at this module: in memory, in its own pool or in a pool of its die. -/
def endAt (s : State) (space : BitVec 2) (va n : Nat) (k : Kind) : Except Nat (Nat × State) :=
  let pool (key : Nat) : Except Nat (Nat × State) := if s.poisonHit key n k then .error 7 else .ok (key, s)
  match space.toNat with
  | 1 => pool (2 ^ 45 + 2 ^ 20 * s.b.core + va)
  | 2 => pool (2 ^ 45 + 2 ^ 20 * (dieOf s.b.core * 160 + va / 2 ^ 20) + va % 2 ^ 20)
  | _ => s.access ⟨none, s.b.ctx.ac.pgroot.toNat, s.b.ctx.ac.asn, true⟩ s.b.task va n k false
/-- R106, R110: the element of `n` bytes read at `va`: its value and the state after, or the cause that stops it. What another member gives is
free (log entry 20), a cause of R110. -/
def Fetches (s : State) (t : Stream) (va n : Nat) (r : Except Nat (Nat × State)) : Prop :=
  if elsewhere s t t.sx va then
    if Config.remoteFails (s.free + n) then ∃ c, c ∈ [4, 6, 7, 14] ∧ r = .error c
    else r = .ok ((s.remoteRead n).2.1, { s with free := s.free + n + 1 })
  else match endAt s t.sx va n .load with
    | .error c => r = .error c
    | .ok (key, u) => r = .ok (u.mem.read key n, u)
/-- R106, R110: the element written at `va`, here or sent as a plain store, or the cause that stops it; cause 6 if no port works (log entry
62). -/
def Writes (s : State) (t : Stream) (va n v : Nat) (r : Except Nat State) : Prop :=
  if elsewhere s t t.sy va then
    if Config.remoteFails s.free then ∃ c, c ∈ [5, 6, 7, 14] ∧ r = .error c
    else if s.ports = 0 then r = .error 6
    else ∃ (p : Nat) (e : FabElem), carrier s (va % 2 ^ 64 / t.stride) = some p ∧
      r = .ok { s with fabOut := s.fabOut ++ [(p, e)], free := s.free + 1 } ∧ e.op = 0 ∧ e.va.toNat = va % 2 ^ 64 ∧ e.size = n ∧
      e.data = v ∧ e.ty = t.ty ∧ e.stride = t.stride ∧ ∀ g, t.grp = some g → e.members = g.members
  else match endAt s t.sy va n .store with
    | .error c => r = .error c
    | .ok (key, u) => r = .ok (u.writeMem key n v)

/-- R217: the element comes from another member of its group, and this module is its owner. -/
def FromOther (s : State) (e : FabElem) : Prop :=
  let owner := e.members.getD (e.va.toNat / e.stride % e.members.length) 0
  e.stride ≠ 0 ∧ owner = s.lmember.toNat ∧ e.rank < e.members.length ∧ e.members.getD e.rank 0 ≠ s.lmember.toNat
/-- The task whose footprint another member's element meets here, 0 for none (the model's choice, log entry 77): that of a braid with the
element's group latched, in its context. -/
def hostTask (s : State) (e : FabElem) : Nat :=
  ((s.braids.find? fun b => decide (b.live = true ∧ b.ctx.grp = some ⟨e.arr, e.w64, e.status, e.members⟩ ∧ b.ctx.ac.pgroot = e.root ∧
    b.ctx.ac.asn = e.asn)).map Braid.task).getD 0
/-- R103, R218: where another member's element lies here, or its cause: without poison, and with it. -/
def homeCheck (s : State) (e : FabElem) (k : Kind) : Except Nat (Nat × State) :=
  s.check ⟨none, e.root.toNat, e.asn, true⟩ (hostTask s e) e.va.toNat e.size k false
def homeReach (s : State) (e : FabElem) : Except Nat (Nat × State) :=
  s.access ⟨none, e.root.toNat, e.asn, true⟩ (hostTask s e) e.va.toNat e.size .store false

/-- The chunk's number, group and status record are those of the element (R217, R219). -/
def chunkFor (e : FabElem) (c : Chunk) : Bool := c.q == e.va.toNat / e.stride && c.members == e.members && c.status == e.status
/-- R219: the chunk that an element at die `die` belongs to: the open one, the next round of a closed one, or a first round. -/
def chunkOf (s : State) (die : Nat) (e : FabElem) : Chunk :=
  let first (rounds : Nat) (dead : Bool) : Chunk := {
    q := e.va.toNat / e.stride, die := die, op := e.op, ty := e.ty, stride := e.stride, arr := e.arr, w64 := e.w64, status := e.status
    members := e.members, root := e.root, asn := e.asn, slots := [], order := [], isOpen := true, rounds := rounds, dead := dead }
  match s.chunks.find? (chunkFor e) with
  | some c => if c.isOpen then c else first c.rounds c.dead
  | none => first 0 false
/-- R220: the chunk is open already, or fewer than 16 of the group are open at the die. -/
def Opens (s : State) (die : Nat) (e : FabElem) : Prop :=
  (∃ c, s.chunks.find? (chunkFor e) = some c ∧ c.isOpen = true) ∨
  (s.chunks.filter fun d => d.isOpen && d.die == die && d.members == e.members && d.status == e.status).length < 16
/-- R224: a member of the element's group is lost. -/
def GroupLost (s : State) (e : FabElem) : Prop := ∃ m ∈ s.lost, m.toNat ∈ e.members
/-- The element has no room: it is a contribution to a chunk that can take elements and cannot open (R220). -/
def NoRoom (s : State) (die : Nat) (e : FabElem) : Prop :=
  e.op ≠ 0 ∧ (chunkOf s die e).dead = false ∧ ¬ GroupLost s e ∧ ¬ Opens s die e
/-- Bytes that rank `r` has delivered. -/
def deliveredBy (c : Chunk) (r : Nat) : Nat := ((c.slots.filter (·.1 == r)).map (·.2.2.2)).foldl (· + ·) 0
/-- R219: the chunk with the element in its slot, in place of an earlier one there; a slot now full joins the order of completion. -/
def withSlot (c : Chunk) (e : FabElem) : Chunk :=
  let off := e.va.toNat % e.stride
  let x := (e.rank, off, e.data, e.size)
  let here (y : Nat × Nat × Nat × Nat) : Bool := decide (y.1 = e.rank ∧ y.2.1 = off)
  let d := { c with slots := if c.slots.any here then c.slots.map fun y => if here y then x else y else c.slots ++ [x] }
  if deliveredBy d e.rank = c.stride ∧ e.rank ∉ c.order then { d with order := c.order ++ [e.rank] } else d
/-- R219: every slot is full; for copy, every byte has come from some rank (log entry 26). -/
def isFull (c : Chunk) : Bool := if c.op = 4 then c.covered == c.stride else c.order.length == c.members.length

/-- R221: a sum rounded to nearest even in the wire format, and whether a node so far overflowed. -/
def plus (w : Fmt) (x y : FVal × Bool) : FVal × Bool :=
  let r := w.round .rne (x.1.add false y.1)
  (w.decode r.1, x.2 || y.2 || r.2.getLsbD 2)
def pairUp (w : Fmt) : List (FVal × Bool) → List (FVal × Bool)
  | a :: b :: r => plus w a b :: pairUp w r
  | l => l
/-- R221: the sums of the nodes of eight ranks, each as a tree of three levels. -/
def nodes (w : Fmt) (l : List (FVal × Bool)) : List (FVal × Bool) :=
  (List.range ((l.length + 7) / 8)).flatMap fun n => pairUp w (pairUp w (pairUp w ((l.drop (8 * n)).take 8)))
def inTurn (w : Fmt) : List (FVal × Bool) → FVal × Bool
  | [] => (.zero, false)
  | x :: r => r.foldl (plus w) x
/-- R219: what rank `r` delivered at an offset. -/
def givenBy (c : Chunk) (off r : Nat) : Option Nat := (c.slots.find? fun x => x.1 == r && x.2.1 == off).map (·.2.2.1)
/-- The canonical NaN of a type (R73, R74); of a block the scale is 0xFF, and its other bytes are free (the model's choice, log entry 100). -/
def canonicalNan (ty : BitVec 5) : Nat :=
  if isBlock ty then 255 + 256 * (Config.nanBlock 0 []).toNat
  else match fmtOf ty with
    | some g => (g.round .rne .nan).1 * (if isComplex ty then 1 + 2 ^ (sewOf ty / 2) else 1)
    | none => 0
/-- R219, R221, R222: an element of a full chunk, and whether a sum overflowed; every rank has delivered it, or for copy some rank. A NaN makes
it the canonical one. -/
def chunkElem (c : Chunk) (off : Nat) : Nat × Bool :=
  let ranks := List.range c.members.length
  let xs := ranks.filterMap (givenBy c off)
  let w := if c.w64 then Fmt.f64 else .f32
  if c.op = 4 then (if xs.any (nanElem c.ty) then canonicalNan c.ty else xs.headD 0, false)
  else match fmtOf c.ty with
    | none =>
      let f (a b : Int) : Int := if c.op = 1 then a + b else if c.op = 2 then max a b else min a b
      (((match xs.map (intVal c.ty) with | [] => 0 | x :: r => r.foldl f x) % 2 ^ sewOf c.ty).toNat, false)
    | some g =>
      let sent (x : Nat) : FVal × Bool := (w.decode (w.round .rne (g.decode x)).1, false)
      if c.op = 1 then
        let t := if c.arr then inTurn w (c.order.filterMap fun r => (givenBy c off r).map sent) else inTurn w (nodes w (xs.map sent))
        ((g.round .rne t.1).1, t.2)
      else
        let f (a b : FVal) : FVal := if a.isNan || b.isNan then .nan else if c.op = 2 then a.max b else a.min b
        ((g.round .rne (match xs.map g.decode with | [] => .zero | x :: r => r.foldl f x)).1, false)
/-- R223: word 0 of a status record: the round, NaN elements, w64, arr, OVF and the state. -/
def statusWord (c : Chunk) (state nans : Nat) (ovf : Bool) : Nat :=
  (c.rounds + 1) % 2 ^ 16 * 2 ^ 48 + nans % 2 ^ 24 * 2 ^ 24 + c.w64.toNat * 2 ^ 11 + c.arr.toNat * 2 ^ 10 + ovf.toNat * 2 ^ 9 + state
/-- What the completion of a chunk may change: memory and what hangs on it, results on their way, translations, and the chunks. -/
def apartFromBank (s : State) : State := { s with mem := [], dram := [], poison := [], tlb := [], msix := [], chunks := [], xres := [] }
/-- R219, R223, R224: the chunk closed for its next round, its status record written at `sk`; other bytes are as they were. -/
structure Closed (s t : State) (c : Chunk) (sk state nans : Nat) (ovf dead : Bool) : Prop where
  bank : t.chunks = (s.chunks.filter fun d => !(d.q == c.q && d.members == c.members && d.status == c.status)) ++
    [{ c with slots := [], order := [], isOpen := false, rounds := c.rounds + 1, dead := dead }]
  word : t.mem.read sk 8 = statusWord c state nans ovf
  mask : c.members.length ≤ 256 → ∀ r < c.members.length,
    (t.mem.read (sk + 8 + 8 * (r / 64)) 8).testBit (r % 64) = decide (deliveredBy c r = c.stride)
  others : ∀ k, (k < sk ∨ sk + 40 ≤ k) → t.mem.get k = s.mem.get k
  apart : apartFromBank t = apartFromBank s
/-- The status record, and the destination, of a chunk are held in its group's context (log entry 31). -/
def RecordHeld (s : State) (c : Chunk) (sk : Nat) : Prop :=
  Held s ⟨none, c.root.toNat, c.asn, false⟩ (c.status.toNat + 64 * (c.q / c.members.length)) sk 40 ∧ ∀ k ∈ s.tasks, k.id ≠ 0
def HomeHeld (s : State) (c : Chunk) (dk : Nat) : Prop := Held s ⟨none, c.root.toNat, c.asn, false⟩ (c.q * c.stride) dk c.stride
/-- R130, R219 to R223: the element has filled its slot of `c`: the chunk stays open, or it is full and completes, its results on their way to
memory. -/
def Taken (s : State) (c : Chunk) (e : FabElem) (t : State) : Prop :=
  let d := withSlot c e
  (isFull d = false → t = { s with chunks := s.chunks.filter (!chunkFor e ·) ++ [d] }) ∧
  (isFull d = true → ∀ dk sk, RecordHeld s d sk → HomeHeld s d dk → d.members ≠ [] → d.stride % (sewOf d.ty / 8) = 0 →
    (∀ i < d.stride / (sewOf d.ty / 8), let off := i * (sewOf d.ty / 8)
      (∃ r < d.members.length, givenBy d off r ≠ none) ∧ (d.op ≠ 4 → ∀ r < d.members.length, givenBy d off r ≠ none)) →
    let size := sewOf d.ty / 8
    let elems := (List.range (d.stride / size)).map fun i => chunkElem d (i * size)
    Closed s t d sk 1 (elems.countP fun x => nanElem d.ty x.1) (elems.any (·.2)) false ∧
    t.xres = s.xres ++ (List.range (d.stride / size)).map fun i => (dk + i * size, size, (chunkElem d (i * size)).1))

/-- R216, R224: LOST, with the first member number kept. -/
def lostIn (m : BitVec 8) (c : BitVec 16) : BitVec 16 := if c.getLsbD 0 then c else m ++ (c.setWidth 8 ||| (1 : BitVec 8))
/-- R224: braids' `cstat`, and R240: running jobs on states that span members, after the loss of member `m`. -/
def afterLoss (s : State) (m : BitVec 8) : State :=
  let mark (b : Braid) : Braid := match b.ctx.grp with
    | some g => if m.toNat ∈ g.members then { b with ctx := { b.ctx with ac := { b.ctx.ac with cstat := lostIn m b.ctx.ac.cstat } } } else b
    | none => b
  { s with
    lost := if m ∈ s.lost then s.lost else s.lost ++ [m], b := mark s.b, rest := s.rest.map mark
    jobs := s.jobs.map fun j => match j.grp with
      | some g => if j.st = .running ∧ j.cause = 0 ∧ 0 < j.mbits ∧ m.toNat ∈ g.members then { j with cause := 6 } else j
      | none => j }

/-- R241: the braid belongs to the set. -/
def inSet (r : RSet) (b : Braid) : Bool := r.task == b.task && r.idx == b.idx && r.members.any (·.1 == b.id)
def membersOf (s : State) (r : RSet) : List Braid := s.braids.filter (inSet r)
/-- Where a member stands with a hart (R67, R245): instructions retired, and how far it is inside the next. -/
def placeA (b : Braid) : Pos := ⟨b.retA, b.ctx.ra.es.toNat, b.memDone⟩
def placeX (b : Braid) : Pos := ⟨b.retX, b.ctx.rx.es.toNat, 0⟩
abbrev Beyond (p q : Pos) : Prop := q.count < p.count ∨ q.count = p.count ∧ (q.es < p.es ∨ q.es = p.es ∧ q.done < p.done)
/-- A member stands there, and none beyond it. -/
abbrev Furthest (f : Braid → Pos) (l : List Braid) (p : Pos) : Prop := (∃ b ∈ l, f b = p) ∧ ∀ b ∈ l, ¬ Beyond (f b) p
/-- R245, R246: the X-hart has run to the furthest place of a member, or stopped before it: at a release point, in a trap, or in the handler. -/
abbrev XStopped (l : List Braid) (b : Braid) : Prop :=
  Furthest placeX l (placeX b) ∨ (b.waitX = some .release ∧ b.agreedX = false) ∨ b.waitX = some .forced ∨ trapWaits b.waitX = true ∨
    b.status.getLsbD 5 = true
/-- R246: every member waits for room in its buffer at one point. -/
abbrev BuffersFull (l : List Braid) : Prop :=
  l ≠ [] ∧ ∀ b ∈ l, b.waitA = some .forced ∧ (∀ c ∈ l, placeA c = placeA b) ∧ XStopped l b
/-- R151, R246: every member stands at one point with both harts, inside no element group, and none at a release. -/
abbrev AtOnePoint (l : List Braid) : Prop :=
  l ≠ [] ∧ ∀ b ∈ l, b.atRel = none ∧ b.memDone = 0 ∧ ∀ c ∈ l, placeA c = placeA b ∧ placeX c = placeX b
/-- R245: every member has brought its A-hart to a release point. -/
abbrev AllReleasing (l : List Braid) : Prop := l ≠ [] ∧ ∀ b ∈ l, b.atRel = some .A ∧ XStopped l b
/-- The two signatures of a braid's harts (R243). -/
def signatures (b : Braid) : Word × Word := (b.crcA, b.crcX)
/-- The byte that the youngest of the elements writes at a key, else `old`. -/
def lastByte (l : List BufItem) (key : Nat) (old : Byte) : Byte :=
  match l.reverse.find? fun i => decide (i.key ≤ key ∧ key < i.key + i.size) with
  | some i => BitVec.ofNat 8 (i.data / 256 ^ (key - i.key))
  | none => old
/-- The set `r` (and what has its task and index) changed by `f`. -/
def SetsBy (s t : State) (r : RSet) (f : RSet → RSet) : Prop :=
  t.sets = s.sets.map fun x => if x.task = r.task ∧ x.idx = r.idx then f x else x
/-- R110, R247: the leader's lowest stream with a fault that no trap has reported, outside the handler: the set takes it at this release (log
entry 34). -/
def faultOf (lead : Braid) : Option (BitVec 3) :=
  if lead.status.getLsbD 5 then none
  else ([0, 1, 2, 3, 4, 5, 6, 7] : List (BitVec 3)).find? fun n =>
    let t := lead.ctx.streams.get n.toFin
    decide (t.st = .faulted ∧ t.fault ≠ none ∧ t.told = false)
/-- The leader's streams with that fault reported, and the record of it. -/
def toldStreams (lead : Braid) : Vector Stream 8 :=
  match faultOf lead with
  | some n => lead.ctx.streams.set n.toNat { lead.ctx.streams.get n.toFin with told := true } n.isLt
  | none => lead.ctx.streams
/-- R151, R160, R163, R319: the instructions that the leader's hart completes before what is pending at a release is taken: the one whose
release point it is, an `idle` that an interrupt ends, or an `mwait` that 32 ends. -/
def goesOn (lead : Braid) (o : Option Hart) (h : Hart) : Nat :=
  let ends : Bool := match (match h with | .A => lead.waitA | .X => lead.waitX) with
    | some .idle => lead.irq32 || lead.irq34 || lead.irq35
    | some (.word _ _ _) => lead.irq32 && lead.status.getLsbD 7
    | _ => false
  if o = some h ∨ ends = true then 1 else 0
def faultLog (lead : Braid) (o : Option Hart) : List FaultRec :=
  match faultOf lead with
  | some n => [⟨lead.retA + goesOn lead o .A, n, (lead.ctx.streams.get n.toFin).fault.getD 0, (lead.ctx.streams.get n.toFin).ctr⟩]
  | none => []
/-- R248: values that some member has not used yet stay; a failed comparison that the set has not come to again stays. -/
def leastOf (f : Braid → Nat) (l : List Braid) : Nat := ((l.map f).min?).getD 0
def notPassed (lead : Braid) (f : Hart × Pos) : Bool :=
  let p := match f.1 with | .A => placeA lead | .X => placeX lead
  decide (p.count < f.2.count ∨ p.count = f.2.count ∧ (p.es < f.2.es ∨ p.es = f.2.es ∧ p.done < f.2.done))
/-- R245, R246, R248, R252: a release, at the release point of hart `o` or forced: the leader's stores in memory, once, poison gone from the words
they write whole; each member with its signatures 0, its buffer empty, a checkpoint and its wait for room ended; what is pending fixed, to be
taken where the harts stand or after the instruction they wait in; the release counted. The buffers hold elements of global memory, which lies in this module. -/
structure Agreed (s t : State) (r : RSet) (lead : Braid) (o : Option Hart) : Prop where
  memory : ∀ key, t.mem.get key = lastByte lead.buf key (s.mem.get key)
  poison : ∀ w, w ∈ t.poison ↔ w ∈ s.poison ∧ ∃ i < 8, ∀ x ∈ lead.buf, 8 * w + i < x.key ∨ x.key + x.size ≤ 8 * w + i
  set : SetsBy s t r fun x => { x with
    rel := x.rel + 1, failed := x.failed.filter (notPassed lead)
    logA := x.logA.drop (leastOf Braid.fwdA (membersOf s r)), logX := x.logX.drop (leastOf Braid.fwdX (membersOf s r))
    pairs := x.pairs.filter fun p => decide (min lead.pairsA lead.pairsX ≤ p.1)
    trims := x.trims.filter fun p => decide (min lead.pairsA lead.pairsX ≤ p.1)
    logF := x.logF.drop lead.fwdF ++ faultLog lead o, stop := if lead.memDone = 0 ∨ o = some .A then none else x.stop
    count0 := x.members.length, deg0 := x.degraded }
  members : ∀ b ∈ membersOf t r, b.crcA = 0 ∧ b.crcX = 0 ∧ b.buf = [] ∧ b.atRel = none ∧ b.waitA ≠ some .forced ∧
    (o = some .A → b.agreedA = true ∧ b.waitA ≠ some .release) ∧ b.chk = b.checkpoint.chk ∧ b.fwdA = 0 ∧ b.fwdX = 0 ∧ b.fwdF = 0 ∧
    b.posA = b.retA + goesOn lead o .A ∧ b.posX = b.retX + goesOn lead o .X ∧ b.landAt = b.posA ∧ b.ctx.streams = toldStreams lead ∧
    ∃ c ∈ membersOf s r, c.id = b.id ∧ b.ctx.a = c.ctx.a ∧ b.ctx.x = c.ctx.x ∧ b.ctx.v = c.ctx.v ∧ b.retA = c.retA ∧ b.retX = c.retX ∧
      b.ctx.landPend = lead.ctx.landPend &&& c.ctx.landEn ∧
      (c.memDone = 0 ∨ o = some .A → b.due = c.irqs ∧ b.landDue = b.ctx.landPend) ∧
      (c.memDone ≠ 0 → o ≠ some .A → b.due = 0 ∧ b.landDue = 0)
/-- R250, R251, R252: member `x` is outvoted: it takes cause 13 and leaves; the set goes on degraded, with the stores of its leader, the old one
or its lowest member left. -/
structure Outvoted (s t : State) (r : RSet) (x y z : Braid) : Prop where
  set : ∃ q ∈ t.sets, q.task = r.task ∧ q.idx = r.idx ∧ q.members = r.members.filter (fun m => m.1 != x.id) ∧ q.degraded = true ∧
    q.leader = (if r.leader = x.rep then min y.rep z.rep else r.leader) ∧ q.rel = r.rel + 1
  memory : ∀ lead, (lead = y ∨ lead = z) → lead.rep = (if r.leader = x.rep then min y.rep z.rep else r.leader) →
    ∀ key, t.mem.get key = lastByte lead.buf key (s.mem.get key)
  gone : ∀ b ∈ t.braids, b.id = x.id → b.cause = 13 ∧ b.level = .system ∧ b.buf = [] ∧ b.atRel = none ∧
    (∀ n : BitVec 3, (b.ctx.streams.get n.toFin).st ≠ .active) ∧ b.ctx.ra.eei = BitVec.ofNat 64 (x.rep * 2 ^ 34 +
      (if x.crcA ≠ y.crcA then 2 ^ 32 else 0) + (if x.crcX ≠ y.crcX then 2 ^ 33 else 0) + r.rel % 2 ^ 32)
  left : ∀ b ∈ t.braids, b.id = y.id ∨ b.id = z.id → b.crcA = 0 ∧ b.crcX = 0 ∧ b.buf = [] ∧ b.waitA ≠ some .forced
  health : 2 ∈ t.msix
/-- R164, R249: each member is back at its checkpoint, in the handler or out of it as it then was, with its grant cursors and its window
discarded, and the set runs again; the comparison that failed, at the A-hart's place `p`, is noted. `f` is what else the event notes of the set. -/
structure RunsAgain (s t : State) (r : RSet) (p : Pos) (f : RSet → RSet) : Prop where
  memory : t.mem = s.mem
  set : SetsBy s t r fun x => { f x with failed := x.failed ++ [(.A, p)] }
  members : ∀ b ∈ membersOf t r, b.buf = [] ∧ b.crcA = 0 ∧ b.crcX = 0 ∧ b.waitA = none ∧ b.waitX = none ∧
    ∃ k, b.chk = some k ∧ b.retA = k.retA ∧ b.retX = k.retX ∧ b.ctx.a = k.ctx.a ∧ b.ctx.x = k.ctx.x ∧ b.ctx.v = k.ctx.v ∧
      b.ctx.pcA = k.ctx.pcA ∧ b.ctx.pcX = k.ctx.pcX ∧ b.status = k.status ∧ b.level = k.level ∧ b.pcH = k.pcH ∧ b.epc = k.epc ∧
      b.cause = k.cause ∧ ∀ n : BitVec 3, (b.ctx.streams.get n.toFin).cursor = (k.ctx.streams.get n.toFin).cursor

/-! The step. -/

/-- What comes before every step (R46, R94, log entries 1, 6 and 61): it is counted, and the die caches write back what they cannot hold. -/
def ticked (s : State) (rest : List Turn) : State :=
  { s with turns := rest, ticks := s.ticks + 1, dram := dieFit s.dram, egStop := none, lazy := false }
/-- The hart can move: its braid is resident, it has not ended, and the system handler does not stop it (R43, R157). -/
def CanMove (s : State) : Prop :=
  s.b.live = true ∧ (s.hart = .A → if s.sysMode = true then s.b.endS = false else s.b.ctx.endA = false) ∧
  (s.hart = .X → s.sysMode = false ∧ s.b.ctx.endX = false)
/-- Outside a replica set, no event of R160 waits at the hart's boundary. -/
def Quiet (s : State) : Prop :=
  s.rset = none ∧ NoTrapWaits s.b ∧ (s.hart = .A → s.sysMode = false → ∀ n c, ¬ Undelivered s n c) ∧ (s.hart = stoppedBy s → ¬ CanInterrupt s) ∧
  (s.hart = .A → CanLand s → s.b.ctx.landPend = 0)
/-- R101: what the fetch at the hart's address comes to: a word, or a cause. -/
def FetchIs (s : State) (r : Except Nat (BitVec 32 × State)) : Prop :=
  if s.pc.extractLsb' 57 7 ≠ 0 then r = .error 6
  else match s.access s.ownXlate s.b.task s.pc.toNat 4 .fetch true with
    | .error c => r = .error c
    | .ok (key, t) => r = .ok (BitVec.ofNat 32 (t.mem.read key 4), t)
/-- R101, R278, R303: what a hart that can move does at its address: it executes the instruction of the word there, or takes cause 1 for a word
that is none, or the cause of its fetch. -/
def Moves (s : State) (o : Host.Outcome State Fault Refusal) : Prop :=
  (∀ c, FetchIs s (.error c) → o = .next (trapped s s.hart c s.pc s.pc)) ∧
  ∀ w t, FetchIs s (.ok (w, t)) →
    (∀ i, decode w = .ok i → o = exec i t) ∧ (∀ e, decode w = .error e → o = .next (trapped t t.hart 1 t.pc 0))

end Sys2Proof.Claim

open Sys2Proof Sys2Proof.Machine Sys2Proof.Claim

/-- R278 checks 3, 5, 6 and 7 for every instruction of the opcode table that has a word: the first check that fails raises its
cause, and nothing is performed. -/
def Obligations.IssueChecksInOrder : Prop :=
  ∀ (i : Instr) (s : State) (who : Harts) (level : Level) (land vec : Bool), needs i = some (who, level, land, vec) →
    (who.allow s.hart = false → exec i s = .next (trapped s s.hart 1 s.pc 0)) ∧
    (who.allow s.hart = true → s.hart = .A → s.landing = true → land = false → exec i s = .next (trapped s s.hart 1 s.pc 0)) ∧
    (who.allow s.hart = true → (s.hart = .A → s.landing = true → land = true) → s.prefixed = true → vec = false →
      exec i s = .next (trapped s.dropPrefix s.hart 11 s.pc 0)) ∧
    (who.allow s.hart = true → (s.hart = .A → s.landing = true → land = true) → (s.prefixed = true → vec = true) →
      s.b.level.rank < level.rank → exec i s = .next (trapped s s.hart 2 s.pc 0))

/-- R298: each ALU instruction writes its result and changes nothing else; register 0 discards it. R299: the immediate instructions. A word of
either group with a field that its rule excludes is no instruction (so that it raises cause 1, as O54 says of every such word). -/
def Obligations.ScalarResults : Prop :=
  (∀ (s : State) (d a b : Reg), Issues .both .user true false s → ∀ p ∈ aluTable d a b (s.reg a) (s.reg b),
    ∃ t, exec p.1 s = .next t ∧ Wrote s t d p.2 ∧ Goes s t (s.pc + 4) ∧ KeptBut d s t) ∧
  (∀ (s : State) (d a : Reg) (i : BitVec 16) (n : BitVec 6), Issues .both .user true false s → ∀ p ∈ immTable d a i n (s.reg a),
    ∃ t, exec p.1 s = .next t ∧ Wrote s t d p.2 ∧ Goes s t (s.pc + 4) ∧ KeptBut d s t) ∧
  (∀ w : BitVec 32, w.extractLsb' 26 6 = 0x01 →
    w.extractLsb' 6 5 ≠ 0 ∨ 26 ≤ (w.extractLsb' 0 6).toNat ∨ (23 ≤ (w.extractLsb' 0 6).toNat ∧ w.extractLsb' 11 5 ≠ 0) →
    ∀ i, decode w ≠ .ok i) ∧
  (∀ w : BitVec 32, w.extractLsb' 26 6 = 0x06 → w.extractLsb' 14 2 = 3 ∨ w.extractLsb' 6 8 ≠ 0 → ∀ i, decode w ≠ .ok i)

/-- R302: a branch goes 4 × sext(off16) on if its condition holds, and otherwise to the next instruction; nothing else changes. R310: `jmp`,
`jal` with its link, and `jr`, whose target is checked. -/
def Obligations.BranchesAndJumps : Prop :=
  (∀ (s : State) (a b : Reg) (o : BitVec 16), Issues .both .user true false s → ∀ p ∈ branchTable a b o (s.reg a) (s.reg b),
    ∃ t, exec p.1 s = .next t ∧ Kept s t ∧ (p.2 → Goes s t (s.pc + 4 * o.signExtend 64)) ∧ (¬ p.2 → Goes s t (s.pc + 4))) ∧
  (∀ s : State, Issues .both .user true false s →
    (∀ o : BitVec 26, ∃ t, exec (.jmp o) s = .next t ∧ Goes s t (s.pc + 4 * o.signExtend 64) ∧ Kept s t) ∧
    (∀ o : BitVec 26, ∃ t, exec (.jal o) s = .next t ∧ Goes s t (s.pc + 4 * o.signExtend 64) ∧ Wrote s t 31 (s.pc + 4) ∧
      KeptBut 31 s t) ∧
    (∀ a : Reg, (s.reg a).extractLsb' 0 2 = 0 → (s.reg a).extractLsb' 57 7 = 0 →
      ∃ t, exec (.jr a) s = .next t ∧ Goes s t (s.reg a) ∧ Kept s t) ∧
    (∀ a : Reg, (s.reg a).extractLsb' 0 2 ≠ 0 → exec (.jr a) s = .next (trapped s s.hart 3 s.pc (s.reg a))) ∧
    (∀ a : Reg, (s.reg a).extractLsb' 0 2 = 0 → (s.reg a).extractLsb' 57 7 ≠ 0 →
      exec (.jr a) s = .next (trapped s s.hart 6 s.pc (s.reg a))))

/-- R4, R112, R157: a write of a scalar register reaches the bank now selected and no other; register 0 takes no write. -/
def Obligations.RegisterBanks : Prop :=
  ∀ (s : State) (r : Reg) (v : Word),
    (s.setReg 0 v = s) ∧
    (s.hart = .X → r ≠ 0 → s.setReg r v = { s with b := { s.b with ctx := { s.b.ctx with x := s.b.ctx.x.set r.toNat v r.isLt } } }) ∧
    (s.hart = .A → r ≠ 0 → r.toNat < 24 ∨ (s.sysMode = false ∧ s.b.ctx.inLand = false) →
      s.setReg r v = { s with b := { s.b with ctx := { s.b.ctx with a := s.b.ctx.a.set r.toNat v r.isLt } } }) ∧
    (s.hart = .A → 24 ≤ r.toNat → s.sysMode = true →
      s.setReg r v = { s with b := { s.b with sysb := s.b.sysb.set (bankIx r).toNat v (bankIx r).isLt } }) ∧
    (s.hart = .A → 24 ≤ r.toNat → s.sysMode = false → s.b.ctx.inLand = true →
      s.setReg r v = { s with b := { s.b with ctx := { s.b.ctx with sh := s.b.ctx.sh.set (bankIx r).toNat v (bankIx r).isLt } } }) ∧
    (∀ q : Reg, (s.setReg r v).reg q = if q = r ∧ r ≠ 0 then v else s.reg q)

/-- R157, R162: entry to the system handler, for every trap of either hart outside it. R163: `sys` and `brk` complete and then raise cause
16 or 17 with their number in `eei`; in a replica set they wait at their address until every member takes the trap (R305), and complete then
(the model's way, log entry 95). -/
def Obligations.TrapsAndCalls : Prop :=
  (∀ (s : State) (h : Hart) (cause : Nat) (epc eei : Word), s.sysMode = false → Entered s (s.enter h cause epc eei) h cause epc eei) ∧
  (∀ (s : State) (n : BitVec 10), Issues .both .user false false s → s.sysMode = false →
    (s.rset = none →
      (∃ t, exec (.sys n) s = .next t ∧ Entered s.retire t s.hart 16 (s.pc + 4) (n.setWidth 64)) ∧
      (∃ t, exec (.brk n) s = .next t ∧ Entered s.retire t s.hart 17 (s.pc + 4) (n.setWidth 64))) ∧
    (s.rset ≠ none → Waits (.sys n) s (.trap 16 (n.setWidth 64) true) ∧ Waits (.brk n) s (.trap 17 (n.setWidth 64) true))) ∧
  (∀ (s : State) (h : Hart) (cause : Nat) (eei : Word), s.sysMode = false →
    (s.waitOf h = some (.trap cause eei false) → Entered (atHart s h) (s.takeTrap h) h cause (s.pcOf h) eei) ∧
    (s.waitOf h = some (.trap cause eei true) → Entered (atHart s h).retire (s.takeTrap h) h cause (s.pcOf h + 4) eei))

/-- R161: a trap inside the handler ends the braid and fails its task with the cause, unless the task had failed or ended before; every
braid of the task ends with it (the model's reading of R44, log entry 30), firmware has a health event, and memory stays as it is. A boot
core's braid has no task (log entry 61). -/
def Obligations.DoubleTrapFailsTheTask : Prop :=
  ∀ (s : State) (h : Hart) (cause : Nat) (epc eei : Word), s.sysMode = true →
    (s.enter h cause epc eei).b.live = false ∧
    (s.thisTask ≠ none → ∀ b ∈ (s.enter h cause epc eei).rest, b.task = s.b.task → b.live = false) ∧
    (∀ k ∈ s.tasks, k.id = s.b.task → k.failed = none → k.st ≠ .done →
      { k with failed := some cause } ∈ (s.enter h cause epc eei).tasks) ∧
    (s.enter h cause epc eei).msix = s.msix ++ [2] ∧
    (∀ a, (s.enter h cause epc eei).mem.get a = s.mem.get a)

/-- R163: `eret` restores the privilege and ie, leaves the handler, for the landing handler if `status`.inl says so, and resumes the trapping hart
at `epc`, the other where it was held; it changes nothing else. What an interrupted access or release had done stands again (log entries 66 and
72), and in a replica set what was due at the last release may be taken at the boundary that follows (log entry 22). A context that `ctxload` read
in the handler takes effect now, with its own in-handler state (R167; log entry 50). The task is not being pre-empted, and the braid was not voted
out of its set (R250). -/
def Obligations.ReturnFromHandler : Prop :=
  ∀ s : State, Issues .onlyA .system false false s → s.sysMode = true →
    (∀ k, s.thisTask = some k → k.st ≠ .preempting ∧ (s.replicated = true ∨ k.reps < 2)) →
    let inSet (here old : Nat) : Nat := if s.rset = none then old else here
    ∃ t, exec .eret s = .next t ∧
      t.b.level = (if s.b.status.extractLsb' 10 2 = 0 then .user else if s.b.status.extractLsb' 10 2 = 1 then .system else .firmware) ∧
      t.b.status.getLsbD 7 = s.b.status.getLsbD 6 ∧ t.b.status.getLsbD 5 = false ∧
      (∀ n, n ≠ 7 → n ≠ 5 → t.b.status.getLsbD n = s.b.status.getLsbD n) ∧
      (let c := match s.b.loaded with
        | some c => c
        | none => { s.b.ctx with inLand := s.b.status.getLsbD 8 }
       t.b.ctx = if s.b.status.getLsbD 9 then { c with pcX := s.b.epc } else { c with pcA := s.b.epc }) ∧
      t = { s with b := { s.b with
        level := t.b.level, status := t.b.status, ctx := t.b.ctx, loaded := none, entryCtx := none, waitA := none, retA := s.b.retA + 1
        pcH := s.pc + 4, memDone := if s.b.loaded = none then s.b.memHeld else 0, memHeld := 0
        agreedA := decide (s.b.loaded = none) && s.b.agHeld, agreedX := decide (s.b.loaded = none) && s.b.agreedX, agHeld := false
        posA := inSet (s.b.retA + 1) s.b.posA, posX := inSet s.b.retX s.b.posX, landAt := inSet (s.b.retA + 1) s.b.landAt } }

/-- R314, R96: `ld` writes the bytes the hart sees, extended as its size says, behind the hart's own vector stores to the line that a release
has ordered (R118, R122; `u`, of which O37 says what has performed). No byte that the hart sees changes and none of memory, outside the line
that leaves a full cache, whose dirty bytes memory takes (log entry 9). -/
def Obligations.LoadsReturnTheBytesSeen : Prop :=
  ∀ (s s0 : State) (d a : Reg) (z : BitVec 3) (o : BitVec 13) (key : Nat), z.toNat ≤ 6 → Issues .onlyA .user true false s → s.rset = none →
    Reaches s (s.aReg a + o.signExtend 64) (bytesFor z) .load key s0 → s0.b.buf = [] →
    let u := s0.settleLine key
    marked u key = false →
    ∃ t, exec (.ld d a z o) s = .next t ∧ Wrote s t d (loaded z (seenValue u key (bytesFor z))) ∧ Goes s t (s.pc + 4) ∧
      (s.Canonical → (∀ k, ¬ inLeaving u (key / 64) k → seen t k = seen u k ∧ t.mem.get k = u.mem.get k) ∧ LineLeft u t (key / 64)) ∧
      KeptBut d (apartFromMemory u) (apartFromMemory t)

/-- R314, R96: outside the line that leaves a full cache, `st` changes the bytes it stores, as the hart sees them, and no others, behind the
hart's own vector stores to the line that a release has ordered (R118, R122; `u`); memory changes only in the line that leaves, which takes
its dirty bytes (log entry 9), so that the stored bytes stay in the cache. R260: written back, a store to the mailbox's last word raises
MSI-X vector 1, once. -/
def Obligations.StoresChangeTheirBytes : Prop :=
  ∀ (s s0 : State) (r a : Reg) (z : BitVec 3) (o : BitVec 13) (key : Nat), z.toNat ≤ 3 → Issues .onlyA .user true false s → s.rset = none →
    Reaches s (s.aReg a + o.signExtend 64) (bytesFor z) .store key s0 →
    let u := s0.settleLine key
    (marked u key = false ∨ bytesFor z = 8) →
    ∃ t, exec (.st r a z o) s = .next t ∧ Goes s t (s.pc + 4) ∧
      (∀ i < bytesFor z, seen t (key + i) = (s.aReg r).toNat / 256 ^ i % 256) ∧
      (s.Canonical → (∀ k, ¬ inLeaving u (key / 64) k → (k < key ∨ key + bytesFor z ≤ k) → seen t k = seen u k) ∧
        (∀ k, ¬ inLeaving u (key / 64) k → t.mem.get k = u.mem.get k) ∧ LineLeft u t (key / 64)) ∧
      (leaving u (key / 64) = none → t.msix = u.msix) ∧
      (key = 0x1800000FF8 → u.b.cache = [] → t.cacheWriteback.msix = u.msix ++ [1]) ∧
      Kept (apartFromMemory u) (apartFromMemory t)

/-- R314: a misaligned scalar access is cause 3, a non-canonical one cause 6, and one that R103's checks refuse has their cause. R356: a load
from a word marked as poisoned, and a store of part of one, is cause 7. Each has the address in `eei`, and nothing is performed. -/
def Obligations.ScalarAccessTraps : Prop :=
  ∀ (s : State) (r a : Reg) (z : BitVec 3) (o : BitVec 13), Issues .onlyA .user true false s →
    let va := s.aReg a + o.signExtend 64
    (z.toNat ≤ 6 → va.toNat % bytesFor z ≠ 0 → Traps (.ld r a z o) s 3 va) ∧
    (z.toNat ≤ 3 → va.toNat % bytesFor z ≠ 0 → Traps (.st r a z o) s 3 va) ∧
    (z.toNat ≤ 6 → va.toNat % bytesFor z = 0 → va.extractLsb' 57 7 ≠ 0 → Traps (.ld r a z o) s 6 va) ∧
    (z.toNat ≤ 3 → va.toNat % bytesFor z = 0 → va.extractLsb' 57 7 ≠ 0 → Traps (.st r a z o) s 6 va) ∧
    (∀ c, z.toNat ≤ 6 → va.toNat % bytesFor z = 0 → va.extractLsb' 57 7 = 0 → s.ownCheck va.toNat (bytesFor z) .load = .error c →
      Traps (.ld r a z o) s c va) ∧
    (∀ c, z.toNat ≤ 3 → va.toNat % bytesFor z = 0 → va.extractLsb' 57 7 = 0 → s.ownCheck va.toNat (bytesFor z) .store = .error c →
      Traps (.st r a z o) s c va) ∧
    (∀ key s0, s.rset = none →
      (z.toNat ≤ 6 → Reaches s va (bytesFor z) .load key s0 → s0.b.buf = [] → marked (s0.settleLine key) key = true → Traps (.ld r a z o) s 7 va) ∧
      (z.toNat ≤ 2 → Reaches s va (bytesFor z) .store key s0 → marked (s0.settleLine key) key = true → Traps (.st r a z o) s 7 va))

/-- R304, R313: the queue instructions push and pop in order, and the token branches test all 64 bits. R23, R313: a pop from an empty queue
and a push to a full one wait, and perform nothing. -/
def Obligations.TokenQueues : Prop :=
  (∀ s : State,
    (∀ a, Issues .both .user false false s → (tokensOut s).length < 32 →
      Completes (.tsend a) s (withOut s (tokensOut s ++ [s.reg a]))) ∧
    (∀ d v l, Issues .both .user false false s → tokensIn s = v :: l → Completes (.trecv d) s ((withIn s l).setReg d v)) ∧
    (∀ (o : BitVec 16) v l, Issues .both .user false false s → tokensIn s = v :: l →
      (∃ t, exec (.bqt o) s = .next t ∧ Kept (withIn s l) t ∧ Goes s t (if v ≠ 0 then s.pc + 4 * o.signExtend 64 else s.pc + 4)) ∧
      (∃ t, exec (.bqf o) s = .next t ∧ Kept (withIn s l) t ∧ Goes s t (if v = 0 then s.pc + 4 * o.signExtend 64 else s.pc + 4))) ∧
    (∀ k : BitVec 4, Issues .onlyX .user false false s → s.b.ctx.kq.length < 16 →
      ∃ e : KEntry, Completes (.ksend k) s { s with b := { s.b with ctx := { s.b.ctx with kq := s.b.ctx.kq ++ [e] } } } ∧
        (∀ n < 2048, e.bits.getLsbD n = (k == 0 || (s.b.ctx.k.get k.toFin).getLsbD n)) ∧
        (e.flagged = true ↔ k ≠ 0 ∧ ∀ n < s.b.ctx.rx.vl.toNat, n < 2048 → (s.b.ctx.k.get k.toFin).getLsbD n = false))) ∧
  (∀ s : State,
    (Issues .both .user false false s → tokensIn s = [] → ∀ (d : Reg) (o : BitVec 16),
      Waits (.trecv d) s (.pop (inName s)) ∧ Waits (.bqt o) s (.pop (inName s)) ∧ Waits (.bqf o) s (.pop (inName s))) ∧
    (∀ a, Issues .both .user false false s → 32 ≤ (tokensOut s).length → Waits (.tsend a) s (.push (outName s))) ∧
    (∀ k, Issues .onlyX .user false false s → 16 ≤ s.b.ctx.kq.length → Waits (.ksend k) s (.push .kq)) ∧
    (∀ d a t, Issues .both .user false false s → First s → 4 ≤ s.b.ctx.grants.length → Waits (.setvl d a t) s (.push .grant)))

/-- R48, R50 to R52: `setvl`. The first of a pair decides the grant and leaves it for the second, which takes it if request and type agree,
and else takes cause 10 and writes nothing. R53, R54: `setvls` on a stream, whose trim bounds the grant and whose cursor moves on by it. The
first of a pair waits where four grants are unmatched (R51). R55: `setmt`. -/
def Obligations.VectorLengths : Prop :=
  (∀ (s : State) (d a t : Reg), Issues .both .user false false s → s.rset = none →
    (First s → s.b.ctx.grants.length < 4 →
      Completes (.setvl d a t) s
        (lengthSet (recapped (withGrants s (s.b.ctx.grants ++ [⟨s.hart, s.reg a, t, grantOf s (s.reg a) t, s.b.ctx.vcap⟩]))
          s.b.ctx.vcap) d (grantOf s (s.reg a) t) t)) ∧
    (First s → 4 ≤ s.b.ctx.grants.length → Waits (.setvl d a t) s (.push .grant)) ∧
    (∀ g r, Second s g r → g.req = s.reg a → g.ty = t →
      Completes (.setvl d a t) s (lengthSet (recapped (withGrants s r) g.cap) d g.g t)) ∧
    (∀ g r, Second s g r → g.req ≠ s.reg a ∨ g.ty ≠ t → Traps (.setvl d a t) s 10 0)) ∧
  (∀ (s : State) (d a n t : Reg), Issues .onlyA .user false false s → s.rset = none →
    let k : BitVec 3 := n.setWidth 3
    let trim := (s.stream k).ctr - (s.stream k).cursor
    let g := min (grantOf s (s.reg a) t) trim
    ((s.stream k).ty ≠ t → Traps (.setvls d a n t) s 1 0) ∧
    ((s.stream k).ty = t → First s → s.b.ctx.grants.length < 4 → (1024 / sewOf t ≤ trim ∨ LandedAll (s.stream k)) →
      Completes (.setvls d a n t) s
        (lengthSet (withCursor (withGrants s (s.b.ctx.grants ++ [⟨s.hart, s.reg a, t, g, s.b.ctx.vcap⟩])) k g) d g t)) ∧
    ((s.stream k).ty = t → First s → s.b.ctx.grants.length < 4 → trim < 1024 / sewOf t → ¬ LandedAll (s.stream k) →
      Waits (.setvls d a n t) s (.trim d (s.reg a) n t)) ∧
    ((s.stream k).ty = t → First s → 4 ≤ s.b.ctx.grants.length → Waits (.setvls d a n t) s (.push .grant)) ∧
    (∀ p r, (s.stream k).ty = t → Second s p r → p.req ≠ s.reg a ∨ p.ty ≠ t → Traps (.setvls d a n t) s 10 0) ∧
    (∀ p r, (s.stream k).ty = t → Second s p r → p.req = s.reg a → p.ty = t → p.g ≤ trim →
      Completes (.setvls d a n t) s (lengthSet (withCursor (withGrants s r) k p.g) d p.g t)) ∧
    (∀ p r, (s.stream k).ty = t → Second s p r → p.req = s.reg a → p.ty = t → trim < p.g → LandedAll (s.stream k) →
      Traps (.setvls d a n t) s 10 0) ∧
    (∀ p r, (s.stream k).ty = t → Second s p r → p.req = s.reg a → p.ty = t → trim < p.g → ¬ LandedAll (s.stream k) →
      Waits (.setvls d a n t) s (.trim d (s.reg a) n t)) ∧
    (∀ b : Reg, (s.reg b).toNat ≤ 3 → Completes (.setmt b) s
      { s with b := { s.b with ctx := { s.b.ctx with ac := { s.b.ctx.ac with mt := (s.reg b).setWidth 2 } } } }) ∧
    (∀ b : Reg, 3 < (s.reg b).toNat → Traps (.setmt b) s 1 0))

/-- R328, R329, R59, R63: the integer vector instructions, VV, VS and unary, into registers and store queues, from registers and load
queues, under masks, a prefix and any `es`. -/
def Obligations.IntegerVectorResults : Prop :=
  ∀ (s : State) (d : Dst) (a : Reg) (b : Src) (c : Reg) (k : BitVec 4), (typeX s).toNat < 8 →
    (VecReady s (some d) (popped b) k → ∀ p ∈ intTable d a b c k,
      ∃ t, exec p.1 s = .next t ∧ FlagsDither s t 0 false ∧ VecResult s t d (popped b) (loop s k fun e =>
        (p.2.2 (sewX s) (decide ((typeX s).toNat < 4)) (elem (vec s a) _ e) (elem (sourceBits s b) _ e)).toNat)) ∧
    (VecReady s (some d) none k → ∀ p ∈ intTable d a b c k,
      ∃ t, exec p.2.1 s = .next t ∧ FlagsDither s t 0 false ∧ VecResult s t d none (loop s k fun e =>
        (p.2.2 (sewX s) (decide ((typeX s).toNat < 4)) (elem (vec s a) _ e) ((s.xReg c).setWidth _)).toNat)) ∧
    (VecReady s (some d) (popped b) k → ∀ p ∈ intUnary d b k,
      ∃ t, exec p.1 s = .next t ∧ FlagsDither s t 0 false ∧ VecResult s t d (popped b) (loop s k fun e =>
        (p.2 (sewX s) (decide ((typeX s).toNat < 4)) (elem (sourceBits s b) _ e)).toNat))

/-- R338, R73: the real floating instructions under f16, bf16, f32 and f64, with flags and dither. -/
def Obligations.RealVectorResults : Prop :=
  ∀ (s : State) (d : Dst) (a : Reg) (b : Src) (c : Reg) (k : BitVec 4), 8 ≤ (typeX s).toNat → (typeX s).toNat ≤ 11 →
    let g := fmtX s
    let m := s.b.ctx.rx.mode
    let x (e : Nat) := g.decode (elem (vec s a) (sewX s) e).toNat
    let y (e : Nat) := g.decode (elem (sourceBits s b) (sewX s) e).toNat
    let z := g.decode ((s.xReg c).setWidth (sewX s)).toNat
    (VecReady s (some d) (popped b) k → ∀ p ∈ realTable d a b c k,
      ∃ t, exec p.1 s = .next t ∧ FlagsDither s t (loopFlags s k fun e => (p.2.2.2 g (m e) (x e) (y e)).2) p.2.2.1 ∧
        VecResult s t d (popped b) (loop s k fun e => (p.2.2.2 g (m e) (x e) (y e)).1)) ∧
    (VecReady s (some d) none k → ∀ p ∈ realTable d a b c k,
      ∃ t, exec p.2.1 s = .next t ∧ FlagsDither s t (loopFlags s k fun e => (p.2.2.2 g (m e) (x e) z).2) p.2.2.1 ∧
        VecResult s t d none (loop s k fun e => (p.2.2.2 g (m e) (x e) z).1)) ∧
    (VecReady s (some d) (popped b) k → ∀ p ∈ realUnary d b k,
      ∃ t, exec p.1 s = .next t ∧ FlagsDither s t (loopFlags s k fun e => (p.2.2 g (m e) (y e)).2) p.2.1 ∧
        VecResult s t d (popped b) (loop s k fun e => (p.2.2 g (m e) (y e)).1)) ∧
    (VecReady s (some d) (popped b) k →
      ∃ t, exec (.vtsum d a b k) s = .next t ∧ FlagsDither s t (loopFlags s k fun e => (tsum g (x e) (y e)).2) false ∧
        VecResult s t d (popped b) (loop s k fun e => (tsum g (x e) (y e)).1))

/-- R338: the fused instructions under the real types, whose destination register is the addend; one Round each (R170). R338, R74: complex
sums, differences, products and fused forms, each part rounded once with Dither index 2e and 2e + 1; `vfneg` inverts both signs. The VS
form is that of c64 (R169). That an operation with a NaN input is not invalid, so that 0 times infinity plus NaN sets no NV, is the model's
reading (log entry 14). -/
def Obligations.FusedAndComplexResults : Prop :=
  (∀ (s : State) (d a : Reg) (b : Src) (c : Reg) (k : BitVec 4), 8 ≤ (typeX s).toNat → (typeX s).toNat ≤ 11 →
    let g := fmtX s
    let m := s.b.ctx.rx.mode
    let x (e : Nat) := g.decode (elem (vec s a) (sewX s) e).toNat
    let y (e : Nat) := g.decode (elem (sourceBits s b) (sewX s) e).toNat
    let z (e : Nat) := g.decode (elem (vec s d) (sewX s) e).toNat
    let u := g.decode ((s.xReg c).setWidth (sewX s)).toNat
    (VecReady s (some (.v d)) (popped b) k → ∀ p ∈ fusedTable d a b c k,
      ∃ t, exec p.1 s = .next t ∧ FlagsDither s t (loopFlags s k fun e => (p.2.2 g (m e) (x e) (y e) (z e)).2) true ∧
        VecResult s t (.v d) (popped b) (loop s k fun e => (p.2.2 g (m e) (x e) (y e) (z e)).1)) ∧
    (VecReady s (some (.v d)) none k → ∀ p ∈ fusedTable d a b c k,
      ∃ t, exec p.2.1 s = .next t ∧ FlagsDither s t (loopFlags s k fun e => (p.2.2 g (m e) (x e) u (z e)).2) true ∧
        VecResult s t (.v d) none (loop s k fun e => (p.2.2 g (m e) (x e) u (z e)).1))) ∧
  (∀ (s : State) (d : Dst) (a : Reg) (b : Src) (c : Reg) (k : BitVec 4), typeX s = 16 ∨ typeX s = 17 →
    let g := fmtX s
    let m0 (e : Nat) := s.b.ctx.rx.mode (2 * e)
    let m1 (e : Nat) := s.b.ctx.rx.mode (2 * e + 1)
    let x (e : Nat) := partsOf g (sewX s) (elem (vec s a) (sewX s) e)
    let y (e : Nat) := partsOf g (sewX s) (elem (sourceBits s b) (sewX s) e)
    let z := partsOf g (sewX s) ((s.xReg c).setWidth (sewX s))
    let join (r : (Nat × Flags) × (Nat × Flags)) := joined (sewX s) r.1 r.2
    (VecReady s (some d) (popped b) k → ∀ p ∈ complexTable d a b c k,
      ∃ t, exec p.1 s = .next t ∧ FlagsDither s t (loopFlags s k fun e => (join (p.2.2 g (m0 e) (m1 e) (x e) (y e))).2) true ∧
        VecResult s t d (popped b) (loop s k fun e => (join (p.2.2 g (m0 e) (m1 e) (x e) (y e))).1)) ∧
    (typeX s = 16 → VecReady s (some d) none k → ∀ p ∈ complexTable d a b c k,
      ∃ t, exec p.2.1 s = .next t ∧ FlagsDither s t (loopFlags s k fun e => (join (p.2.2 g (m0 e) (m1 e) (x e) z)).2) true ∧
        VecResult s t d none (loop s k fun e => (join (p.2.2 g (m0 e) (m1 e) (x e) z)).1)) ∧
    (VecReady s (some d) (popped b) k →
      ∃ t, exec (.vfneg d b k) s = .next t ∧ FlagsDither s t 0 false ∧
        VecResult s t d (popped b) (loop s k fun e => (joined (sewX s) (exactly g (y e).1.negate) (exactly g (y e).2.negate)).1)) ∧
    (∀ v : Reg, VecReady s (some (.v v)) (popped b) k → ∀ p ∈ complexFused v a b c k,
      let w (e : Nat) := partsOf g (sewX s) (elem (vec s v) (sewX s) e)
      ∃ t, exec p.1 s = .next t ∧ FlagsDither s t (loopFlags s k fun e => (join (p.2.2 g (m0 e) (m1 e) (x e) (y e) (w e))).2) true ∧
        VecResult s t (.v v) (popped b) (loop s k fun e => (join (p.2.2 g (m0 e) (m1 e) (x e) (y e) (w e))).1)) ∧
    (∀ v : Reg, typeX s = 16 → VecReady s (some (.v v)) none k → ∀ p ∈ complexFused v a b c k,
      let w (e : Nat) := partsOf g (sewX s) (elem (vec s v) (sewX s) e)
      ∃ t, exec p.2.1 s = .next t ∧ FlagsDither s t (loopFlags s k fun e => (join (p.2.2 g (m0 e) (m1 e) (x e) z (w e))).2) true ∧
        VecResult s t (.v v) none (loop s k fun e => (join (p.2.2 g (m0 e) (m1 e) (x e) z (w e))).1)))

/-- R311, R335, R341: instructions with a mask destination, under a prefix too (one that asks for a copy is cause 11). R311, R230: `kpop`,
`kfirst` and `vext` write an x register. -/
def Obligations.MaskAndScalarResults : Prop :=
  (∀ (s : State) (kd ka kb k : BitVec 4) (a c : Reg) (b : Src) (cc : BitVec 3), kd ≠ 0 → copies s = false → cc.toNat ≤ 5 →
    let g := fmtX s
    let x (e : Nat) := elem (vec s a) (sewX s) e
    let y (e : Nat) := elem (sourceBits s b) (sewX s) e
    let z := (s.xReg c).setWidth (sewX s)
    (VecReady s none none 0 → ∀ p ∈ maskTable s kd ka kb c,
      ∃ t, exec p.1 s = .next t ∧ MaskResult s t kd none (lentOr s kd p.2)) ∧
    (VecReady s none (popped b) 0 → (typeX s).toNat < 8 → ∃ t, exec (.vcmp kd a b cc) s = .next t ∧
      MaskResult s t kd (popped b) (lentOr s kd fun e => condition cc (intOrder s (x e) (y e)))) ∧
    (VecReady s none none 0 → (typeX s).toNat < 8 → ∃ t, exec (.vcmpVs kd a c cc) s = .next t ∧
      MaskResult s t kd none (lentOr s kd fun e => condition cc (intOrder s (x e) z))) ∧
    (VecReady s none (popped b) 0 → 8 ≤ (typeX s).toNat → (typeX s).toNat ≤ 11 → ∃ t, exec (.vfcmp kd a b cc) s = .next t ∧
      MaskResult s t kd (popped b) (lentOr s kd fun e => condition cc ((g.decode (x e).toNat).cmp (g.decode (y e).toNat)))) ∧
    (VecReady s none none 0 → 8 ≤ (typeX s).toNat → (typeX s).toNat ≤ 11 → ∃ t, exec (.vfcmpVs kd a c cc) s = .next t ∧
      MaskResult s t kd none (lentOr s kd fun e => condition cc ((g.decode (x e).toNat).cmp (g.decode z.toNat)))) ∧
    (VecReady s none none k → typeX s ≠ 14 → typeX s ≠ 15 → ∀ first, active s k first = true → (∀ e < first, active s k e = false) →
      ∃ t, exec (.vmatch kd a k) s = .next t ∧ MaskResult s t kd none fun e => active s k e && decide (x e = x first))) ∧
  (∀ (s : State) (d a b : Reg) (ka : BitVec 4), VecReady s none none 0 → copies s = false →
    Completes (.kpop d ka) s (settled (s.setReg d (BitVec.ofNat 64 (((List.range 2048).filter (active s ka)).length)))) ∧
    (∀ n, active s ka n = true → (∀ e < n, active s ka e = false) → Completes (.kfirst d ka) s (settled (s.setReg d (BitVec.ofNat 64 n)))) ∧
    ((∀ e < 2048, active s ka e = false) → Completes (.kfirst d ka) s (settled (s.setReg d 0xFFFFFFFFFFFFFFFF))) ∧
    (sewX s ≤ 64 →
      let i := (s.xReg b).toNat
      let x := elem (vec s a) (sewX s) i
      (vlX s ≤ i → Completes (.vext d a b) s (settled (s.setReg d 0))) ∧
      (active s 0 i = true →
        Completes (.vext d a b) s (settled (s.setReg d (if (typeX s).toNat < 4 then x.signExtend 64 else x.setWidth 64)))) ∧
      (i < vlX s → active s 0 i = false → Completes (.vext d a b) s (settled s))))

/-- R332, R336, R342, R345: `vbcast`, `vmv`, `vsel` and `vrand`, element by element from `es`. -/
def Obligations.MoveAndSelectResults : Prop :=
  ∀ (s : State) (d : Dst) (a c : Reg) (b : Src) (k : BitVec 4),
    let x (e : Nat) := (elem (vec s a) (sewX s) e).toNat
    let y (e : Nat) := (elem (sourceBits s b) (sewX s) e).toNat
    let z := ((s.xReg c).setWidth (sewX s)).toNat
    (VecReady s (some d) none k → sewX s ≤ 64 →
      ∃ t, exec (.vbcast d c k) s = .next t ∧ FlagsDither s t 0 false ∧ VecResult s t d none (loop s k fun _ => z)) ∧
    (VecReady s (some d) (popped b) 0 →
      ∃ t, exec (.vmv d b) s = .next t ∧ FlagsDither s t 0 false ∧ VecResult s t d (popped b) (loop s 0 y)) ∧
    (VecReady s (some d) (popped b) 0 →
      ∃ t, exec (.vsel d a b k) s = .next t ∧ FlagsDither s t 0 false ∧
        VecResult s t d (popped b) (loop s 0 fun e => if maskBit s k e then x e else y e)) ∧
    (VecReady s (some d) none 0 → sewX s ≤ 64 →
      ∃ t, exec (.vselVs d a c k) s = .next t ∧ FlagsDither s t 0 false ∧
        VecResult s t d none (loop s 0 fun e => if maskBit s k e then x e else z)) ∧
    (VecReady s (some d) none k → typeX s ∈ [2, 3, 6, 7, 10, 11] →
      ∃ t, exec (.vrand d k) s = .next t ∧ t.b.ctx.rx.fsts = s.b.ctx.rx.fsts ∧ t.b.ctx.rx.dord = s.b.ctx.rx.dord + 1 ∧
        VecResult s t d none (loop s k fun e =>
          let r := (dither s.b.ctx.rx e).toNat
          if typeX s = 10 then (exactly .f32 (.fin false (r / 2 ^ 40) (-24))).1
          else if typeX s = 11 then (exactly .f64 (.fin false (r / 2 ^ 11) (-53))).1
          else r % 2 ^ sewX s))

/-- R229, R337, R344, R349, R186: the permutes, over the whole of vl; what an instruction gives no value keeps its own. -/
def Obligations.PermuteResults : Prop :=
  ∀ (s : State) (d : Dst) (a c : Reg) (b : Src) (k : BitVec 4),
    let x (e : Nat) := (elem (vec s a) (sewX s) e).toNat
    let off := (s.xReg c).toNat
    (VecReady s (some d) none k →
      (∃ t, exec (.vslideup d a c k) s = .next t ∧ FlagsDither s t 0 false ∧
        VecResult s t d none fun e => if off ≤ e then wholly s k (fun e => x (e - off)) e else none) ∧
      (∃ t, exec (.vslidedn d a c k) s = .next t ∧ FlagsDither s t 0 false ∧
        VecResult s t d none (wholly s k fun e => if e + off < vlX s then x (e + off) else 0)) ∧
      (∃ t, exec (.vcompress d a k) s = .next t ∧ FlagsDither s t 0 false ∧
        VecResult s t d none fun j => ((List.range 2048).find? fun e => active s k e && rankOf s k e == j).map x) ∧
      (∃ t, exec (.vexpand d a k) s = .next t ∧ FlagsDither s t 0 false ∧
        VecResult s t d none (wholly s k fun e => x (rankOf s k e))) ∧
      ((typeX s).toNat < 8 → ∃ t, exec (.viota d k) s = .next t ∧ FlagsDither s t 0 false ∧
        VecResult s t d none (wholly s k fun e => rankOf s k e)) ∧
      ((typeX s).toNat < 12 → typeX s ≠ 0 → typeX s ≠ 4 → ∃ t, exec (.vnz d a k) s = .next t ∧ FlagsDither s t 0 false ∧
        VecResult s t d none fun j => if j < vlX s ∧ j < 2048 then
          some (((List.range 2048).filter fun e => active s k e && nonZeroEl s (x e)).getD j 0) else none)) ∧
    (VecReady s (some d) (popped b) k →
      ∃ t, exec (.vperm d a b k) s = .next t ∧ FlagsDither s t 0 false ∧ VecResult s t d (popped b) (wholly s k fun e =>
        if indexOf s (sourceBits s b) e < vlX s then x (indexOf s (sourceBits s b) e) else 0))

/-- R88, R346, R347: reductions over the tree of recursive halving, into element 0; a NaN is canonical (R73). R89, R346: inclusive prefix
sums; an inactive element counts as the identity and keeps its own value. -/
def Obligations.FoldResults : Prop :=
  (∀ (s : State) (d : Dst) (a : Reg) (k : BitVec 4) (p : Nat), VecReady s (some d) none k → LeastPower s p →
    let g := fmtX s
    ((typeX s).toNat < 8 → ∀ r ∈ redTable s d a k, ∃ t, exec r.1 s = .next t ∧ FlagsDither s t 0 false ∧
      VecResult s t d none fun e => if e = 0 then some (tree (fun _ u v => (r.2.2 u v, 0)) (leaves s a k r.2.1) p p 0) else none) ∧
    (8 ≤ (typeX s).toNat → (typeX s).toNat ≤ 11 → ∀ r ∈ redFloat s d a k, ∃ t, exec r.1 s = .next t ∧ FlagsDither s t 0 false ∧
      VecResult s t d none fun e => if e = 0 then some (canonEl s (tree (fun _ u v => exactly g (r.2.2 (g.decode u) (g.decode v)))
        (leaves s a k r.2.1) p p 0)) else none) ∧
    ((8 ≤ (typeX s).toNat ∧ (typeX s).toNat ≤ 11) ∨ typeX s = 16 ∨ typeX s = 17 →
      ∃ t, exec (.vfredsum d a k) s = .next t ∧ FlagsDither s t (treeFlags (floatSum s) (leaves s a k (minusZero s)) p) true ∧
        VecResult s t d none fun e =>
          if e = 0 then some (canonEl s (tree (floatSum s) (leaves s a k (minusZero s)) p p 0)) else none) ∧
    (8 ≤ (typeX s).toNat → (typeX s).toNat ≤ 11 → ∃ t, exec (.vamax d a k) s = .next t ∧ FlagsDither s t 0 false ∧
      VecResult s t d none fun e => if e = 0 then some (exactly g ((List.range 2048).foldl (fun m e =>
        if active s k e then m.max (g.decode (elem (vec s a) (sewX s) e).toNat).abs else m) (.fin false 0 0))).1 else none)) ∧
  (∀ (s : State) (d : Dst) (a : Reg) (k : BitVec 4), VecReady s (some d) none k →
    ((typeX s).toNat < 8 → ∃ t, exec (.vscan d a k) s = .next t ∧ FlagsDither s t 0 false ∧
      VecResult s t d none (wholly s k fun e => ((List.range (e + 1)).map (leaves s a k 0)).sum)) ∧
    ((8 ≤ (typeX s).toNat ∧ (typeX s).toNat ≤ 11) ∨ typeX s = 16 ∨ typeX s = 17 →
      let x (e : Nat) := if e = 0 then canonEl s (leaves s a k (minusZero s) e) else leaves s a k (minusZero s) e
      ∃ t, exec (.vscan d a k) s = .next t ∧ FlagsDither s t (scanFlags (floatSum s) x (vlX s)) true ∧
        VecResult s t d none (wholly s k fun e => (running (floatSum s) x e).1)))

/-- R333, R334, R348, R80, R81: conversions, clamping and scaling. `vcvt` gives Round and Clamp for a floating destination, R81 for an
integer one, and the model's own conversion where a block type stands on either side; each element reads its source as the elements before
it have left it. Forerunner saturation marks masks at the completion. UF beside CL is the model's reading (log entry 60). -/
def Obligations.ConversionResults : Prop :=
  ∀ (s : State) (d : Dst) (a c st : Reg) (b : Src) (k : BitVec 4),
    let g := fmtX s
    let m := s.b.ctx.rx.mode
    let x (e : Nat) := g.decode (elem (vec s a) (sewX s) e).toNat
    let n (e : Nat) := (elem (sourceBits s b) (sewX s) e).toInt
    let z := ((s.xReg c).setWidth (sewX s)).toInt
    let scaled (e : Nat) (n : Int) := round1 g (m e) [x e] ((x e).mul (.fin false 1 (max (-5000) (min 5000 n))))
    let clamped (e : Nat) := clampOf g (m e) (s.b.ctx.rx.fctl.getLsbD 3) s.b.ctx.bound (g.decode (elem (sourceBits s b) (sewX s) e).toNat)
    (VecReady s (some d) (popped b) k → cvtOk s st = true →
      let val (e : Nat) := converted s st (cvtSource s d st b k e) e
      ∃ t, exec (.vcvt d st b k) s = .next t ∧ FlagsDither s t (loopFlags s k fun e => (val e).2.1) true ∧
        VecResult s (withMasksOf s t) d (popped b) (loop s k fun e => (val e).1) ∧ Marked s t (hits s k fun e => (val e).2.2)) ∧
    (VecReady s (some d) (popped b) k → 8 ≤ (typeX s).toNat → (typeX s).toNat ≤ 13 →
      ∃ t, exec (.vclamp d b k) s = .next t ∧ FlagsDither s t (loopFlags s k fun e => (clamped e).2.1) false ∧
        VecResult s (withMasksOf s t) d (popped b) (loop s k fun e => (clamped e).1) ∧ Marked s t (hits s k fun e => (clamped e).2.2)) ∧
    (8 ≤ (typeX s).toNat → (typeX s).toNat ≤ 11 →
      (VecReady s (some d) (popped b) k →
        ∃ t, exec (.vscl d a b k) s = .next t ∧ FlagsDither s t (loopFlags s k fun e => (scaled e (n e)).2) true ∧
          VecResult s t d (popped b) (loop s k fun e => (scaled e (n e)).1)) ∧
      (VecReady s (some d) none k →
        ∃ t, exec (.vsclVs d a c k) s = .next t ∧ FlagsDither s t (loopFlags s k fun e => (scaled e z).2) true ∧
          VecResult s t d none (loop s k fun e => (scaled e z).1)))

/-- R225: `vopt` updates w, m and v of each active element; a prefix's copy is of w alone, into a register other than those of m and v
(what such a copy ends with is log entry 43, and is not stated). -/
def Obligations.OptimiserStep : Prop :=
  ∀ (s : State) (d a : Reg) (k : BitVec 4), VecReady s (some (.v d)) none k → typeX s = 10 → d.toNat ≤ 29 →
    (copies s = true → copyTo s ≠ d + 1 ∧ copyTo s ≠ d + 2) →
    let x (r : Reg) (e : Nat) := Fmt.f32.decode (elem (vec s r) 32 e).toNat
    let new (e : Nat) := optimised s.b.ctx.xc (s.b.ctx.rx.mode e) (x a e) (x d e) (x (d + 1) e) (x (d + 2) e)
    ∃ t, exec (.vopt d a k) s = .next t ∧ Goes s t (s.pc + 4) ∧ FlagsDither s t (loopFlags s k fun e => (new e).2) true ∧
      Elems 32 (loop s k fun e => (new e).1.1) (vec s d) (vec t d) ∧
      Elems 32 (loop s k fun e => (new e).1.2.1) (vec s (d + 1)) (vec t (d + 1)) ∧
      Elems 32 (loop s k fun e => (new e).1.2.2) (vec s (d + 2)) (vec t (d + 2)) ∧
      (copies s = true → copyTo s ≠ d → Elems 32 (loop s k fun e => (new e).1.1) (vec s (copyTo s)) (vec t (copyTo s))) ∧
      (∀ r, r ≠ d → r ≠ d + 1 → r ≠ d + 2 → ¬ (copies s = true ∧ r = copyTo s) → vec t r = vec s r) ∧
      t.b.ctx.lq = s.b.ctx.lq ∧ t.b.ctx.sq = s.b.ctx.sq ∧ t.b.ctx.rx.es = 0 ∧ Kept (apartFromVectors s) (apartFromVectors t)

/-- R59: with no active element, or `vl` 0, an X vector instruction is dropped. R71, R328, R65, R23: what stops an X vector instruction
before it performs anything: a type it does not take, a copying prefix before a mask or scalar destination, a source queue with no whole
head, a full destination queue. R190, R198, R354: so for the example instructions, whose range is checked with the type; the gate's prefix
must lend k1 to k15 uninverted. That the type comes before the prefix is log entry 7, and that a dropped instruction waits for its queues and
still has its type checked is log entry 51. -/
def Obligations.VectorsDroppedOrStopped : Prop :=
  (∀ (i : Instr) (s : State) (p : Shape), shapeOf s i = some p → Issues .onlyX .user false true s → goesAhead s p →
    (∀ e, active s p.k e = false) → headThere s p → roomThere s p → Completes i s (dropped s p)) ∧
  (∀ (i : Instr) (s : State) (p : Shape), shapeOf s i = some p → Issues .onlyX .user false true s →
    (p.fits = false → Traps i s 1 0) ∧
    (p.fits = true → p.dst = none → copies s = true → exec i s = .next (trapped s.dropPrefix s.hart 11 s.pc 0)) ∧
    (∀ q, goesAhead s p → p.pop = some q → s.b.ctx.lq.get q.toFin = [] → Waits i s (.pop (.lq q))) ∧
    (∀ q, goesAhead s p → headThere s p → p.dst = some (.sq q) → s.begun q = none → 8 ≤ (s.b.ctx.sq.get q.toFin).length →
      Waits i s (.push (.sq q)))) ∧
  (∀ (i : Instr) (s : State) (p : Shape), exampleShape s i = some p → Issues .onlyX .user false true s →
    (p.fits = false → Traps i s 1 0) ∧
    (p.fits = true → (∀ e, active s p.k e = false) → headThere s p → roomThere s p → Completes i s (dropped s p)) ∧
    (∀ q, p.fits = true → p.pop = some q → s.b.ctx.lq.get q.toFin = [] → Waits i s (.pop (.lq q))) ∧
    (∀ q, p.fits = true → headThere s p → p.dst = some (.sq q) → s.begun q = none → 8 ≤ (s.b.ctx.sq.get q.toFin).length →
      Waits i s (.push (.sq q)))) ∧
  (∀ (s : State) (d : Dst) (b : Src) (k : BitVec 4), Issues .onlyX .user false true s →
    let p := gateShape s d b k
    let lends := s.prefixed = true → s.b.ctx.xc.pfl.getLsbD 4 = false ∧ s.b.ctx.xc.pfl.extractLsb' 0 4 ≠ 0
    (p.fits = false → Traps (.xgate d b k) s 1 0) ∧
    (p.fits = true → ¬ lends → exec (.xgate d b k) s = .next (trapped s.dropPrefix s.hart 11 s.pc 0)) ∧
    (p.fits = true → lends → vlX s = 0 ∨ (s.b.ctx.rx.es = 0 ∧ ∀ e < min 2048 (vlX s), maskBit s k e = false) → headThere s p →
      roomThere s p → Completes (.xgate d b k) s (dropped s p)) ∧
    (∀ q, p.fits = true → lends → p.pop = some q → s.b.ctx.lq.get q.toFin = [] → Waits (.xgate d b k) s (.pop (.lq q))) ∧
    (∀ q, p.fits = true → lends → headThere s p → p.dst = some (.sq q) → s.begun q = none → 8 ≤ (s.b.ctx.sq.get q.toFin).length →
      Waits (.xgate d b k) s (.push (.sq q))))

/-- R67: an element-by-element instruction stopped at an EG boundary stays at its address with `es` there, has popped nothing, and when it
is executed again leaves what it leaves when it is not stopped. For `vcvt` and `vclamp` that is so but for what they keep of saturated
elements for the completion (log entry 15), and no mask is marked before it. The compares and mask instructions are never stopped; the
example instructions are not among these. -/
def Obligations.StoppedAndResumed : Prop :=
  ∀ (i : Instr) (s : State) (p : Shape) (n : Nat), p.fits = true → Issues .onlyX .user false true s → (∃ e, active s p.k e = true) →
    headThere s p → roomThere s p → s.egStop = some n → s.b.ctx.rx.es.toNat + n * (1024 / sewX s) < vlX s →
    let stops (t : State) := exec i s = .next t ∧ t.hart = s.hart ∧ t.pc = s.pc ∧ t.b.retX = s.b.retX ∧ t.b.ctx.lq = s.b.ctx.lq ∧
      t.b.ctx.rx.es.toNat = s.b.ctx.rx.es.toNat + n * (1024 / sewX s) ∧ t.egStop = none ∧ t.b.ctx.k = s.b.ctx.k
    (shapeOf s i = some p → p.stops = true → ∃ t u, stops t ∧ exec i t = .next u ∧ exec i { s with egStop := none } = .next u) ∧
    (∀ (d : Dst) (st : Reg) (b : Src) (k : BitVec 4),
      i = .vcvt d st b k ∨ i = .vclamp d b k → shapeOf s i = some p →
      ∃ t u v, stops t ∧ exec i t = .next u ∧ exec i { s with egStop := none } = .next v ∧
        ({ u with b := { u.b with ctx := { u.b.ctx with satP := 0 } } } : State) =
          { v with b := { v.b with ctx := { v.b.ctx with satP := 0 } } })

/-- R339, R340, R187, R185, R55, R56: a vector load fills one entry with the bytes at its active elements' addresses, under the hart's own
vector stores that have not performed (R122), zeros elsewhere, pops its mask and index, and changes nothing else but the translations held:
no byte of memory. In the fabric space the owner's bytes (R218). A load waits behind a store of the braid that waits in the fabric, for its
bytes or on its channel (R122, R217, R220). `vpref` only pops. -/
def Obligations.VectorLoads : Prop :=
  ∀ (s : State) (q ix : BitVec 2) (a st : Reg) (g : BitVec 3) (m : Bool), FreshA s → RoomLq s q →
    (∀ p ∈ loadTable s q a st ix g m, p.2.fits = true → HeadsThere s m none p.2.index → ¬ DropsA s m none p.2.index →
      (∀ keys u, s.b.ctx.ac.mt ≠ 3 → NoneWaiting s → gathered s .load (activeAt s m p.2.addr) = .ok (keys, u) →
        u.mem = s.mem ∧ ({ u with tlb := s.tlb } : State) = s ∧ ∃ data, EntryOf s keys data ∧
          Completes p.1 s (pushedA (poppedA (ticketsOn p.2.tickets s u keys.length) m none p.2.index) q ⟨data, false, none⟩)) ∧
      (∀ x l key t, s.b.ctx.ac.mt = 0 → activeAt s m p.2.addr = x :: l → located s 0 x.2 (bytesA s) .load = .ok (key, t) →
        poisonedTo t key (bytesA s) = false → ownWaiting t key (bytesA s) → Waits p.1 s .fabric) ∧
      (∀ f, s.b.ctx.ac.mt = 3 → s.b.ctx.fabric = some f →
        (∀ x ∈ activeAt s m p.2.addr, x.2.toNat % bytesA s = 0 ∧ x.2.extractLsb' 57 7 = 0) →
        (∀ x l, activeAt s m p.2.addr = x :: l → heldBehind s f x.2 = true → Waits p.1 s .fabric) ∧
        ((∀ x ∈ activeAt s m p.2.addr, heldBehind s f x.2 = false) → (fabricGets f s (activeAt s m p.2.addr)).2.mem = s.mem ∧
        ∃ data, (∀ e < 16384 / sewOf (typeA s), (elem data (sewOf (typeA s)) e).toNat =
            ((fabricGets f s (activeAt s m p.2.addr)).1.lookup e).getD 0 % 2 ^ sewOf (typeA s)) ∧
          Completes p.1 s (pushedA (poppedA (fabricGets f s (activeAt s m p.2.addr)).2 m none p.2.index) q ⟨data, false, none⟩)))) ∧
    (HeadsThere s m none none → Completes (.vpref a m) s (poppedA s m none none))

/-- R350 to R353, R120 to R122: a vector store writes its active elements in ascending order, `vstn` its progress word after every EG; it pops its
entries, and no other byte changes, as the hart's vector accesses find them. A turn that lets it perform later leaves memory as it was (R122; log
entry 4); otherwise memory holds what was stored. In the fabric space each element is a fabric store (R218): an EG goes whole, and one behind an
element that waits on a channel of its own stays at the sender, with `es` at it (R67, R220; log entry 99). `vstu`'s order is the model's choice
(log entry 28). -/
def Obligations.VectorStores : Prop :=
  ∀ (s : State) (q ix : BitVec 2) (a st pw : Reg) (g : BitVec 3) (m : Bool), FreshA s → s.poison = [] →
    let apart (w : List (Nat × Nat × Nat)) (k : Nat) := ∀ x ∈ w, k < x.1 ∨ x.1 + x.2.1 ≤ k
    (∀ p ∈ storeTable s q a st ix g m, p.2.fits = true → HeadsThere s m (some q) p.2.index → ¬ DropsA s m (some q) p.2.index →
      (∀ w u, s.b.ctx.ac.mt ≠ 3 → scattered (0, 0, 0) p.2.tickets s (putsOf s m q false p.2.addr) = .ok (w, u) →
        Completes p.1 s (poppedA (ticketsOn p.2.tickets s u w.length) m (some q) p.2.index) ∧
        (s.lazy = true → s.b.ctx.ac.mt = 0 → p.2.tickets = false → u.mem = s.mem) ∧
        (s.Canonical → (∀ k, apart w k → viewed u k = viewed s k) ∧
          (∀ k, apart w k → s.b.out = [] → u.mem.get k = s.mem.get k) ∧
          (∀ l x r, w = l ++ x :: r → (∀ y ∈ r, y.1 + y.2.1 ≤ x.1 ∨ x.1 + x.2.1 ≤ y.1) →
            (s.b.ctx.ac.mt = 0 → viewedValue u x.1 x.2.1 = x.2.2 % 256 ^ x.2.1) ∧
            (s.b.ctx.ac.mt ≠ 0 ∨ s.lazy = false → u.mem.read x.1 x.2.1 = x.2.2 % 256 ^ x.2.1)))) ∧
      (∀ f, s.b.ctx.ac.mt = 3 → s.b.ctx.fabric = some f → FabricFits s f →
        (∀ x ∈ activeAt s m p.2.addr, x.2.toNat % bytesA s = 0 ∧ x.2.extractLsb' 57 7 = 0) →
        let run := fabricRun f (putsOf s m q false p.2.addr) s (List.range ((vlA s + egA s - 1) / egA s))
        (∀ u, run = .ok u → Completes p.1 s (poppedA u m (some q) p.2.index)) ∧
        (∀ n u, run = .error (n, u) → exec p.1 s = .next { u with b := { u.b with
          waitA := some .fabric, ctx := { u.b.ctx with ra := { u.b.ctx.ra with es := BitVec.ofNat 12 (n * egA s) } } } }))) ∧
    (∀ (sc : BitVec 3) key s0 w u, sc.toNat ≤ 5 → s.b.ctx.ac.mt ≠ 3 → HeadsThere s m (some q) none → ¬ DropsA s m (some q) none →
      Reaches s (s.aReg pw) 8 .store key s0 →
      scattered (s.aReg pw, key, sc.toNat) false s0 (putsOf s m q true (unitA s a)) = .ok (w, u) →
      Completes (.vstn q a pw m sc) s (poppedA u m (some q) none) ∧
      (s.Canonical → s.b.cache = [] → (∀ k, apart w k → viewed u k = viewed s k) ∧
        (∀ k, apart w k → s.b.out = [] → u.mem.get k = s.mem.get k)))

/-- R60, R23, R67, R102, R352: a dropped operation pops and performs nothing; a missing mask is waited for; the first element refused traps with
its number in `eei` and `es` at its EG, everything below it done and nothing popped, a load having changed no byte of memory; `vstn`'s word
is checked before all. Which checks and waits a dropped operation still has is log entry 51. -/
def Obligations.VectorMemoryStops : Prop :=
  ∀ (s : State) (q ix : BitVec 2) (a st pw : Reg) (g : BitVec 3) (m : Bool), FreshA s →
    (∀ p ∈ loadTable s q a st ix g m,
      (p.2.fits = false → Traps p.1 s 1 0) ∧
      (p.2.fits = true → RoomLq s q → HeadsThere s m none p.2.index → DropsA s m none p.2.index →
        Completes p.1 s (pushedA (poppedA s m none p.2.index) q ⟨0, true, none⟩)) ∧
      (p.2.fits = true → m = true → s.b.ctx.kq = [] → Waits p.1 s (.pop .kq)) ∧
      (∀ e c u keys, p.2.fits = true → RoomLq s q → HeadsThere s m none p.2.index → ¬ DropsA s m none p.2.index → s.b.ctx.ac.mt ≠ 3 →
        NoneWaiting s → gathered s .load (activeAt s m p.2.addr) = .error (e, c, u, keys) →
        u.mem = s.mem ∧ ({ u with tlb := s.tlb } : State) = s ∧ ∃ data, EntryOf s keys data ∧
          exec p.1 s = .next (trapped { pushedA (ticketsOn p.2.tickets s u keys.length) q ⟨data, false, some e⟩ with
            b := { (pushedA u q ⟨data, false, some e⟩).b with
              ctx := { (pushedA u q ⟨data, false, some e⟩).b.ctx with
                ra := { s.b.ctx.ra with es := BitVec.ofNat 12 (e - e % egA s) } } } } .A c s.pc (BitVec.ofNat 64 e)))) ∧
    (∀ p ∈ storeTable s q a st ix g m, s.b.ctx.ac.mt ≠ 3 →
      (p.2.fits = false → Traps p.1 s 1 0) ∧
      (p.2.fits = true → HeadsThere s m (some q) p.2.index → DropsA s m (some q) p.2.index →
        Completes p.1 s (poppedA s m (some q) p.2.index)) ∧
      (p.2.fits = true → m = true → s.b.ctx.kq = [] → Waits p.1 s (.pop .kq)) ∧
      (∀ e c u n, p.2.fits = true → HeadsThere s m (some q) p.2.index → ¬ DropsA s m (some q) p.2.index → s.poison = [] →
        scattered (0, 0, 0) p.2.tickets s (putsOf s m q false p.2.addr) = .error (e, c, u, n) →
        exec p.1 s = .next (trapped { ticketsOn p.2.tickets s u n with b := { u.b with ctx := { u.b.ctx with
          ra := { s.b.ctx.ra with es := BitVec.ofNat 12 (e - e % egA s) } } } } .A c s.pc (BitVec.ofNat 64 e)))) ∧
    (∀ p, p ∈ loadTable s q a st ix g m → s.b.ctx.ac.mt = 3 → s.b.ctx.fabric = none → p.2.fits = true → RoomLq s q →
      HeadsThere s m none p.2.index → ¬ DropsA s m none p.2.index →
      ∃ t, exec p.1 s = .next (trapped t .A 1 s.pc 0) ∧ t.mem = s.mem ∧ t.b.ctx.kq = s.b.ctx.kq) ∧
    (∀ sc : BitVec 3, sc.toNat ≤ 5 → s.b.ctx.ac.mt ≠ 3 → HeadsThere s m (some q) none →
      (DropsA s m (some q) none → Completes (.vstn q a pw m sc) s (poppedA s m (some q) none)) ∧
      (¬ DropsA s m (some q) none → (s.aReg pw).toNat % 8 ≠ 0 → Traps (.vstn q a pw m sc) s 3 (s.aReg pw)))

/-- R190, R193 to R196, R199: the example instructions that write the table, and `xsetb`; an entry beyond the table is cause 1, for each of
them, and comes before the cause 11 of a prefix (R159). R197 to R200: the example instructions with a destination: `xnorm`, `xwt`, `xcomp`
and the gate. That `xsetb` and `xclr` leave `es` as it was is log entry 67, and that `xcomp` runs under a copying prefix log entry 80. -/
def Obligations.ExampleResults : Prop :=
  (∀ (s : State) (a c x : Reg) (b : Src) (k : BitVec 4),
    let g := fmtX s
    let m := s.b.ctx.rx.mode
    let ent (e : Nat) := entryX s (xbaseOf s + e)
    let va (e : Nat) := g.decode (elem (vec s a) (sewX s) e).toNat
    let vb (e : Nat) := g.decode (elem (sourceBits s b) (sewX s) e).toNat
    let some' {α : Type} (f : Nat → α) (e : Nat) : Option α := if s.b.ctx.rx.es.toNat ≤ e ∧ active s k e = true then some (f e) else none
    let real := 8 ≤ (typeX s).toNat ∧ (typeX s).toNat ≤ 11
    (VecReady s none (popped b) k → InTable s →
      (typeX s ∈ [8, 9, 10] → ∃ t, exec (.xloss b k) s = .next t ∧ FlagsDither s t 0 false ∧
        TableResult s t (popped b) (some' fun e => { ent e with loss := BitVec.ofNat 32 (exactly .f32 (vb e)).1 })) ∧
      (real → ∃ t, exec (.xnacc a b k) s = .next t ∧
        FlagsDither s t (loopFlags s k fun e => (accrue (m e) (ent e) [va e, vb e] ((va e).mul (vb e))).2) true ∧
        TableResult s t (popped b) (some' fun e => (accrue (m e) (ent e) [va e, vb e] ((va e).mul (vb e))).1))) ∧
    (VecReady s none none k → InTable s → real → ∃ t, exec (.xnaccSingle a k) s = .next t ∧
      FlagsDither s t (loopFlags s k fun e => (accrue (m e) (ent e) [va e] (va e)).2) true ∧
      TableResult s t none (some' fun e => (accrue (m e) (ent e) [va e] (va e)).1)) ∧
    (∀ p, VecReady s none (popped b) k → real → LeastPower s p → xbaseOf s + (s.xReg x).toNat < s.b.ctx.xt.length →
      let prod (j : Nat) := if active s k j then round1 .f64 (m j) [va j, vb j] ((va j).mul (vb j)) else (0x8000000000000000, 0)
      let add (i u v : Nat) := round1 .f64 (m i) [Fmt.f64.decode u, Fmt.f64.decode v] ((Fmt.f64.decode u).add (m i).down (Fmt.f64.decode v))
      let sum := tree add (fun j => (prod j).1) p p 0
      let e := (s.xReg x).toNat
      let r := accrue (m 0) (ent e) [Fmt.f64.decode sum] (Fmt.f64.decode sum)
      ∃ t, exec (.xgram x a b k) s = .next t ∧
        FlagsDither s t ((List.range (2 ^ p)).foldl (fun f j => f ||| (prod j).2) (treeFlags add (fun j => (prod j).1) p) ||| r.2) true ∧
        TableResult s t (popped b) fun j => if j = e then some r.1 else none) ∧
    (Issues .onlyX .user false true s → s.prefixed = false →
      ((s.xReg a).toNat ≤ 255 → Completes (.xsetb a) s
        { s with b := { s.b with ctx := { s.b.ctx with xc := { s.b.ctx.xc with xbase := (s.xReg a).setWidth 8 } } } }) ∧
      (s.b.ctx.xt ≠ [] → (s.xReg a).toNat + (s.xReg c).toNat ≤ s.b.ctx.xt.length →
        ∃ l, Completes (.xclr a c) s { s with b := { s.b with ctx := { s.b.ctx with xt := l } } } ∧ l.length = s.b.ctx.xt.length ∧
          ∀ j < l.length, l.getD j ⟨0, 0, 0, 0⟩ =
            if (s.xReg a).toNat ≤ j ∧ j < (s.xReg a).toNat + (s.xReg c).toNat then ⟨0, 0, 0, 0⟩ else entryX s j)) ∧
    (Issues .onlyX .user false true s →
      (255 < (s.xReg a).toNat → Traps (.xsetb a) s 1 0) ∧
      (s.b.ctx.xt = [] ∨ s.b.ctx.xt.length < (s.xReg a).toNat + (s.xReg c).toNat → Traps (.xclr a c) s 1 0) ∧
      (s.prefixed = true → (s.xReg a).toNat ≤ 255 → exec (.xsetb a) s = .next (trapped s.dropPrefix s.hart 11 s.pc 0)) ∧
      (s.prefixed = true → s.b.ctx.xt ≠ [] → (s.xReg a).toNat + (s.xReg c).toNat ≤ s.b.ctx.xt.length →
        exec (.xclr a c) s = .next (trapped s.dropPrefix s.hart 11 s.pc 0)) ∧
      (s.b.ctx.xt.length ≤ xbaseOf s + (s.xReg x).toNat → Traps (.xgram x a b k) s 1 0) ∧
      (¬ InTable s → Traps (.xloss b k) s 1 0 ∧ Traps (.xnacc a b k) s 1 0 ∧ Traps (.xnaccSingle a k) s 1 0 ∧
        ∀ (d : Dst) (sel : Reg), Traps (.xnorm d k) s 1 0 ∧ Traps (.xwt d k) s 1 0 ∧ Traps (.xcomp d a sel k) s 1 0 ∧
          Traps (.xgate d b k) s 1 0))) ∧
  (∀ (s : State) (d : Dst) (c sel : Reg) (b : Src) (k : BitVec 4), InTable s →
    let g := fmtX s
    let m := s.b.ctx.rx.mode
    let ent (e : Nat) := entryX s (xbaseOf s + e)
    let n (e : Nat) := Fmt.f64.decode (ent e).nsq.toNat
    (VecReady s (some d) none k →
      (typeX s = 10 ∨ typeX s = 11 → ∃ t, exec (.xnorm d k) s = .next t ∧
        FlagsDither s t (loopFlags s k fun e => (round1 g (m e) [n e] (n e).sqrt).2) true ∧
        VecResult s t d none (loop s k fun e => (round1 g (m e) [n e] (n e).sqrt).1)) ∧
      (typeX s = 10 → ∃ t, exec (.xwt d k) s = .next t ∧ FlagsDither s t 0 false ∧
        VecResult s t d none (loop s k fun e => (ent e).w.toNat)) ∧
      (typeX s ∈ [1, 2, 3, 5, 6, 7] → sel.toNat ≤ 5 →
        let chosen := (List.range 2048).filter fun e => active s k e &&
          (if sel = 1 then !(ent e).flags.getLsbD 3 else (ent e).flags.getLsbD (if sel = 0 then 0 else sel.toNat - 1))
        ∃ t, exec (.xcomp d c sel k) s = .next t ∧ FlagsDither s t 0 false ∧
          (∀ r, t.xReg r = if r = c ∧ c ≠ 0 then BitVec.ofNat 64 chosen.length else s.xReg r) ∧
          VecResult s (withTableOf s t) d none (fun j => if j < vlX s ∧ j < 2048 then some (chosen.getD j 0) else none))) ∧
    (Issues .onlyX .user false true s → s.egStop = none → typeX s = 10 → (∃ e < 2048, e < vlX s ∧ maskBit s k e = true) →
      headThere s ⟨some d, popped b, k, 1, true, true⟩ → roomThere s ⟨some d, popped b, k, 1, true, true⟩ →
      (s.prefixed = true → s.b.ctx.xc.pfl.getLsbD 4 = false ∧ s.b.ctx.xc.pfl.extractLsb' 0 4 ≠ (0 : BitVec 4)) →
      let kd : BitVec 4 := if s.prefixed then s.b.ctx.xc.pfl.extractLsb' 0 4 else 1
      let here (e : Nat) : Bool := decide (s.b.ctx.rx.es.toNat ≤ e) && decide (e < vlX s) && decide (e < 2048) && maskBit s k e
      let r (e : Nat) := gated s.b.ctx.xc (m e) (ent e) (elem (sourceBits s b) 32 e).toNat
      ∃ t, exec (.xgate d b k) s = .next t ∧
        FlagsDither s t ((List.range 2048).foldl (fun f e => if here e then f ||| (r e).2.2.2 else f) 0) true ∧
        VecResult s (withTableOf s t) d (popped b) (fun e => if here e then some (r e).1 else none) ∧
        Entries s t (fun e => if here e then some { ent e with w := BitVec.ofNat 32 (r e).1, flags := (r e).2.1 } else none) ∧
        (∀ e < 2048, (t.b.ctx.k.get kd.toFin).getLsbD e = (decide (e < vlX s) &&
          if e < s.b.ctx.rx.es.toNat then maskBit s kd e else here e && (r e).2.2.1)) ∧
        t.b.ctx.kf.getLsbD kd.toNat = ((List.range (min 2048 (vlX s))).all fun e => !(t.b.ctx.k.get kd.toFin).getLsbD e) ∧
        (∀ j ≠ kd, t.b.ctx.k.get j.toFin = s.b.ctx.k.get j.toFin ∧ t.b.ctx.kf.getLsbD j.toNat = s.b.ctx.kf.getLsbD j.toNat) ∧
        t.b.ctx.x = s.b.ctx.x))

/-- R172 to R174, R177 to R179, R213: attaching, detaching, filling, swapping and clearing, and the statistics read. A request is granted
what the quad has free beyond the requests before it (R156, R307). -/
def Obligations.MatrixPlanes : Prop :=
  ∀ (s : State) (d a sel : Reg) (b : Src) (c : BitVec 1), Issues .onlyX .user false false s →
    let req := (s.xReg a).toNat
    let g := min req (openMatt s)
    let m := s.b.ctx.mx
    let n := vlX s / 64
    (s.rset = none → 1 ≤ req → req ≤ 4 → heldSlices s = 0 →
      Completes (.matt d a) s (esZero (State.setX (withXc (withMx (notAsking s) ⟨⟨0, []⟩, ⟨0, []⟩, ⟨false, 0, 0, 0⟩, ⟨false, 0, 0, 0⟩, none⟩)
        { s.b.ctx.xc with mgrant := BitVec.ofNat 3 g }) d (BitVec.ofNat 64 g)))) ∧
    (req = 0 ∨ 4 < req ∨ heldSlices s ≠ 0 → Traps (.matt d a) s 1 0) ∧
    Completes .mdet s (esZero { withXc (withMx s ⟨⟨0, []⟩, ⟨0, []⟩, ⟨false, 0, 0, 0⟩, ⟨false, 0, 0, 0⟩, none⟩) { s.b.ctx.xc with mgrant := 0 } with
      b := { (withXc (withMx s ⟨⟨0, []⟩, ⟨0, []⟩, ⟨false, 0, 0, 0⟩, ⟨false, 0, 0, 0⟩, none⟩) { s.b.ctx.xc with mgrant := 0 }).b with
        tab := ⟨[], [], [], false, false⟩ } }) ∧
    (¬ planeType (typeX s) → Traps (.mlds b) s 1 0) ∧
    (planeType (typeX s) → vlX s % 64 = 0 →
      (m.shadow.rows ≠ [] → m.shadow.ty ≠ typeX s → Traps (.mlds b) s 1 0) ∧
      (heldSlices s = 0 → m.shadow.rows = [] ∨ m.shadow.ty = typeX s → Traps (.mlds b) s 18 0) ∧
      (heldSlices s ≠ 0 → vlX s = 0 → m.shadow.rows = [] ∨ m.shadow.ty = typeX s → SourceThere s b →
        Completes (.mlds b) s { esZero (poppedX s (popped b)) with egStop := none }) ∧
      (heldSlices s ≠ 0 → vlX s ≠ 0 → m.shadow.rows = [] ∨ m.shadow.ty = typeX s →
        (m.shadow.rows.length + n ≤ rowsFor (typeX s) * heldSlices s → SourceThere s b →
          Completes (.mlds b) s (esZero (poppedX (withMx s { m with
            shadow := ⟨typeX s, m.shadow.rows ++ (List.range n).map (row64 (sourceBits s b) (sewX s))⟩ }) (popped b)))) ∧
        (rowsFor (typeX s) * heldSlices s < m.shadow.rows.length + n → Traps (.mlds b) s 18 0))) ∧
    (heldSlices s = 0 → Traps .mswap s 18 0 ∧ Traps (.mzero c) s 18 0) ∧
    (heldSlices s ≠ 0 →
      Completes .mswap s (esZero (withMx s { m with active := m.shadow, shadow := ⟨0, []⟩ })) ∧
      Completes (.mzero c) s (esZero (withXc (withMx s (withAcc m c ⟨typeX s == 11, 0, 0, 0⟩))
        (if s.b.ctx.xc.statTag = c then { s.b.ctx.xc with mscnt := 0, mfro := 0, mvar := 0 } else s.b.ctx.xc)))) ∧
    (sel.toNat ≤ 4 → Completes (.mstat d sel) s (s.setX d (match sel.toNat with
      | 0 => s.b.ctx.xc.mscnt
      | 1 => s.b.ctx.xc.mvar
      | 2 => s.b.ctx.xc.mfro
      | 3 => if s.b.tab.valid then BitVec.ofNat 64 s.b.tab.weights.length else 0
      | _ => s.b.ctx.xc.mz)))

/-- R90, R180: `mstr` adds each row's products to the accumulator row at the stream cursor, in groups, and moves the cursor on; the groups of
element types are stated. R182: `mdrn` delivers rows rounded and clamped, and moves the drain cursor. That a drain whose rounding overflows
sets OF beside CL is log entry 18, and UF beside CL log entry 60. -/
def Obligations.MatrixProducts : Prop :=
  ∀ (s : State) (c : BitVec 1) (a : Reg) (b : Src) (d : Dst) (v : Bool), Issues .onlyX .user false false s → heldSlices s ≠ 0 → vlX s ≠ 0 →
    let rows := (s.xReg a).toNat
    let acc := accOf s c
    let p := s.b.ctx.mx.active
    let ka := p.rows.length
    (1 ≤ rows → rows ≤ 64 → acc.sc + rows ≤ accRows acc → vlX s = rows * ka → (p.ty = 11 ↔ acc.f64 = true) → SourceThere s b →
      typeX s = p.ty ∨ (typeX s ∈ [12, 13] ∧ p.ty ∈ [12, 13]) →
      ∃ new : Acc, ∃ fl : Flags,
        Completes (.mstr c a b) s (esZero (poppedX (withMx (s.setHr { s.b.ctx.rx with fsts := s.b.ctx.rx.fsts ||| fl })
          (withAcc s.b.ctx.mx c new)) (popped b))) ∧
        new.f64 = acc.f64 ∧ new.sc = (acc.sc + rows) % accRows acc ∧ new.dc = acc.dc ∧
        (∀ r col, r < accRows acc → col < 64 → r < acc.sc ∨ acc.sc + rows ≤ r → accCode new r col = accCode acc r col) ∧
        (8 ≤ (typeX s).toNat → (typeX s).toNat ≤ 13 → ∀ r col, r < rows → col < 64 → accCode new (acc.sc + r) col =
          (dotGroups (accFmt acc) (if acc.f64 then 1 else 8) ka (accCode acc (acc.sc + r) col) (pairsOf s (sourceBits s b) ka r col)).1)) ∧
    (1 ≤ rows → rows ≤ 64 → accRows acc < acc.sc + rows ∨ vlX s ≠ rows * ka → Traps (.mstr c a b) s 1 0) ∧
    (1 ≤ rows → rows ≤ 64 → vlX s = rows * 64 → acc.dc + rows ≤ accRows acc → 8 ≤ (typeX s).toNat → (typeX s).toNat ≤ 13 →
      roomThere s ⟨some d, none, 0, 1, true, false⟩ →
      let here (e : Nat) : Bool := decide (e < vlX s) && decide (e < 2048)
      ∃ t, exec (.mdrn c a d v) s = .next t ∧
        FlagsDither s t ((List.range (min 2048 (vlX s))).foldl (fun f e => f ||| (drained s acc v e).2.1) 0) true ∧
        VecResult s (withMx (withMasksOf s t) s.b.ctx.mx) d none (fun e => if here e then some (drained s acc v e).1 else none) ∧
        Marked s t (fun e => here e && (drained s acc v e).2.2) ∧
        t.b.ctx.mx = withAcc s.b.ctx.mx c { acc with dc := (acc.dc + rows) % accRows acc })

/-- R90's step for finite numbers: what stands and the products are added without rounding, and the sum is rounded once to nearest even. -/
def Obligations.AccumulationRoundsOnce : Prop :=
  ∀ (g : Fmt) (acc : Nat) (n : Bool) (m : Nat) (e : Int) (l : List (FVal × Bool)), g.decode acc = .fin n m e →
    (∀ p ∈ l, ∃ a b c, p.1 = .fin a b c) →
    let sum := l.foldl (fun x p => x.add false p.1) (g.decode acc)
    accumulate g acc l = g.round .rne sum ∧ (∃ a b c, sum = .fin a b c) ∧
      valueOf sum = (l.map fun p => valueOf p.1).foldr (· + ·) (valueOf (g.decode acc))

/-- R209: `albld` appends weights, empties the table first with `.f`, and builds with `.l`; a weight that cannot be drawn from gives NaN and
NV. R211: `msamp` ends with its status at a batch start, where the stop test of 0 times infinity sets NV (the model's choice in what else the
test rounds and flags is log entry 93), or draws its sixteen samples. -/
def Obligations.SampledProducts : Prop :=
  ∀ (s : State) (b : Src) (l f : Bool) (c : BitVec 1) (a : Reg) (y z i : BitVec 2), Issues .onlyX .user false false s →
    let old := if f then [] else s.b.tab.weights
    let w := old ++ (List.range (vlX s)).map fun e => elem (sourceBits s b) 32 e
    let tabled (t : AliasTab) : State := { s with b := { s.b with tab := t } }
    (typeX s ≠ 10 ∨ (f = false ∧ s.b.tab.open_ = false) → Traps (.albld b l f) s 1 0) ∧
    (typeX s = 10 → f = true ∨ s.b.tab.open_ = true → heldSlices s ≠ 0 → vlX s ≠ 0 →
      (16384 * heldSlices s < old.length + vlX s → Traps (.albld b l f) s 18 0) ∧
      (old.length + vlX s ≤ 16384 * heldSlices s → SourceThere s b → vlX s ≤ 512 →
        (l = false → Completes (.albld b l f) s (esZero (poppedX (tabled ⟨w, [], [], false, true⟩) (popped b)))) ∧
        (l = true → w.any refusedWeight = true → Completes (.albld b l f) s (esZero (poppedX
          ((withXc (tabled ⟨w, [], [], false, false⟩) { s.b.ctx.xc with mz := 0x7FF8000000000000 }).setHr
            { s.b.ctx.rx with fsts := s.b.ctx.rx.fsts ||| 0x10 }) (popped b)))) ∧
        (l = true → w.any refusedWeight = false → ∀ t n, buildTable w = some (t, n) →
          Completes (.albld b l f) s (esZero (poppedX (withXc (tabled t) { s.b.ctx.xc with mz := BitVec.ofNat 64 n }) (popped b)))))) ∧
    (s.b.ctx.mx.batch = none → maySample s c → heldSlices s ≠ 0 →
      (∀ st, samplingEnds s (s.xReg a) = some st → s.b.ctx.tqx.length < 32 →
        Completes (.msamp c a y z i) s (esZero { (State.setX (withXc s { s.b.ctx.xc with statTag := c }) a (BitVec.ofNat 64 st)) with
          b := { (State.setX (withXc s { s.b.ctx.xc with statTag := c }) a (BitVec.ofNat 64 st)).b with
            ctx := { (State.setX (withXc s { s.b.ctx.xc with statTag := c }) a (BitVec.ofNat 64 st)).b.ctx with
              tqx := s.b.ctx.tqx ++ [0]
              rx := { s.b.ctx.rx with
                fsts := s.b.ctx.rx.fsts ||| testFlags s, dord := if st = 2 then s.b.ctx.rx.dord else s.b.ctx.rx.dord + 1 } } } })) ∧
      (samplingEnds s (s.xReg a) = none → ∀ ey ez, y ≠ z → vlX s = 1024 → s.b.ctx.lq.get y.toFin = [ey] → s.b.ctx.lq.get z.toFin = [ez] →
        ey.part = none → ez.part = none → s.b.ctx.tqx.length < 32 → (s.b.ctx.sq.get i.toFin).length ≤ 6 →
        ∃ t, exec (.msamp c a y z i) s = .next t ∧ t.hart = s.hart ∧ t.pc = s.pc ∧ t.b.retX = s.b.retX ∧
          (∃ fl, t.b.ctx.rx.fsts = s.b.ctx.rx.fsts ||| testFlags s ||| fl) ∧ t.b.ctx.xc.mscnt = s.b.ctx.xc.mscnt + 16 ∧ t.b.ctx.tqx = s.b.ctx.tqx ++ [1] ∧ t.b.ctx.lq.get y.toFin = [] ∧
          t.b.ctx.lq.get z.toFin = [] ∧ t.b.ctx.rx.dord = s.b.ctx.rx.dord ∧ t.b.ctx.mx.active = s.b.ctx.mx.active ∧
          (∃ e : Entry, t.b.ctx.sq.get i.toFin = s.b.ctx.sq.get i.toFin ++ [e, e] ∧ e.flagged = false ∧ e.part = none ∧
            ∀ j < 1024, (elem e.data 16 j).toNat = if j < 16 then (drawn s (s.b.ctx.xc.mscnt.toNat + j)).1 % 65536 else 0) ∧
          ∀ m col, m < 64 → col < 64 → accCode (accOf t c) m col =
            let pairs := (List.range 16).map fun j =>
              let x := ((fmtX s).decode (elem ez.bits 16 (64 * j + m)).toNat)
              (x.mul ((fmtX s).decode (elem ey.bits 16 (64 * j + col)).toNat), Fmt.f32.decode (drawn s (s.b.ctx.xc.mscnt.toNat + j)).2.toNat)
            (dotGroups .f32 8 16 (accCode (accOf s c) m col) pairs).1))

/-- R133, R134, R126, R127: every scalar atomic reads and writes its location at home, in one step and behind the hart's own stores to it (R119,
R122; O37 says what has performed), returns the old value extended, and does its acquire and release; a refused address traps and performs
nothing; `fadd` in deterministic mode is cause 19. -/
def Obligations.AtomicResults : Prop :=
  ∀ (s : State) (d a b : Reg) (f : Bool) (o : AmoMod), Issues .onlyA .user false false s → ∀ p ∈ amoTable s d a b f o,
    let n := if o.w then 4 else 8
    let va := s.aReg a
    let float := decide (p.1 = .amoFadd d a b o)
    (∀ key t, s.rset = none → s.b.buf = [] → (float = true → s.det = false) → Reaches s va n .atomic key t →
      (reached key n t).poisoned key n = false →
      let u := atHome o key n t
      let x := u.mem.read key n
      let r := p.2.2 (8 * n) (BitVec.ofNat _ x) ((s.aReg b).setWidth _) ((s.aReg d).setWidth _)
      Completes p.1 s (State.setA (flaggedA (leftHome o key n r.1 u) r.2 float) d
        (if p.2.1 then (BitVec.ofNat (8 * n) x).signExtend 64 else BitVec.ofNat 64 x)) ∧
      (s.Canonical → s.b.cache = [] → s.b.out = [] → (∀ c ∈ s.rest, c.out = []) → x = s.mem.read key n ∧ (leftHome o key n r.1 u).mem.read key n = r.1 % 2 ^ (8 * n) ∧
        ∀ k, k < key ∨ key + n ≤ k → (leftHome o key n r.1 u).mem.get k = s.mem.get k)) ∧
    ((float = true → s.det = false) → va.toNat % n ≠ 0 → Traps p.1 s 3 va) ∧
    ((float = true → s.det = false) → va.toNat % n = 0 → va.extractLsb' 57 7 ≠ 0 → Traps p.1 s 6 va) ∧
    (∀ c, (float = true → s.det = false) → va.toNat % n = 0 → va.extractLsb' 57 7 = 0 → s.ownCheck va.toNat n .atomic = .error c →
      Traps p.1 s c va) ∧
    (∀ key t, s.b.buf = [] → (float = true → s.det = false) → Reaches s va n .atomic key t → (reached key n t).poisoned key n = true →
      exec p.1 s = .next (trapped (reached key n t) .A 7 s.pc va)) ∧
    (float = true → s.det = true → Traps p.1 s 19 0)

/-- R136, R137, R331: each active element is updated at its own address, behind the hart's vector stores (R122), and no old value is returned;
two elements at one address are cause 8, and none performs, `es` staying as it was (log entry 75). The order among the elements is the
model's (log entry 28). -/
def Obligations.VectorAtomicResults : Prop :=
  ∀ (s : State) (q ix : BitVec 2) (a : Reg) (m : Bool), FreshA s → ∀ p ∈ vamoTable q a ix m,
    let l := activeAt s m (atomicAddr s a ix)
    (q = ix ∨ s.b.ctx.ac.mt = 3 ∨ ¬ opTypes p.2 (typeA s) → Traps p.1 s 1 0) ∧
    (q ≠ ix → s.b.ctx.ac.mt ≠ 3 → opTypes p.2 (typeA s) → (p.2 = 1 → s.det = false) → HeadsThere s m (some q) (some ix) →
      (DropsA s m (some q) (some ix) → Completes p.1 s (poppedA (flaggedA s 0 (p.2 == 1)) m (some q) (some ix))) ∧
      (¬ DropsA s m (some q) (some ix) → (∃ r, gathered (performed s) .atomic l = .ok r) →
        (∀ u fl, (l.map (·.2)).Nodup → updated (fun e x => stepOf s p.2 e x (dataA s q e)) (performed s) l = some (u, fl) →
          Completes p.1 s (poppedA (flaggedA u fl (p.2 == 1)) m (some q) (some ix))) ∧
        (∀ pre e va post, l = pre ++ (e, va) :: post → va ∈ pre.map (·.2) → (pre.map (·.2)).Nodup →
          exec p.1 s = .next (trapped (performed s) .A 8 s.pc (BitVec.ofNat 64 e))))) ∧
    (q ≠ ix → s.b.ctx.ac.mt ≠ 3 → opTypes p.2 (typeA s) → p.2 = 1 → s.det = true → Traps p.1 s 19 0)

/-- R139 to R141, R296, R297: opening a window fills its sixteen copies with the identity, `aacc` adds into them lane by lane, `amerge` combines
them into the target in lane order, behind the hart's vector stores (R122), and fills them again, `awclose` closes it. What `eei` holds
after `awin`'s causes 3 and 6 is log entry 19, and the Dither index of a merge log entry 74. -/
def Obligations.WindowResults : Prop :=
  ∀ (s : State) (a b : Reg) (o : BitVec 3) (w q ix : BitVec 2) (m : Bool), FreshA s →
    let v := s.aReg b
    let len := (v.extractLsb' 0 17).toNat
    let pool := (v.extractLsb' 20 20).toNat
    let x : Window := ⟨s.aReg a, len, pool, o, typeA s⟩
    let fits := v.extractLsb' 17 3 = 0 ∧ v.extractLsb' 40 24 = 0 ∧ o.toNat ≤ 3 ∧ windowOf s w = none ∧ opTypes o.toNat (typeA s)
    let sized := 8 ≤ len ∧ len ≤ 65536 ∧ len % 8 = 0 ∧ pool % 8 = 0 ∧ (s.aReg a).toNat % 8 = 0
    (fits → sized → pool + 16 * len ≤ 2 ^ 20 → Completes (.awin a b o w) s (withWindow (copiesFilled s x) w (some x))) ∧
    (¬ fits → Traps (.awin a b o w) s 1 0) ∧ (fits → ¬ sized → Traps (.awin a b o w) s 3 (s.aReg a)) ∧
    (fits → sized → 2 ^ 20 < pool + 16 * len → Traps (.awin a b o w) s 6 (BitVec.ofNat 64 (pool + 16 * len))) ∧
    (windowOf s w = none → Traps (.aacc q ix m w) s 1 0 ∧ Traps (.amerge w) s 1 0 ∧ Traps (.awclose w) s 1 0) ∧
    (∀ y, windowOf s w = some y → y.ty ≠ typeA s ∨ q = ix → Traps (.aacc q ix m w) s 1 0) ∧
    (∀ y, windowOf s w = some y → Completes (.awclose w) s (withWindow s w none)) ∧
    (∀ y, windowOf s w = some y → y.op.toNat ≤ 3 → opTypes y.op.toNat y.ty → s.poison = [] →
      (y.ty = typeA s → q ≠ ix → HeadsThere s m (some q) (some ix) → ¬ DropsA s m (some q) (some ix) →
        (∀ e, activeA s m e = true → (elem (indexA s (some ix)) (sewOf (typeA s)) e).toNat * bytesA s < y.len) →
        Completes (.aacc q ix m w) s (poppedA (flaggedA (laneAdded s y q ix ((List.range 2048).filter (activeA s m))) 0 (y.op == 1))
          m (some q) (some ix))) ∧
      (∀ u fl, (∀ e < y.len / (sewOf y.ty / 8), (y.base + BitVec.ofNat 64 (e * (sewOf y.ty / 8))).extractLsb' 57 7 = 0 ∧
          ∃ r, (performed s).ownCheck (y.base + BitVec.ofNat 64 (e * (sewOf y.ty / 8))).toNat (sewOf y.ty / 8) .atomic = .ok r) →
        y.ty = typeA s → mergedInto (performed s) y (stepOf s y.op.toNat) (List.range (y.len / (sewOf y.ty / 8))) = some (u, fl) →
        Completes (.amerge w) s (flaggedA (copiesFilled u y) fl (y.op == 1))))

/-- R142 to R144, R315, R316: `post` releases and marks its iterations, the frontier moving over the ranges that now join it; it waits, with
nothing marked, while it would need a ninth pending range. `wait` completes at its frontier and acquires. `lpbind` binds. -/
def Obligations.AlmanacFrontiers : Prop :=
  ∀ (s : State) (a b l : Reg), Issues .both .user false false s → s.rset = none → l.toNat < 16 →
    let n := (s.reg a).toNat
    let cnt := (s.reg b).toNat
    (s.b.binds.getLsbD l.toNat = false ∨ 2 ^ 48 < n + cnt → Traps (.post a b l) s 1 0) ∧
    (s.b.binds.getLsbD l.toNat = false ∨ 2 ^ 48 < n → Traps (.wait a l) s 1 0) ∧
    Completes (.lpbind l) s { s with b := { s.b with binds := s.b.binds ||| BitVec.ofNat 16 (2 ^ l.toNat) } } ∧
    (∀ p, s.b.binds.getLsbD l.toNat = true → HasLoop s l p →
      (n ≤ 2 ^ 48 → n ≤ p.f → Completes (.wait a l) s (acquired s 4)) ∧
      (n ≤ 2 ^ 48 → p.f < n → Waits (.wait a l) s (.almanac l n)) ∧
      (n + cnt ≤ 2 ^ 48 → cnt = 0 ∨ n + cnt ≤ p.f → Completes (.post a b l) s (released s 4)) ∧
      (n + cnt ≤ 2 ^ 48 → cnt ≠ 0 → p.f < n + cnt → LoopOk p →
        let full := p.f < n ∧ p.pend.length = 8 ∧ ∀ r ∈ p.pend, r.2 < n ∨ n + cnt < r.1
        (full → exec (.post a b l) s = .next ((released s 4).setWait (some (.post l n cnt)))) ∧
        (¬ full → ∃ q, LoopOk q ∧ (∀ i, posted q i ↔ posted p i ∨ n ≤ i ∧ i < n + cnt) ∧
          Completes (.post a b l) s (withLoop (released s 4) l q))))

/-- R145, R146, R301: arrivals, tokens and phases; `bwait` and its statuses; `binit`, which sends a hart blocked at the barrier on with
status 1. R147, R318, R319: `mwait` returns 2 when the table is full, 0 and an acquire when the word differs, 3 when an interrupt 32 can be
taken, and else waits, holding a monitor entry; one that has waited looks for the interrupt first. That `barr` raises cause 1 on an
uninitialised barrier after its release is log entry 41; that the word is compared in memory, behind the hart's own vector stores to it (O37),
and the entry held while it waits is log entry 48. -/
def Obligations.BarriersAndMonitors : Prop :=
  (∀ (s : State) (d a b : Reg), Issues .both .user false false s → s.rset = none →
    let n := (s.reg a).toNat
    let x := barrierOf s n
    let cnt := (s.reg b).toNat
    let tok := s.reg a
    let m := (tok.extractLsb' 8 8).toNat
    let y := barrierOf s m
    (79 < n → Traps (.barr d a) s 1 0) ∧
    (n ≤ 79 → x.count = 0 → exec (.barr d a) s = .next (trapped (released s (scopeOf n)) s.hart 1 s.pc 0)) ∧
    (n ≤ 79 → x.count ≠ 0 → Completes (.barr d a) s
      ((withBarrier (released s (scopeOf n)) n (if x.arrivals + 1 = x.count then { x with phase := x.phase + 1, arrivals := 0 }
        else { x with arrivals := x.arrivals + 1 })).setReg d
        (BitVec.ofNat 64 (x.phase.toNat + n * 2 ^ 8 + x.arrivals.toNat * 2 ^ 16)))) ∧
    (tok.extractLsb' 32 32 ≠ 0 ∨ 79 < m → Traps (.bwait d a) s 1 0) ∧
    (tok.extractLsb' 32 32 = 0 → m ≤ 79 →
      let p : BitVec 8 := tok.setWidth 8
      (y.count ≠ 0 → y.phase = p → Waits (.bwait d a) s (.barrier d tok)) ∧
      (y.count ≠ 0 → y.phase = p + 1 → Completes (.bwait d a) s ((acquired s (scopeOf m)).setReg d 0)) ∧
      (y.count = 0 ∨ (y.phase ≠ p ∧ y.phase ≠ p + 1) → Completes (.bwait d a) s (s.setReg d 1))) ∧
    (79 < n ∨ cnt = 0 ∨ 65535 < cnt → Traps (.binit a b) s 1 0) ∧
    (n ≤ 79 → 1 ≤ cnt → cnt ≤ 65535 → (s.braids.map (·.id)).Nodup →
      let u := withBarrier s n ⟨BitVec.ofNat 16 cnt, 0, 0⟩
      (∀ c ∈ s.rest, ∀ h, ¬ BlockedAt s c h (barrierPlace s n)) → s.waitOf s.hart = none →
        (¬ BlockedAt s s.b (otherHart s.hart) (barrierPlace s n) → Completes (.binit a b) s u) ∧
        (∀ d' tok', s.waitOf (otherHart s.hart) = some (.barrier d' tok') →
          barrierPlace s (tok'.extractLsb' 8 8).toNat = barrierPlace s n →
          Completes (.binit a b) s { (({ u with hart := otherHart s.hart }).setReg d' 1).retire with hart := s.hart }))) ∧
  (∀ (s : State) (d a b : Reg), Issues .onlyA .user false false s → s.rset = none →
    let va := s.aReg a
    let old := s.aReg b
    (va.toNat % 8 ≠ 0 → Traps (.mwait d a b) s 3 va) ∧
    (va.toNat % 8 = 0 → va.extractLsb' 57 7 ≠ 0 → Traps (.mwait d a b) s 6 va) ∧
    (∀ c, va.toNat % 8 = 0 → va.extractLsb' 57 7 = 0 → s.own va.toNat 8 .load = .error c → Traps (.mwait d a b) s c va) ∧
    (∀ key t, Reaches s va 8 .load key t → t.poisoned key 8 = false →
      let u := t.settleBytes key 8
      (monitorsTaken s → Completes (.mwait d a b) s ((withMonitor u false).setA d 2)) ∧
      (s.b.monitor = true → s.b.irq32 = true → s.b.status.getLsbD 7 = true →
        Completes (.mwait d a b) s ((withMonitor u false).setA d 3)) ∧
      (¬ monitorsTaken s → u.mem.read key 8 ≠ old.toNat → ¬ (s.b.monitor = true ∧ s.b.irq32 = true ∧ s.b.status.getLsbD 7 = true) →
        Completes (.mwait d a b) s ((acquired (withMonitor u false) 4).setA d 0)) ∧
      (¬ monitorsTaken s → u.mem.read key 8 = old.toNat → s.b.irq32 = true → s.b.status.getLsbD 7 = true →
        Completes (.mwait d a b) s ((withMonitor u false).setA d 3)) ∧
      (¬ monitorsTaken s → u.mem.read key 8 = old.toNat → ¬ (s.b.irq32 = true ∧ s.b.status.getLsbD 7 = true) →
        exec (.mwait d a b) s = .next ((withMonitor u true).setWait (some (.word d va old))))))

/-- R96, R117, R118, R122, R124, R129, R130: what each fence does to the hart's cache and vector stores, by scope; what a write-back and the
performing of vector stores leave in memory, of all of them and of those that an access of the hart follows; what an acquire performs;
`fence.eng` waits for the braid's jobs and streams; `fence.xp` lets the results of completed chunks reach memory (log entry 23). R308, R309,
R325, R326: `tlbinv` waits for an empty release buffer, releases, lets what was translated before perform (log entry 69), and drops the
translations it names; `dcwb` and `dcinv` reach exactly the bytes of their range (log entry 10). -/
def Obligations.FencesAndMaintenance : Prop :=
  (∀ (s : State) (sc : Reg), Issues .both .user false false s → s.rset = none →
    Completes .fenceSv s (match s.hart with | .A => s.cacheWriteback | .X => s) ∧
    Completes .fenceVs s (match s.hart with | .A => (performed s).cacheFlush | .X => s) ∧
    Completes (.fenceAcq sc) s (acquired s sc.toNat) ∧ Completes (.fenceRel sc) s (released s sc.toNat) ∧
    Completes (.fenceFull sc) s (acquired (released s sc.toNat) sc.toNat) ∧
    (s.hart = .X → Completes .fenceXp s s) ∧ (s.hart = .A → (∀ i ∈ s.b.buf, i.space ≠ 3) → Completes .fenceXp s (resultsIn s)) ∧
    (s.hart = .A → (∃ i ∈ s.b.buf, i.space = 3) → Waits .fenceXp s .buffered) ∧
    (EnginesDone s → Completes .fenceEng s (released s 4)) ∧ (¬ EnginesDone s → Waits .fenceEng s .engines)) ∧
  (∀ (s : State) (n : Nat) (key : Nat), s.Canonical →
    let w := s.cacheWriteback
    ((s.b.cache.map Line.tag).Nodup → s.poison = [] →
      s.cacheFlush.b.cache = [] ∧ s.cacheFlush.mem.get key = w.mem.get key ∧ dirtyAt w key = false ∧ seen w key = seen s key ∧
      (w.mem.get key).toNat = if dirtyAt s key = true then seen s key else (s.mem.get key).toNat) ∧
    (performed s).b.out = [] ∧ ((performed s).mem.get key).toNat = viewed s key ∧
    ((s.braids.map (·.id)).Nodup → ∀ c ∈ (s.observe n).rest, ∀ i ∈ c.out,
      ¬ (within (i.level - 1) c.core s.b.core = true ∧ within n s.b.core c.core = true)) ∧
    ((∀ c ∈ s.rest, c.out = []) → s.observe n = s) ∧
    (∀ of : BufItem → Bool, let u := s.settleOut of
      (∃ l, s.b.out = l ++ u.b.out) ∧ (∀ i ∈ u.b.out, of i = false) ∧ viewed u key = viewed s key ∧
      ((∀ i ∈ s.b.out, of i = false) → u = s)) ∧
    (∀ i ∈ (s.settleBytes key n).b.out, i.home = true → i.key + i.size ≤ key ∨ key + n ≤ i.key) ∧
    (∀ i ∈ (s.settleLine key).b.out, i.home = true → i.level ≠ 0 → i.key + i.size ≤ key / 64 * 64 ∨ key / 64 * 64 + 64 ≤ i.key)) ∧
  (∀ (s : State) (a b : Reg),
    (Issues .onlyA .system false false s →
      let v := s.aReg a
      let asn : BitVec 16 := (s.aReg b).setWidth 16
      let u := (released s 4).performOthers
      (s.b.buf = [] →
        Completes (.tlbinvAll a b) s (withTlb u fun _ => false).rekeyOthers ∧
        ((s.aReg b).toNat < 2 ^ 16 → Completes (.tlbinvAsn a b) s (withTlb u fun t => t.pte.getLsbD 5 || t.asn != asn).rekeyOthers) ∧
        ((s.aReg b).toNat < 2 ^ 16 → v.extractLsb' 57 7 = 0 → Completes (.tlbinvPage a b) s (withTlb u fun t =>
          !(decide (t.vbase ≤ v.toNat) && decide (v.toNat < t.vbase + t.size)) || (!t.pte.getLsbD 5 && t.asn != asn)).rekeyOthers)) ∧
      (s.b.buf ≠ [] → Waits (.tlbinvAll a b) s .buffered ∧ ((s.aReg b).toNat < 2 ^ 16 → Waits (.tlbinvAsn a b) s .buffered ∧
        (v.extractLsb' 57 7 = 0 → Waits (.tlbinvPage a b) s .buffered))) ∧
      (∀ c ∈ u.rest, c.out = [] ∧ ∀ l ∈ c.cache, l.dirty = 0) ∧ u.xres = [] ∧
      (s.rset = none → s.xres = [] → (∀ c ∈ s.rest, c.buf = [] ∧ c.out = [] ∧ c.cache = []) →
        u = released s 4 ∧ ∀ keep, (withTlb u keep).rekeyOthers = withTlb u keep) ∧
      (2 ^ 16 ≤ (s.aReg b).toNat → Traps (.tlbinvAsn a b) s 1 0 ∧ Traps (.tlbinvPage a b) s 1 0) ∧
      ((s.aReg b).toNat < 2 ^ 16 → v.extractLsb' 57 7 ≠ 0 → Traps (.tlbinvPage a b) s 6 v)) ∧
    (Issues .onlyA .firmware false false s →
      let x := s.aReg a
      let y := s.aReg b
      let inside (k : Nat) : Prop := x.toNat ≤ k ∧ k < x.toNat + y.toNat
      (¬ DieLines x y → Traps (.dcwb a b) s 3 x ∧ Traps (.dcinv a b) s 3 x) ∧
      (DieLines x y → ¬ DieRange x y → Traps (.dcwb a b) s 6 x ∧ Traps (.dcinv a b) s 6 x) ∧
      (DieLines x y → DieRange x y → State.Canonical s →
        (∃ t, exec (.dcwb a b) s = .next t ∧ Goes s t (s.pc + 4) ∧ Kept (bare s) (bare t) ∧ t.mem = s.mem ∧
          ∀ k, (inside k → t.dram.get k = 0) ∧ (¬ inside k → t.dram.get k = s.dram.get k)) ∧
        (∃ t, exec (.dcinv a b) s = .next t ∧ Goes s t (s.pc + 4) ∧ Kept (bare s) (bare t) ∧
          ∀ k, (inside k → t.mem.get k = s.mem.get k ^^^ s.dram.get k ∧ t.dram.get k = 0) ∧
            (¬ inside k → t.mem.get k = s.mem.get k ∧ t.dram.get k = s.dram.get k)))) ∧
    (∀ line, s.b.live = false ∨ s.cached line = none → Idles (.scalarCacheWriteback s.b.id line) s) ∧
    (∀ line l, s.b.live = true → s.cached line = some l → s.poison = [] → State.Canonical s →
      ∃ t, exec (.scalarCacheWriteback s.b.id line) s = .next t ∧ apartFromMemory t = apartFromMemory s ∧
        (∀ key, t.mem.get key =
          if key / 64 = line ∧ l.dirty.getLsbD (key % 64) = true then BitVec.ofNat 8 (l.data.toNat / 2 ^ (8 * (key % 64))) else s.mem.get key) ∧
        t.cached line = some { l with dirty := 0 } ∧ ∀ m, m ≠ line → t.cached m = s.cached m))

/-- R104 to R110, R322, R323: a stream opened, resumed, cancelled and closed; its counter read and waited for; a trigger registered.
The model's choices: `strig` loads its card, releases and then waits (log entry 35); a pool base at or beyond the pool is cause 6 also with N = 0
(52); where both ends break one check, `eei` names the source (65). -/
def Obligations.StreamInstructions : Prop :=
  ∀ (s : State) (r d a b : Reg) (x y : BitVec 2) (c : Bool), Issues .onlyA .user true false s → s.rset = none → r.toNat < 8 →
    let n : BitVec 3 := r.setWidth 3
    let t := s.stream n
    let src := s.aReg a
    let dst := s.aReg b
    let size := sewOf s.b.ctx.ra.vt / 8
    let bytes := s.b.ctx.ra.vl.toNat * size
    let opens := t.st ≠ .active ∧ t.st ≠ .faulted ∧ (x = 3 ∨ y = 3 → FabricOpen s)
    let aligned := src.toNat % size = 0 ∧ dst.toNat % size = 0
    let fresh : Stream := {
      st := .active, src := src, dst := dst, sx := x, sy := y, n := s.b.ctx.ra.vl.toNat, ty := s.b.ctx.ra.vt, ctr := 0, cursor := 0
      trigs := [], fault := none, told := false, grp := s.b.ctx.grp, stride := s.b.ctx.ac.cstr.toNat }
    let ended := if t.st = .active ∨ t.st = .faulted then
      withStream (withoutJobs s n) n { t with st := .cancelled, trigs := [], fault := none, told := false } else s
    (¬ opens → Traps (.sopen r a b x y) s 1 0) ∧
    (opens → ¬ aligned → Traps (.sopen r a b x y) s 3 (if src.toNat % size ≠ 0 then src else dst)) ∧
    (opens → aligned → ¬ EndFits x src.toNat bytes → Traps (.sopen r a b x y) s 6 src) ∧
    (opens → aligned → EndFits x src.toNat bytes → ¬ EndFits y dst.toNat bytes → Traps (.sopen r a b x y) s 6 dst) ∧
    (opens → aligned → EndFits x src.toNat bytes → EndFits y dst.toNat bytes → NoneDue s n → Completes (.sopen r a b x y) s
      (if s.b.ctx.ra.vl = 0 then landed (withStream (released s 4) n { fresh with st := .finished }) n else withStream (released s 4) n fresh)) ∧
    (t.st ≠ .faulted → Traps (.sopenR r) s 1 0) ∧
    (t.st = .faulted → Completes (.sopenR r) s (withStream s n { t with st := .active, fault := none, told := false })) ∧
    (NoneDue s n → Completes (.scancel r) s ended ∧ Completes (.sclose r) s (withStream ended n { ended.stream n with st := .idle })) ∧
    Completes (.savail d r) s (s.setA d (BitVec.ofNat 64 t.ctr)) ∧
    (min src.toNat t.n ≤ t.ctr ∨ t.st = .cancelled ∨ t.st = .idle → Completes (.swait d a r) s (s.setA d (BitVec.ofNat 64 t.ctr))) ∧
    (t.ctr < min src.toNat t.n → t.st ≠ .cancelled → t.st ≠ .idle → Waits (.swait d a r) s (.stream d r src)) ∧
    (t.st = .idle → Traps (.strig r a b c) s 1 0) ∧
    (t.st ≠ .idle → dst.toNat % 64 ≠ 0 → Traps (.strig r a b c) s 3 dst) ∧
    (∀ card hd u, t.st ≠ .idle → dst.toNat % 64 = 0 → s.b.buf = [] → CardRead s c.toNat dst card hd u →
      let job (st : JobState) := withJob (released u 4) 0 c.toNat card none (BitVec.ofNat 64 (cardBase card)) st (some n)
        (cardRegions c.toNat card hd) (Header.of hd).mbits
      let now := t.st = .finished ∨ min src.toNat t.n ≤ t.ctr
      (4 ≤ t.trigs.length → exec (.strig r a b c) s = .next ((released u 4).setWait (some (.trigs n)))) ∧
      (t.trigs.length < 4 → now → Completes (.strig r a b c) s (job .waiting)) ∧
      (t.trigs.length < 4 → ¬ now → t.st = .cancelled → Completes (.strig r a b c) s (job .discarded)) ∧
      (t.trigs.length < 4 → ¬ now → t.st ≠ .cancelled → Completes (.strig r a b c) s
        (withStream (job .registered) n { t with trigs := t.trigs ++ [⟨min src.toNat t.n, s.nextId⟩] })))

/-- R236, R237, R300: `ejob` and `aemap` read and check their card or image, release, and queue one job, numbered in the braid; `estat`
reads a job's state, and of one that has ended the hart's cache no longer holds the word. That only numbered jobs count to the 64 of R236 is the
model's choice (log entry 36). -/
def Obligations.EngineInstructions : Prop :=
  ∀ (s : State) (d a b : Reg) (c : Bool), Issues .onlyA .user false false s → s.rset = none → s.b.buf = [] →
    let x := s.aReg a
    let y := s.aReg b
    let n := s.b.jobsIssued + 1
    (x.toNat % 64 ≠ 0 → Traps (.ejob d a c) s 3 x) ∧
    (∀ card u, x.toNat % 64 = 0 → loads s x 8 8 = some (card, u) → cardOk c.toNat card = false →
      exec (.ejob d a c) s = .next (trapped u s.hart 1 s.pc 0)) ∧
    (∀ card hd t, x.toNat % 64 = 0 → CardRead s c.toNat x card hd t →
      (JobsFull s → exec (.ejob d a c) s = .next ((released t 4).setWait (some .jobs))) ∧
      (¬ JobsFull s → Completes (.ejob d a c) s (numbered (withJob (released t 4) n c.toNat card none (BitVec.ofNat 64 (cardBase card)) .waiting
        none (cardRegions c.toNat card hd) (Header.of hd).mbits) d n))) ∧
    (x.toNat % 4096 ≠ 0 → Traps (.aemap d a b) s 1 0) ∧
    (x.toNat % 4096 = 0 → y.toNat % 64 ≠ 0 → Traps (.aemap d a b) s 3 y) ∧
    (∀ im t, x.toNat % 4096 = 0 → y.toNat % 64 = 0 → loads s y 8 16 = some (im, t) →
      (Header.ok im 3 = false ∨ t.groupOk (.of im) = false → exec (.aemap d a b) s = .next (trapped t s.hart 1 s.pc 0)) ∧
      (Header.ok im 3 = true → t.groupOk (.of im) = true →
        (JobsFull s → exec (.aemap d a b) s = .next ((released t 4).setWait (some .jobs))) ∧
        (¬ JobsFull s → Completes (.aemap d a b) s (numbered (withJob (released t 4) n 1 [] (some im) x .waiting none [⟨x.toNat, 128, 2⟩]
          (Header.of im).mbits) d n)))) ∧
    (x.toNat = 0 ∨ s.b.jobsIssued < x.toNat → Traps (.estat d a) s 1 0) ∧
    (0 < x.toNat → x.toNat + 63 < s.b.jobsIssued → Completes (.estat d a) s (s.setA d 0)) ∧
    (∀ j i, 0 < x.toNat → x.toNat ≤ s.b.jobsIssued → s.b.jobsIssued ≤ x.toNat + 63 →
      (s.jobs.find? fun j => decide (j.braid = s.b.id ∧ j.num = x.toNat)) = some j →
      (s.jobs.find? fun j => s.together j.braid s.b && j.num == x.toNat) = some i →
      Completes (.estat d a) s ((if j.st = .completed ∨ j.st = .failed then endSeen s i else s).setA d (BitVec.ofNat 64 (jobCode j))))

/-- R34, R37 to R40, R42, R43: a card pushed, a braid's identity and strips, `tyield`, and the end of a hart, with which the braid
retires if its other hart has ended. The model's choices: what counts in a launch queue (log entry 39), that retirement discards registered jobs
(24), and a `tdone` inside the system handler (73). -/
def Obligations.TaskInstructions : Prop :=
  ∀ (s : State) (d a b : Reg), s.rset = none →
    (Issues .onlyA .user false false s →
      let x := s.aReg a
      let q := (s.aReg b).toNat % 64
      (x.toNat % 256 ≠ 0 → Traps (.launch d a b) s 3 x) ∧
      (x.toNat % 256 = 0 → ¬ QueueFull s q → Completes (.launch d a b) s ((withCard (released s 4) q x).setA d 0)) ∧
      (x.toNat % 256 = 0 → QueueFull s q → Completes (.launch d a b) s ((released s 4).setA d 1))) ∧
    (Issues .both .user false false s →
      Completes .tyield s s ∧
      (12 ≤ a.toNat → Traps (.tid d a) s 1 0) ∧
      (∀ k, s.thisTask = some k →
        (a.toNat < 12 → Completes (.tid d a) s (s.setReg d (BitVec.ofNat 64 (identity k s.b.idx a.toNat)))) ∧
        (let n := (dealt k s.b.idx).1 + taken s
         (n < (dealt k s.b.idx).2 → Completes (.strip d) s (stripped (withTaken s (taken s + 1)) d (BitVec.ofNat 64 n))) ∧
         ((dealt k s.b.idx).2 ≤ n → Completes (.strip d) s (stripped s d (BitVec.allOnes 64))))) ∧
      (¬ StreamsDone s → Waits .tdone s .drain) ∧
      (StreamsDone s → (∀ n, NoneDue s n) → s.ended (otherHart s.hart) = false → Completes .tdone s (withEnd (released s 4))) ∧
      (StreamsDone s → (∀ n, NoneDue s n) → s.ended (otherHart s.hart) = true → (∀ c ∈ s.rest, c.left = false) → s.b.left = false →
        ∃ t, exec .tdone s = .next t ∧ t.b.live = false ∧ t.ended .A = true ∧ t.ended .X = true ∧ t.b.ctx.xc.mgrant = 0 ∧
          t.b.ctx.mx = .init ∧ t.b.ctx.xt = [] ∧ (∀ q, t.b.ctx.lq.get q = [] ∧ t.b.ctx.sq.get q = []) ∧ t.b.ctx.tqa = [] ∧ t.b.ctx.tqx = [] ∧
          t.b.ctx.kq = [] ∧ t.b.ctx.a = s.b.ctx.a ∧ t.b.ctx.x = s.b.ctx.x ∧ t.b.ctx.v = s.b.ctx.v ∧ t.b.ctx.k = s.b.ctx.k ∧
          t.tasks = s.tasks ∧ t.rest = (released s 4).rest ∧ (∀ k, t.mem.get k = (released s 4).mem.get k) ∧
          ∀ j ∈ t.jobs, j.st = .registered → j.braid ≠ s.b.id))

/-- R111 to R113, R61, R62, R163, R252, R305, R320, R321: landings enabled, disabled and returned from; the prefix latch; `idle`, `nop`; what
`repq` and `rsig` read, in a replica set and outside one. -/
def Obligations.SmallStateInstructions : Prop :=
  ∀ s : State,
    (∀ r : Reg, Issues .onlyA .user true false s → r.toNat < 8 →
      let bit := BitVec.ofNat 8 (2 ^ r.toNat)
      Completes (.uien r) s (withLandings s (s.b.ctx.landEn ||| bit) s.b.ctx.landPend) ∧
      Completes (.uienOff r) s (withLandings s (s.b.ctx.landEn &&& ~~~bit) (s.b.ctx.landPend &&& ~~~bit))) ∧
    (Issues .onlyA .user true false s →
      (s.landing = true → ∃ t, exec .uiret s = .next t ∧ Goes s t s.b.ctx.retLatch ∧
        Kept { s with b := { s.b with
          ctx := { s.b.ctx with inLand := false }, landAt := if s.rset = none then s.b.landAt else s.b.retA + 1 } } t) ∧
      (s.landing = false → Traps .uiret s 1 0)) ∧
    (∀ (k : BitVec 4) (inv : Bool) (c : Reg) (ce : Bool), Issues .onlyX .user false false s →
      exec (.pfx k inv c ce) s = .next { s with b := { s.b with
        waitX := none
        retX := s.b.retX + 1
        ctx := { s.b.ctx with
          pcX := s.b.ctx.pcX + 4
          xc := { s.b.ctx.xc with pfl := BitVec.ofNat 12 (2048 + 1024 * ce.toNat + 32 * c.toNat + 16 * inv.toNat + k.toNat) } } } }) ∧
    (Issues .both .user false false s → Completes .nop s s) ∧
    (∀ d : Reg, Issues .both .user false false s →
      (s.rset = none → Completes (.repq d) s (s.setReg d 4)) ∧
      (∀ r, s.rset = some r → Completes (.repq d) s (s.setReg d (setWord s r)))) ∧
    (Issues .both .system false false s →
      (s.rset = none → (s.b.irq32 = true ∨ s.b.irq34 = true ∨ s.b.irq35 = true) → Completes .idle s s) ∧
      (s.rset = none → s.b.irq32 = false → s.b.irq34 = false → s.b.irq35 = false → Waits .idle s .idle) ∧
      (∀ d : Reg, s.rset = none → Completes (.rsig d) s (s.setReg d 0)) ∧
      (∀ (d : Reg) r, s.rset = some r → Completes (.rsig d) s
        (s.setReg d (match s.hart with | .A => s.b.crcA | .X => s.b.crcX))))

/-- R291 to R295: `crr` reads the register its number names; `crw`, `crs` and `crc` change the fields that their level may write, refuse
what the register refuses, and change no other register; a write of `trec` reads its record's bound and a write of `cgrp` its group. The model's
choices: scope A from the X-hart, the loads by `crs` and `crc`, and `eei` of cause 6 (log entry 37); the cycles of `cyc` (6) and the numbers of the
boot cores (61). -/
def Obligations.ControlRegisters : Prop :=
  ∀ (s : State) (r : Reg) (n : BitVec 12), Issues .both .user false false s →
    (∀ e, ctlAccess s n false = .error e → Traps (.crr r n) s e.1 e.2) ∧
    (∀ c h, ctlAccess s n false = .ok (c, h) → (c.scope = .core → s.rset = none) → Completes (.crr r n) s (s.setReg r (c.get s h))) ∧
    (∀ p ∈ ctlTable2 r n,
      (∀ e, ctlAccess s n true = .error e → Traps p.1 s e.1 e.2) ∧
      (∀ c h, ctlAccess s n true = .ok (c, h) →
        let v := p.2 c (c.get s h) (s.reg r)
        (refused c.n v → Traps p.1 s 1 0) ∧
        (¬ refused c.n v → c.n ≠ 0x014 → (c.n = 0x030 → v = 0) → ∃ t, exec p.1 s = .next t ∧ Passed s t ∧ CtlSet s t c h (kept s c h v) ∧
          t.b.ctx.bound = s.b.ctx.bound ∧ t.b.ctx.grp = s.b.ctx.grp ∧ Kept (apartFromControl s) (apartFromControl t) ∧
          (c.n ≠ 0x074 → (s.sysMode = true → t.b.ctx.pcA = s.b.ctx.pcA) ∧ (s.sysMode = false → t.b.pcH = s.b.pcH))) ∧
        (c.n = 0x014 → v = 0 → ∃ t, exec p.1 s = .next t ∧ Passed s t ∧ CtlSet s t c h 0 ∧ t.b.ctx.bound = 0 ∧
          t.b.ctx.grp = s.b.ctx.grp ∧ Kept (apartFromControl s) (apartFromControl t)) ∧
        (∀ w u, c.n = 0x014 → v ≠ 0 → s.rset = none → s.b.buf = [] → loads s v 4 1 = some (w, u) →
          ∃ t, exec p.1 s = .next t ∧ Passed s t ∧ CtlSet s t c h v ∧ t.b.ctx.bound.toNat = fieldAt w 0 4 ∧
            t.b.ctx.grp = s.b.ctx.grp ∧ Kept (apartFromControl u) (apartFromControl t)) ∧
        (∀ hd u ms w, c.n = 0x030 → v ≠ 0 → s.rset = none → s.b.buf = [] → loads s v 8 8 = some (hd, u) → groupHeaderOk hd = true →
          loads u (v + 64) 1 (fieldAt hd 0 2) = some (ms, w) →
          let g := Group.ofBytes hd ms
          (g.members.Nodup ∧ s.lmember.toNat ∈ g.members → ∃ t, exec p.1 s = .next t ∧ Passed s t ∧ CtlSet s t c h v ∧
            t.b.ctx.bound = s.b.ctx.bound ∧ t.b.ctx.grp = some g ∧ Kept (apartFromControl w) (apartFromControl t)) ∧
          (¬ (g.members.Nodup ∧ s.lmember.toNat ∈ g.members) → exec p.1 s = .next (trapped w s.hart 6 s.pc v)))))

/-- R164, R165, R167, R69, R306, R307: `ctxsave` writes the interrupted context to its places and clears the marks; with its leave bit
the braid leaves its core; `ctxload` reads a context that takes effect at `eret` (R163). The model's choices: places inside a row (log entry 11),
what is saved, how the area is reached and what a leaving save leaves (50). -/
def Obligations.ContextSwitch : Prop :=
  ∀ (s : State) (a : Reg), Issues .onlyA .system false false s →
    let va := (s.aReg a).toNat
    (∀ i, i = .ctxsave a ∨ i = .ctxsaveLeave a ∨ i = .ctxload a →
      (s.sysMode = false → Traps i s 1 0) ∧ (s.sysMode = true → va % 0x10000 ≠ 0 → Traps i s 3 (s.aReg a)) ∧
      (∀ c k, s.sysMode = true → va % 0x10000 = 0 → va < 2 ^ 57 → k = (if i = .ctxload a then Kind.load else .store) →
        (flushed s).access s.ownXlate 0 va 8 k true = .error c → exec i s = .next (trapped (flushed s) .A c s.pc (s.aReg a)))) ∧
    (∀ base, s.sysMode = true → AreaHeld s va base → State.Canonical s →
      (FitsArea (interrupted s) → (∀ r, s.b.hwm.get r ≤ 16) →
        (∃ t, exec (.ctxsave a) s = .next t ∧ Goes s t (s.pc + 4) ∧ Saved s t base ∧ Kept (apartFromSave s) (apartFromSave t)) ∧
        (∃ t, exec (.ctxsaveLeave a) s = .next t ∧ Saved s t base ∧ t.b.live = false ∧ t.b.left = true ∧ t.b.savedAt = some va ∧
          t.b.tab = .init ∧ t.b.ctx = interrupted s ∧ t.b.status.getLsbD 5 = false ∧ t.b.level = levelOf (s.b.status.extractLsb' 10 2) ∧
          t.b.irq32 = false ∧ t.b.waitA = none ∧ t.b.waitX = none ∧ t.b.monitor = false ∧
          (∀ k ∈ t.tasks, k.id = s.b.task → k.st = .preempted ∨ k.st = .waiting ∨ k.st = .done ∨
            ∃ b ∈ s.rest, b.task = s.b.task ∧ b.live = true))) ∧
      (let rd := areaWord (flushed s) base
       let n := rd 0xA50
       (areaBad rd = true → exec (.ctxload a) s = .next (trapped (flushed s) .A 1 s.pc 0)) ∧
       (areaBad rd = false →
         (s.b.ctx.xc.mgrant.toNat + openLoad s < n → exec (.ctxload a) s = .next ((asking s (flushed s)).setWait (some (.reattach n)))) ∧
         (n ≤ s.b.ctx.xc.mgrant.toNat + openLoad s → ∃ t c, exec (.ctxload a) s = .next t ∧ Goes s t (s.pc + 4) ∧ t.b.loaded = some c ∧
           t.b.ctx = { s.b.ctx with xc := { s.b.ctx.xc with mgrant := BitVec.ofNat 3 n } } ∧ t.b.askAge = none ∧
           t.b.hwm = .replicate 32 0 ∧ t.mem = (flushed s).mem ∧ c.xc.mgrant.toNat = n ∧
           c.a.get 0 = 0 ∧ c.x.get 0 = 0 ∧ c.k.get 0 = 0 ∧
           (∀ i : Reg, i ≠ 0 → (c.a.get i.toFin).toNat = rd (8 * i.toNat) ∧ (c.x.get i.toFin).toNat = rd (0x140 + 8 * i.toNat)) ∧
           (∀ i : BitVec 3, (c.sh.get i.toFin).toNat = rd (0x100 + 8 * i.toNat)) ∧
           (∀ i : Reg, (c.v.get i.toFin).toNat = areaWide (flushed s) base (0x10000 + 2048 * i.toNat) 256) ∧
           (∀ i : BitVec 4, i ≠ 0 → (c.k.get i.toFin).toNat = areaWide (flushed s) base (0x1000 + 256 * i.toNat) 32) ∧
           c.mx.acc0.data.toNat = areaWide (flushed s) base 0x40000 2048 ∧
           c.mx.acc1.data.toNat = areaWide (flushed s) base 0x44000 2048 ∧ Masked c ∧
           c.xt.length = s.b.ctx.xt.length))))

/-- An event acts at the braid it names, whichever braid and hart have the focus, and the focus stays; without such a braid it does nothing. -/
def Obligations.EventsReachTheirBraid : Prop :=
  ∀ (s : State) (b : Nat) (i : Instr), BraidEvent b i →
    (s.focus b = none → exec i s = .next s) ∧
    (∀ u, s.focus b = some u → ∃ v, exec i u = .next v ∧ exec i s = .next ((v.focus s.b.id).getD v) ∧
      ∀ g, exec i { u with hart := g } = .next { v with hart := g })

/-- R42 and the rules of each wait: what a waiting hart does when the event that can end its wait comes: what is pending at its boundary comes
first (O46); else it completes its instruction with the operands it waits with, or it executes it again (the model's reading of a wait, log
entry 47), or it still waits. `mwait` completes as log entry 48 has it. -/
def Obligations.WaitsEnd : Prop :=
  ∀ (s : State) (b : Nat) (h : Hart), Acting s b h →
    (∀ i of, Ends b h i of → (s.waitOf h = none → Idles i s) ∧
      ∀ u, s.waitOf h ≠ none → s.boundary = some u → exec i s = .next (atHart u h)) ∧
    (s.boundary = none →
    (∀ i of, Ends b h i of → (∀ w, s.waitOf h = some w → ¬ of w) → Idles i s) ∧
    (s.rset = none →
      (∀ d va old key t, h = .A → s.b.waitA = some (.word d va old) → Reaches s va 8 .load key t → t.poisoned key 8 = false →
        let u := t.settleBytes key 8
        let ended := s.b.irq32 = true ∧ s.b.status.getLsbD 7 = true
        let first := s.b.monitor = true ∧ ended
        (first → Completes (.mwaitWake b) s ((withMonitor u false).setA d 3)) ∧
        (¬ first → monitorsTaken s → Completes (.mwaitWake b) s ((withMonitor u false).setA d 2)) ∧
        (¬ first → ¬ monitorsTaken s → u.mem.read key 8 ≠ old.toNat →
          Completes (.mwaitWake b) s ((acquired (withMonitor u false) 4).setA d 0)) ∧
        (¬ first → ¬ monitorsTaken s → u.mem.read key 8 = old.toNat → ended → Completes (.mwaitWake b) s ((withMonitor u false).setA d 3)) ∧
        (¬ monitorsTaken s → u.mem.read key 8 = old.toNat → ¬ ended → exec (.mwaitWake b) s = .next (withMonitor u true))) ∧
      (∀ d tok, s.waitOf h = some (.barrier d tok) →
        let p : BitVec 8 := tok.setWidth 8
        let n := (tok.extractLsb' 8 8).toNat
        let y := barrierOf s n
        (y.count ≠ 0 → y.phase = p → Idles (.bwaitWake b h) s) ∧
        (y.count ≠ 0 → y.phase = p + 1 → Completes (.bwaitWake b h) s ((acquired s (scopeOf n)).setReg d 0)) ∧
        (y.count = 0 ∨ (y.phase ≠ p ∧ y.phase ≠ p + 1) → Completes (.bwaitWake b h) s (s.setReg d 1))) ∧
      (∀ l n p, s.waitOf h = some (.almanac l n) → HasLoop s l p →
        (n ≤ p.f → Completes (.almanacWaitWake b h) s (acquired s 4)) ∧ (p.f < n → Idles (.almanacWaitWake b h) s)) ∧
      (∀ d r thr, h = .A → s.b.waitA = some (.stream d r thr) →
        let t := s.stream (r.setWidth 3)
        let ended := min thr.toNat t.n ≤ t.ctr ∨ t.st = .cancelled ∨ t.st = .idle
        (ended → Completes (.swaitWake b) s (s.setA d (BitVec.ofNat 64 t.ctr))) ∧ (¬ ended → Idles (.swaitWake b) s)) ∧
      (∀ d req n t, h = .A → s.b.waitA = some (.trim d req n t) → First s → s.b.ctx.grants.length < 4 →
        let k : BitVec 3 := n.setWidth 3
        let trim := (s.stream k).ctr - (s.stream k).cursor
        let g := min (grantOf s req t) trim
        (s.stream k).ty = t →
        (1024 / sewOf t ≤ trim ∨ LandedAll (s.stream k) → Completes (.setvlsTrimWake b) s
          (lengthSet (withCursor (withGrants s (s.b.ctx.grants ++ [⟨s.hart, req, t, g, s.b.ctx.vcap⟩])) k g) d g t)) ∧
        (trim < 1024 / sewOf t → ¬ LandedAll (s.stream k) → Idles (.setvlsTrimWake b) s)) ∧
      (s.waitOf h = some .drain →
        (¬ StreamsDone s → Idles (.tdoneDrainWake b h) s) ∧
        (StreamsDone s → (∀ n, NoneDue s n) → s.ended (otherHart h) = false → Completes (.tdoneDrainWake b h) s (withEnd (released s 4)))) ∧
      (s.waitOf h = some .engines →
        (EnginesDone s → Completes (.fenceEngWake b h) s (released s 4)) ∧ (¬ EnginesDone s → Idles (.fenceEngWake b h) s)) ∧
      (s.waitOf h = some .idle →
        let pending := s.b.irq32 = true ∨ s.b.irq34 = true ∨ s.b.irq35 = true
        (pending → Completes (.idleWake b h) s s) ∧ (¬ pending → Idles (.idleWake b h) s))) ∧
    (∀ l n cnt p, s.waitOf h = some (.post l n cnt) → HasLoop s l p → RetriesIf (¬ (cnt ≠ 0 ∧ p.f < n + cnt ∧ p.f < n ∧ 8 ≤ p.pend.length ∧
      ∀ r ∈ p.pend, r.2 < n ∨ n + cnt < r.1)) (.postStallWake b h) s) ∧
    (∀ q, s.waitOf h = some (.pop q) → RetriesIf (¬ popBlocked s q) (.queueWaitWake b h) s) ∧
    (∀ q, q ≠ .grant → s.waitOf h = some (.push q) → RetriesIf (¬ pushBlocked s q) (.queueWaitWake b h) s) ∧
    (s.waitOf h = some (.push .grant) → RetriesIf (s.b.ctx.grants.length < 4) (.grantFifoWake b h) s) ∧
    (h = .A → s.b.waitA = some .jobs → RetriesIf (¬ JobsFull s) (.jobSlotWake b) s) ∧
    (∀ n, h = .A → s.b.waitA = some (.trigs n) → RetriesIf ((s.stream n).trigs.length < 4) (.triggerSlotWake b) s) ∧
    (∀ n, h = .A → s.b.waitA = some (.reattach n) → RetriesIf (n ≤ s.b.ctx.xc.mgrant.toNat + openLoad s) (.ctxloadSliceWake b) s) ∧
    (∀ d g, h = .X → s.b.waitX = some (.slices d g) →
      (g ≤ openMatt s → Completes (.mattFollowerWake b) s
        (esZero (State.setX (withXc (withMx (notAsking { s with b := { s.b with fwdX := s.b.fwdX + 1 } })
          ⟨⟨0, []⟩, ⟨0, []⟩, ⟨false, 0, 0, 0⟩, ⟨false, 0, 0, 0⟩, none⟩) { s.b.ctx.xc with mgrant := BitVec.ofNat 3 g }) d (BitVec.ofNat 64 g)))) ∧
      (openMatt s < g → Idles (.mattFollowerWake b) s)))

/-- R24, R110, R112, R160, R163, R319: the deadlock of a braid's queues, the trap of a stream fault, an interrupt and a landing, each as its event
and, in this order but for deadlock, before the instruction of the A-hart's turn; without its condition, or where one before it in the order is
pending, the event does nothing. An interrupt ends the wait of `idle`, and 32 that of `mwait`, before it is taken. Which hart an interrupt
stops is the model's choice (log entry 25). -/
def Obligations.BoundaryEvents : Prop :=
  ∀ (s : State) (b : Nat) (h : Hart), Acting s b h → s.rset = none → NoTrapWaits s.b →
    let deadA := s.sysMode = false ∧ Stuck s .A ∧ (Stuck s .X ∨ s.b.ctx.endX = true)
    let deadX := s.sysMode = false ∧ ¬ deadA ∧ Stuck s .X ∧ s.b.ctx.endA = true
    let faulted (n : BitVec 3) (c : Nat) := s.sysMode = false ∧ Undelivered s n c
    let clear := ∀ n c, ¬ faulted n c
    (deadA → exec (.queueDeadlock b) s = .next (atHart (trapped s .A 9 (s.pcOf .A) 0) h)) ∧
    (deadX → exec (.queueDeadlock b) s = .next (atHart (trapped s .X 9 (s.pcOf .X) 0) h)) ∧
    (¬ deadA → ¬ deadX → Idles (.queueDeadlock b) s) ∧
    (∀ n c, faulted n c → exec (.streamFaultTrap b) s = .next (atHart ((withStream s n { s.stream n with told := true }).enter .A 15 (s.pcOf .A)
      (BitVec.ofNat 64 (c * 2 ^ 19 + n.toNat * 2 ^ 16 + (s.stream n).ctr % 2 ^ 16))) h)) ∧
    (clear → Idles (.streamFaultTrap b) s) ∧
    (CanInterrupt s → clear → s.b.waitA ≠ some .idle → s.b.waitX ≠ some .idle →
      (firstIrq s = 32 → ∀ d va old, s.b.waitA ≠ some (.word d va old)) →
      exec (.takeInterrupt b) s = .next (atHart ((withoutIrq s).enter (stoppedBy s) (firstIrq s) (s.pcOf (stoppedBy s)) 0) h)) ∧
    (CanInterrupt s → clear → s.b.waitA = some .idle → s.b.waitX ≠ some .idle → s.b.ctx.endA = false →
      ∃ t, Goes (atHart s .A) t (s.pcOf .A + 4) ∧ Kept (atHart (withoutIrq s) .A) t ∧
        exec (.takeInterrupt b) s = .next (atHart (t.enter .A (firstIrq s) (s.pcOf .A + 4) 0) h)) ∧
    (∀ d va old, CanInterrupt s → clear → firstIrq s = 32 → s.b.waitA = some (.word d va old) → s.b.waitX ≠ some .idle → s.b.ctx.endA = false →
      ∃ t, Goes (atHart s .A) t (s.pcOf .A + 4) ∧ Kept ((atHart (withoutIrq s) .A).setA d 3) t ∧
        exec (.takeInterrupt b) s = .next (atHart (t.enter .A 32 (s.pcOf .A + 4) 0) h)) ∧
    (¬ CanInterrupt s ∨ ¬ clear → Idles (.takeInterrupt b) s) ∧
    (∀ n, clear → ¬ CanInterrupt s → CanLand s → FirstLanding s n → let bit := ~~~(BitVec.ofNat 8 (2 ^ n.toNat))
      exec (.landingEntry b) s = .next { s with b := { s.b with
      waitA := none
      monitor := false
      atRel := none
      landDue := s.b.landDue &&& bit
      ctx := { s.b.ctx with
        landPend := s.b.ctx.landPend &&& bit
        retLatch := s.b.ctx.pcA
        inLand := true
        sh := s.b.ctx.sh.set 0 (n.setWidth 64)
        pcA := s.b.ctx.ac.lvec } } }) ∧
    (¬ CanLand s ∨ s.b.ctx.landPend = 0 ∨ ¬ clear ∨ CanInterrupt s → Idles (.landingEntry b) s) ∧
    (∀ (u : State) (rest : List Turn) stop lazy, u.turns = .hart b .A stop lazy :: rest →
      s = { u.tick rest with hart := .A, egStop := stop, lazy := lazy } →
      (if s.sysMode = true then s.b.endS = false else s.b.ctx.endA = false) →
      (∀ n c, faulted n c → step u = exec (.streamFaultTrap b) s) ∧
      (clear → CanInterrupt s → s.b.ctx.endA = false → step u = exec (.takeInterrupt b) s) ∧
      (∀ n, clear → ¬ CanInterrupt s → CanLand s → FirstLanding s n → step u = exec (.landingEntry b) s))

/-- R32, R255 to R260, R263, R264: what the host's pushes, doorbells, aperture accesses and register accesses do, once a start has entered
service. What the map does not assign, also within it, answers all ones and takes no write, and so does a read of the doorbell (the model's
choice, log entry 32); whom a doorbell reaches with its set is log entry 33, and what counts as queued log entry 39. -/
def Obligations.HostAccesses : Prop :=
  ∀ (s : State) (q : BitVec 6) (v : Word) (off : Nat), s.sets = [] →
    let a := v &&& 0x01FFFFFFFFFFFFFF
    let window (i : Instr) : Prop :=
      (s.modState = 0 → exec i s = .next s) ∧
      (s.modState ≠ 0 → s.modState ≠ 1 → v.getLsbD 63 = true → exec i s = .next s) ∧
      (s.modState = 1 → v.getLsbD 63 = true → exec i s = .next { s with winErr := s.winErr &&& ~~~winBit q }) ∧
      (s.modState ≠ 0 → v.getLsbD 63 = false → PushRefused s q a → exec i s = .next (withErr s q)) ∧
      (s.modState ≠ 0 → v.getLsbD 63 = false → ¬ PushRefused s q a → exec i s = .next (withHostCard s q a))
    let doorbell (i : Instr) : Prop :=
      (s.modState ≠ 1 ∨ 640 ≤ v.toNat → exec i s = .next s) ∧
      (∀ c, s.modState = 1 → v.toNat < 640 → Rung s v.toNat c → exec i s = .next (rang s c.id)) ∧
      (s.modState = 1 → v.toNat < 640 → NoneThere s v.toNat →
        exec i s = .next (if v.toNat ∈ s.pend34 then s else { s with pend34 := s.pend34 ++ [v.toNat] }))
    let aperture (i : Instr) : Prop :=
      (s.modState ≠ 1 → exec i s = .next s) ∧ (s.modState = 1 → exec i s = .next { s with apBase := v &&& 0x01FFFFF000000000 })
    let mailbox (i : Instr) : Prop :=
      let writes := s.modState = 1 ∧ off % 8 = 0 ∧ 0x1000 ≤ off ∧ off < 0x1800
      (writes → exec i s = .next (s.writeMem (0x1800000000 + (off - 0x1000)) 8 v.toNat)) ∧ (¬ writes → exec i s = .next s)
    let allOnes (size : Nat) := exec (.hostRegisterWrite off size none) s = .next (replied s (some (2 ^ (8 * size) - 1)))
    window (.hostLaunchPush q v) ∧ window (.launchWindowErrClear q v) ∧ doorbell (.doorbell v) ∧ aperture (.apertureBaseWrite v) ∧
    mailbox (.hostMailboxWrite off v) ∧
    (∀ (size : Nat) (w : Option Nat), size = 0 ∨ 2 ^ 36 < off + size → exec (.apertureAccess off size w) s = .next (replied s none)) ∧
    (∀ (size : Nat) (w : Option Nat), 0 < size → off + size ≤ 2 ^ 36 →
      let va := s.apBase.toNat + off
      let there (k : Kind) := s.access ⟨none, s.aproot.toNat, s.apasn, false⟩ 0 va size k false
      va % 0x10000 + size ≤ 0x10000 → va + size ≤ 2 ^ 57 →
      (∀ x key t, w = some x → there .store = .ok (key, t) → exec (.apertureAccess off size w) s = .next (t.writeMem key size x)) ∧
      (∀ key t, w = none → there .load = .ok (key, t) → exec (.apertureAccess off size w) s = .next (replied t (some (t.mem.read key size)))) ∧
      (∀ c, there (if w.isSome then .store else .load) = .error c → exec (.apertureAccess off size w) s = .next (replied s none))) ∧
    (∀ size : Nat, size ≠ 8 ∨ off % 8 ≠ 0 ∨ 0x4000 ≤ off →
      exec (.hostRegisterWrite off size (some v)) s = .next s ∧ allOnes size) ∧
    (off % 8 = 0 → (0x200 ≤ off ∧ off < 0x1000) ∨ (0x2018 ≤ off ∧ off < 0x4000) →
      exec (.hostRegisterWrite off 8 (some v)) s = .next s ∧ allOnes 8) ∧
    (off = 8 * q.toNat → window (.hostRegisterWrite off 8 (some v)) ∧
      exec (.hostRegisterWrite off 8 none) s = .next (replied s (some ((if s.winErr.getLsbD q.toNat then 2 ^ 63 else 0) +
        ((s.cards.filter fun c => c.q == q.toNat).length + (s.tasks.filter fun k => k.q == q.toNat && k.st == .waiting).length))))) ∧
    (off = 0x2000 → doorbell (.hostRegisterWrite off 8 (some v)) ∧ allOnes 8) ∧
    (off = 0x2008 → aperture (.hostRegisterWrite off 8 (some v)) ∧
      exec (.hostRegisterWrite off 8 none) s = .next (replied s (some s.apBase.toNat))) ∧
    (off = 0x2010 → exec (.hostRegisterWrite off 8 (some v)) s = .next s ∧
      exec (.hostRegisterWrite off 8 none) s = .next (replied s (some s.modState.toNat))) ∧
    (off % 8 = 0 → 0x1000 ≤ off → off < 0x2000 → mailbox (.hostRegisterWrite off 8 (some v)) ∧
      exec (.hostRegisterWrite off 8 none) s = .next (replied s (some (s.mem.read (0x1800000000 + (off - 0x1000)) 8))))

/-- R15, R16, R18, R21, R46, R93, R145, R253, R261, R263 to R265, R292, R356: starts and what survives them, and failures in service. What a
start keeps beside memory, and what an error in an array does, are log entry 53; whom a failed quad ends is log entry 58. -/
def Obligations.StartsAndFailures : Prop :=
  ∀ (s : State) (r : StartReport) (n : Nat) (m : AgeingReport) (p : BitVec 4), State.Canonical s →
    let good := RemapGood s.badQuads r.remap
    (∃ t, exec (.coldStart r) s = .next t ∧ Emptied s t ∧ t.mem = [] ∧ t.poison = [] ∧
      (r.ok = true → good → Served t r) ∧ (r.ok = true → ¬ good → t.modState = 2) ∧
      (r.ok = false → t.failedCold = s.failedCold + 1 ∧ t.modState = (if 3 ≤ s.failedCold + 1 then 2 else 0) ∧ t.mustCold = true)) ∧
    (s.mustCold = true → exec (.warmStart r) s = .next s) ∧
    (s.mustCold = false → ∃ t, exec (.warmStart r) s = .next t ∧ Emptied s t ∧
      Survives s t (fun k => k < 2 ^ 44 ∨ (2 ^ 44 ≤ k ∧ k < 2 ^ 45 ∧ r.expanders = true)) ∧
      (r.ok = true → good → Served t r) ∧ (r.ok = true → ¬ good → t.modState = 2) ∧
      (r.ok = false → t.modState = 0 ∧ t.mustCold = true)) ∧
    (∃ t, exec .powerLoss s = .next t ∧ Emptied s t ∧ t.modState = 0 ∧ t.mustCold = s.mustCold ∧
      t.failedCold = s.failedCold ∧ Survives s t (fun k => 2 ^ 44 ≤ k ∧ k < 2 ^ 45)) ∧
    (n ∈ s.outQuads → exec (.quadFailure n) s = .next s) ∧
    (n ∉ s.outQuads → s.sets = [] → ∃ t, exec (.quadFailure n) s = .next t ∧ t.outQuads = s.outQuads ++ [n] ∧
      t.badQuads = s.badQuads ++ [s.remap.getD n 0] ∧ t.msix = s.msix ++ [2] ∧ t.mem = s.mem ∧
      (∀ c ∈ t.braids, quadOf c.core = n → c.live = false) ∧
      (∀ c ∈ s.braids, c.live = true ∨ c.left = true → quadOf c.core = n → ∀ k ∈ s.tasks, k.id = c.task → k.failed = none → k.st ≠ .done →
        { k with failed := some 0 } ∈ t.tasks) ∧
      (∀ k ∈ s.tasks, (∀ c ∈ s.braids, c.task = k.id → quadOf c.core ≠ n) → k ∈ t.tasks)) ∧
    (exec (.ageingPrediction m) s = .next (let t := { s with endOfLife := m.months, ageing := m.raw }
      if m.months.toNat < 6 then healthy t else t)) ∧
    (∃ t, exec (.powerTrim (.core (s.b.core)) n) s = .next t ∧ t.laneBudget = n ∧ { t with lanes := s.lanes } = s) ∧
    (∀ c, c ≠ s.b.core → ∃ t, exec (.powerTrim (.core c) n) s = .next t ∧ t.laneBudget = s.laneBudget ∧ { t with lanes := s.lanes } = s) ∧
    (∀ c, ∃ t, exec (.powerTrim (.quad c) n) s = .next t ∧ t.sliceBudget c = n ∧ { t with slices := s.slices } = s ∧
      ∀ d, d ≠ c → t.sliceBudget d = s.sliceBudget d) ∧
    (∃ t, exec (.uncorrectableError (.memory n)) s = .next t ∧ { t with poison := s.poison } = s ∧
      ∀ w, w ∈ t.poison ↔ w = n ∨ w ∈ s.poison) ∧
    (∀ h e, s.b.id = n → (CanMove (atHart s h) → exec (.uncorrectableError (.array n h true e)) s =
        .next (atHart (trapped s h 7 (s.pcOf h) e) s.hart)) ∧
      exec (.uncorrectableError (.array n h false e)) s = .next (healthy s)) ∧
    (exec (.stavrekPortFailure p) s = .next { s with ports := s.ports &&& ~~~(BitVec.ofNat 16 (2 ^ p.toNat)) })

/-- R26 to R30, R35, R36, R41, R44, R45, R148 to R151, R165, R166, R168: the dispatcher's events: a card read, a gang dispatched, pre-empted and
resumed, a priority raised, a task completed; each does nothing without its condition. Where there is room is the model's own test of R149. The
model's choices in them: when a card is read and what it meets (log entries 38, 39, 63, 64), what dispatch and resumption start with (45, 54) and
how long levels and losses last (76), later work that had started before a card was read (85), and that a resumption counts as a dispatch (90). -/
def Obligations.DispatcherEvents : Prop :=
  ∀ (s : State) (id : Nat) (q : BitVec 6) (cores : List Nat),
    ((∀ c, ¬ HeadCard s q.toNat c) → Idles (.cardRead q) s) ∧
    (∀ c, HeadCard s q.toNat c →
      let read := (cardGone s c).cardBytes ⟨none, c.root.toNat, c.asn, false⟩ c.addr.toNat 32
      (read = none → exec (.cardRead q) s = .next (healthy (cardGone s c))) ∧
      (∀ t b, read = some (t, b) → CardGood b (taskOf t c b) c.host →
        exec (.cardRead q) s = .next { t with tasks := t.tasks ++ [taskOf t c b], nextId := t.nextId + 1 }) ∧
      (∀ t b, read = some (t, b) → ¬ CardGood b (taskOf t c b) c.host →
        exec (.cardRead q) s = .next (notified (worded t c.root c.asn (fieldAt b 88 8) 2) (ctl b 36 1 == 1)))) ∧
    (s.tasks.find? (·.id == id) = none →
      ∀ i, i = .gangDispatch id cores ∨ i = .gangPreempt id ∨ i = .gangResume id ∨ i = .taskCompletion id → Idles i s) ∧
    (exec (.priorityAging id) s = .next (withTask s id fun k =>
      if 2 ^ 24 ≤ k.losses then { k with losses := k.losses - 2 ^ 24, boost := if prioOf k < 7 then k.boost + 1 else k.boost } else k)) ∧
    (∀ k, s.tasks.find? (·.id == id) = some k →
      (k.st = .waiting → IsChosen s k → noPlace s k = true → exec (.gangDispatch id cores) s =
        .next (notified (withTask (worded (decided s k) k.root k.asn k.cword 3) id fun u => { u with st := .done, failed := some 0 }) k.hostint)) ∧
      (k.st = .waiting → IsChosen s k → noPlace s k = false → 1 ≤ k.ncores → k.ncores % groupsOf k = 0 → Placed s k cores →
        exec (.gangDispatch id cores) s = .next (dispatched (decided s k) k cores)) ∧
      (k.st ≠ .waiting ∨ ¬ IsChosen s k → Idles (.gangDispatch id cores) s) ∧
      (let going := (s.tasks.filter (·.st == .preempting)).map (·.id)
       (s.modState ≠ 1 ∨ isReady s k = false ∨ s.hasRoom going k = true → Idles (.gangPreempt id) s) ∧
       (∀ l, s.modState = 1 → isReady s k = true → s.hasRoom going k = false → Eligible s k l →
         ((∀ n, n ≤ l.length → s.hasRoom (idsOf (l.take n) ++ going) k = false) → Idles (.gangPreempt id) s) ∧
         (∀ n, n ≤ l.length → s.hasRoom (idsOf (l.take n) ++ going) k = true → (∀ m, m < n → s.hasRoom (idsOf (l.take m) ++ going) k = false) →
           s.sets = [] →
           let hit := (idsOf (l.take n)).filter fun v => !going.contains v
           exec (.gangPreempt id) s =
             .next { s with tasks := s.tasks.map fun u => if hit.contains u.id then { u with st := .preempting } else u
                            b := if s.b.live && hit.contains s.b.task then { s.b with irq32 := true } else s.b
                            rest := s.rest.map fun b => if b.live && hit.contains b.task then { b with irq32 := true } else b }))) ∧
      (k.st ≠ .preempted ∨ ¬ IsChosen s k → Idles (.gangResume id) s) ∧
      (k.st = .preempted → IsChosen s k → s.gang id = [s.b] → s.pend34 = [] →
        let back := withTask (decided s k) id fun u => { u with st := .running, started := s.age }
        (s.b.savedAt = none → exec (.gangResume id) s = .next { back with age := s.age + 1, b := { s.b with live := true, left := false } }) ∧
        (∀ va base, s.b.savedAt = some va → AreaHeld { s with b := { s.b with level := .system } } va base → areaBad (areaWord s base) = false →
          ∃ c, exec (.gangResume id) s =
              .next { back with age := s.age + 1, b := { s.b with ctx := c, live := true, left := false, savedAt := none } } ∧
            AreaGives s base c)) ∧
      (¬ IsOver s k → Idles (.taskCompletion id) s) ∧
      (IsOver s k → exec (.taskCompletion id) s =
        .next (let t := withTask (worded s k.root k.asn k.cword (match k.failed with | none => 1 | some c => 256 * c + 3)) id fun u =>
                 { u with st := .done }
               notified { t with sets := t.sets.filter (·.task != id) } k.hostint)))

/-- R231 to R234, R238 to R240, R44: the engines' events. The first job that can start does its work: a fill, a copy, a map, a swap of qubits, a
norm or a gate on local bits; then it completes with seq advanced and its word written, or fails with the cause that stopped it. That a job does
its work whole at its start, and when fault and completion word follow, is log entry 36; the order with cards not yet read is 38, and the context
of the word and the header read again 55. -/
def Obligations.EngineJobs : Prop :=
  ∀ (s : State) (id : Nat),
    ((∀ j, ¬ JobAt s id j) → ∀ i, i = .engineJobStart id ∨ i = .engineJobComplete id ∨ i = .engineJobFault id → Idles i s) ∧
    (∀ j, JobAt s id j →
      let starts := startsNow s j = true ∧ ∀ i ∈ s.jobs, i.age < j.age → startsNow s i = false
      let runs (c : Nat) (t : State) : Prop := exec (.engineJobStart id) s =
        .next (withJobs t id fun i => { i with st := .running, mbits := s.startMbits j, cause := if c = 0 then i.cause else c })
      let apart (t : State) : State := { t with mem := [], dram := [] }
      (¬ starts → Idles (.engineJobStart id) s) ∧
      (j.cls = 0 ∨ j.image ≠ none → s.startMbits j = j.mbits) ∧
      (starts → (∀ t, s.work j = .ok t → runs 0 t) ∧ ∀ t c, s.work j = .error (t, c) → c ≠ 0 → runs c t) ∧
      (∀ dst dk len, starts → j.cls = 0 → j.image = none → dst = fieldAt j.card 8 8 → len = fieldAt j.card 24 8 → len % 8 = 0 →
        JobHolds s j dst dk len →
        (fieldAt j.card 0 1 = 1 → ∃ t, runs 0 t ∧ apart t = apart s ∧
          ∀ k, t.mem.get k = if dk ≤ k ∧ k < dk + len then BitVec.ofNat 8 (fieldAt j.card 32 8 / 256 ^ ((k - dk) % 8)) else s.mem.get k) ∧
        (∀ sk, fieldAt j.card 0 1 = 0 → JobHolds s j (fieldAt j.card 16 8) sk len → Apart sk len dk len → ∃ t, runs 0 t ∧ apart t = apart s ∧
          ∀ k, t.mem.get k = if dk ≤ k ∧ k < dk + len then s.mem.get (sk + (k - dk)) else s.mem.get k)) ∧
      (∀ im hk, starts → j.image = some im → JobHolds s j j.hdrAddr.toNat hk 128 → ∃ t, runs 0 t ∧ apart t = apart s ∧
        ∀ k, t.mem.get k =
          if hk ≤ k ∧ k < hk + 128 then (if k - hk < 72 ∨ 88 ≤ k - hk then im.getD (k - hk) 0 else 0) else s.mem.get k) ∧
      (∀ hk hd n ty map, starts → j.cls = 1 → j.image = none → LocalState s hk hd n ty map → (∀ g, j.grp = some g → g.members ≠ []) →
        qubitsOk j.card (.of hd) = true →
        let size := 4096 + 2 ^ n * ampSize ty
        let qs (from' count : Nat) : List Nat := (List.range count).map fun i => map.getD (fieldAt j.card (from' + i) 1) 0
        let ts := qs 24 (fieldAt j.card 2 1)
        let cs := qs 28 (fieldAt j.card 3 1)
        JobHolds s j j.hdrAddr.toNat hk size → (∀ off < size, dieOfKey (hk + off) = 0) → s.startMbits j = 0 ∧
        (fieldAt j.card 0 1 = 1 → ts.length = 2 → ∃ t, runs 0 t ∧ apart t = apart s ∧
          ∀ k, t.mem.get k = if hk + 8 ≤ k ∧ k < hk + 8 + n then
              (let b := map.getD (k - hk - 8) 0
               BitVec.ofNat 8 (if b = ts.getD 0 0 then ts.getD 1 0 else if b = ts.getD 1 0 then ts.getD 0 0 else b))
            else s.mem.get k) ∧
        (∀ rk, fieldAt j.card 0 1 = 2 → JobHolds s j (fieldAt j.card 16 8) rk 8 → Apart hk size rk 8 → ∃ t, runs 0 t ∧ apart t = apart s ∧
          t.mem.read rk 8 = (List.range (2 ^ n)).foldl (fun v p => (Fmt.f64.round .rne (total [Fmt.f64.decode v,
            (ampRe ty (ampAt s hk ty p)).mul (ampRe ty (ampAt s hk ty p)), (ampIm ty (ampAt s hk ty p)).mul (ampIm ty (ampAt s hk ty p))])).1) 0 ∧
          ∀ k, k < rk ∨ rk + 8 ≤ k → t.mem.get k = s.mem.get k) ∧
        (∀ mk, fieldAt j.card 0 1 = 0 → (ts ++ cs).Nodup → JobHolds s j (fieldAt j.card 16 8) mk (4 ^ ts.length * ampSize ty) →
          Apart hk size mk (4 ^ ts.length * ampSize ty) → ∃ t, runs 0 t ∧ apart t = apart s ∧
          (∀ k, k < hk + 4096 ∨ hk + size ≤ k → t.mem.get k = s.mem.get k) ∧
          ∀ p < 2 ^ n, ampAt t hk ty p =
            if ∀ i < cs.length, p.testBit (cs.getD i 0) = (fieldAt j.card 32 1).testBit i then
              (let m := 2 ^ ts.length
               rowTimes ty ((List.range m).map fun c => s.mem.read (mk + (m * spelt ts p + c) * ampSize ty) (ampSize ty))
                 ((List.range m).map fun c => ampAt s hk ty (withSpelt ts p c)))
            else ampAt s hk ty p)) ∧
      (j.st ≠ .running ∨ j.cause ≠ 0 → Idles (.engineJobComplete id) s) ∧
      (j.st = .running → j.cause = 0 → j.cls = 0 → exec (.engineJobComplete id) s = .next (jobEnded s j 0)) ∧
      (∀ hk, j.st = .running → j.cause = 0 → j.cls ≠ 0 → JobHolds s j j.hdrAddr.toNat hk 128 → exec (.engineJobComplete id) s =
        .next (jobEnded (s.writeMem (hk + 80) 8 ((s.mem.read (hk + 80) 8 + 1) % 2 ^ 64)) j 0)) ∧
      (∀ c, j.st = .running → j.cause = 0 → j.cls ≠ 0 → j.hdrAddr.toNat % 8 = 0 → j.hdrAddr.toNat + 88 ≤ 2 ^ 57 →
        s.access ⟨none, j.root.toNat, j.asn, true⟩ j.task (j.hdrAddr.toNat + 80) 8 .load false = .error c →
        exec (.engineJobComplete id) s = .next (jobEnded s j c)) ∧
      (j.st ≠ .running ∨ j.cause = 0 → Idles (.engineJobFault id) s) ∧
      (j.st = .running → j.cause ≠ 0 → exec (.engineJobFault id) s = .next (jobEnded s j j.cause)))

/-- R105, R106, R109 to R112: an element of a stream lands, the counter rising by one; one that cannot be copied stops its stream; a trigger whose
threshold is reached fires. The context of a stream's accesses is log entry 31, pool addresses log entry 52, the plane of a sent element log
entry 62, and that a trigger fires as an event of its own log entry 35. -/
def Obligations.StreamEvents : Prop :=
  ∀ (s : State) (b : Nat) (n : BitVec 3), s.b.id = b → s.rset = none →
    let t := s.stream n
    let size := sewOf t.ty / 8
    let src := t.src.toNat + t.ctr * size
    let dst := t.dst.toNat + t.ctr * size
    let stops (c : Nat) : State := withStream s n { t with st := .faulted, fault := some c, told := false }
    (s.b.live = false ∨ t.st ≠ .active → Idles (.streamElementLand b n) s ∧ Idles (.streamElementFault b n) s) ∧
    (s.b.live = true → t.st = .active →
      ((∀ c, ¬ Fetches s t src size (.error c)) → ∃ v u, Fetches s t src size (.ok (v, u)) ∧
        ((∀ c, ¬ Writes u t dst size v (.error c)) → ∃ w, Writes u t dst size v (.ok w) ∧ Idles (.streamElementFault b n) s ∧
          exec (.streamElementLand b n) s = .next
            (if t.ctr + 1 < t.n then withStream w n { t with ctr := t.ctr + 1 }
             else landed (withStream w n { t with ctr := t.ctr + 1, st := .finished }) n)) ∧
        ((∃ c, Writes u t dst size v (.error c)) → Idles (.streamElementLand b n) s ∧
          ∃ c, Writes u t dst size v (.error c) ∧ exec (.streamElementFault b n) s = .next (stops c))) ∧
      ((∃ c, Fetches s t src size (.error c)) → Idles (.streamElementLand b n) s ∧
        ∃ c, Fetches s t src size (.error c) ∧ exec (.streamElementFault b n) s = .next (stops c))) ∧
    (s.b.live = false → Idles (.streamTriggerFire b n) s) ∧
    (s.b.live = true → exec (.streamTriggerFire b n) s = .next (
      let due := t.trigs.filter fun g => decide (g.thr ≤ t.ctr)
      let u := withStream s n { t with trigs := t.trigs.filter fun g => decide (t.ctr < g.thr) }
      { u with jobs := s.jobs.map fun j => if j.st = .registered ∧ (due.any fun g => g.job == j.id) = true then { j with st := .waiting } else j }))

/-- R18, R130, R217 to R224: what arrives over the fabric at its owner: plain stores, loads, contributions to chunks, their combination and
status records; waiting elements admitted; a member lost. The model's choices: the context and footprint of another member's element (log
entries 31, 21 and 77), a full copy chunk (26), which elements count as NaN (44), the record of a lost group's chunks and the elements that wait
(42), what those chunks do with later elements (68), and the NaN element of a copy of complex or block type (100). -/
def Obligations.FabricEvents : Prop :=
  ∀ (s : State) (e : FabElem) (m : BitVec 8), State.Canonical s →
    let comes := FromOther s e ∧ s.ports ≠ 0
    let idle (l : List Arrival) : State := { s with arrivals := l }
    (¬ comes → Idles (.fabricElementArrival e) s ∧ Idles (.fabricLoadArrival e) s) ∧
    (channelWaits s s.arrivals e → Idles (.fabricElementArrival e) s ∧ Idles (.fabricLoadArrival e) s) ∧
    (comes →
      (∀ c, homeReach s e = .error c → Idles (.fabricElementArrival e) s) ∧
      (∀ key t, ¬ channelWaits s s.arrivals e → homeReach s e = .ok (key, t) →
        let die := dieOfKey key
        let c := chunkOf t die e
        (e.op = 0 → exec (.fabricElementArrival e) s = .next ((resultsIn t).writeMem key e.size e.data)) ∧
        (e.op ≠ 0 → c.dead = true → exec (.fabricElementArrival e) s = .next t) ∧
        (NoRoom t die e → exec (.fabricElementArrival e) s = .next (idle (s.arrivals ++ [⟨e, none⟩]))) ∧
        (e.op ≠ 0 → c.dead = false → GroupLost t e → ∀ sk, RecordHeld t (withSlot c e) sk →
          ∃ u, exec (.fabricElementArrival e) s = .next u ∧ Closed t u (withSlot c e) sk 2 0 false true ∧ u.xres = t.xres) ∧
        (e.op ≠ 0 → c.dead = false → ¬ GroupLost t e → Opens t die e →
          ∃ u, exec (.fabricElementArrival e) s = .next u ∧ Taken t c e u)) ∧
      (∀ c, ¬ channelWaits s s.arrivals e → homeCheck s e .load = .error c →
        exec (.fabricLoadArrival e) s = .next { s with loadReplies := s.loadReplies ++ [(0, true)] }) ∧
      (∀ key t, ¬ channelWaits s s.arrivals e → homeCheck s e .load = .ok (key, t) → exec (.fabricLoadArrival e) s = .next { t with loadReplies := s.loadReplies ++
        [if t.poisoned key e.size then (0, true) else (s.mem.read key e.size, false)] })) ∧
    ((∀ a ∈ s.arrivals, a.by_ = none ∧ ∃ key t, homeReach s a.e = .ok (key, t) ∧ NoRoom t (dieOfKey key) a.e) → Idles .chunkSlotWake s) ∧
    (∀ l, s.arrivals = ⟨e, none⟩ :: l →
      (∀ c, homeReach s e = .error c → exec .chunkSlotWake s = .next (idle l)) ∧
      (∀ key t, homeReach (idle l) e = .ok (key, t) →
        let die := dieOfKey key
        (e.op = 0 → exec .chunkSlotWake s = .next ((resultsIn t).writeMem key e.size e.data)) ∧
        (e.op ≠ 0 → (chunkOf t die e).dead = false → ¬ GroupLost t e → Opens t die e →
          ∃ u, exec .chunkSlotWake s = .next u ∧ Taken t (chunkOf t die e) e u))) ∧
    (∀ l c, s.arrivals = ⟨e, some s.b.id⟩ :: l →
      s.access ⟨some s.b.core, e.root.toNat, e.asn, s.b.level == .user⟩ s.b.task e.va.toNat e.size .store false = .error c →
      exec .chunkSlotWake s = .next { idle l with b := { s.b with ctx := { s.b.ctx with ac := { s.b.ctx.ac with
        cstat := s.b.ctx.ac.cstat ||| 2 } } } }) ∧
    ((∀ c ∈ s.chunks, c.isOpen = true → m.toNat ∉ c.members) → (∀ a ∈ s.arrivals, m.toNat ∉ a.e.members) →
      exec (.memberLost m) s = .next (afterLoss s m)) ∧
    (∀ c sk, s.chunks = [c] → c.isOpen = true → m.toNat ∈ c.members → s.arrivals = [] → RecordHeld s c sk →
      ∃ u, exec (.memberLost m) s = .next u ∧ Closed (afterLoss s m) u c sk 2 0 false true ∧ u.xres = s.xres)

/-- R244: under replica execution `st` leaves memory and the cache alone: its element waits in the release buffer. R151, R243, R245, R246, R248 to
R252: at a release point, reached by every member, and at a forced release, a set compares the signatures: on agreement the leader's stores perform
once and the release counts; an outvoted member of three takes cause 13 and leaves; a first difference of two runs the window again, a second at the
same place ends the task with cause 12. A timed release that finds the members apart makes them run to the largest counts. A trap that every member
waits in is taken by all. The model's choices: when members wait and compare (log entry 41), what they do after cause 12 (49), the places they
run to (40), where what is pending is taken (22, 34), that traps are taken together (95), and which release is the same (97). -/
def Obligations.ReplicaReleases : Prop :=
  (∀ (s s0 : State) (r a : Reg) (z : BitVec 3) (o : BitVec 13) (key : Nat), z.toNat ≤ 3 → Issues .onlyA .user true false s →
    s.replicated = true → Reaches s (s.aReg a + o.signExtend 64) (bytesFor z) .store key s0 → s0.partPoisoned key (bytesFor z) = false →
    s.bufferFull (bytesFor z) = false →
    ∃ t, exec (.st r a z o) s = .next t ∧ Goes s t (s.pc + 4) ∧ t.mem = s.mem ∧ t.b.cache = s.b.cache ∧
      (∃ i : BufItem, t.b.buf = s.b.buf ++ [i] ∧ i.space = 0 ∧ i.va = s.aReg a + o.signExtend 64 ∧ i.key = key ∧
        i.size = bytesFor z ∧ i.data = (s.aReg r).toNat % 2 ^ (8 * bytesFor z) ∧ i.home = true) ∧
      (∀ q, t.reg q = s.reg q)) ∧
  (∀ (s : State) (sc : Reg) (r : RSet), s.rset = some r → s.hart = .A → Issues .both .user false false s → s.b.agreedA = false →
    (∀ c ∈ membersOf s r, c.atRel = none ∨ c.atRel = some .A) →
    let w : State := { s with b := { s.b with atRel := some .A, relRec := [], waitA := some .release } }
    (¬ AllReleasing (membersOf w r) → exec (.fenceRel sc) s = .next w) ∧
    (∀ lead, AllReleasing (membersOf w r) → lead ∈ membersOf w r → lead.rep = r.leader → ((membersOf w r).map (·.id)).Nodup →
      (∀ c ∈ membersOf w r, (c.rep = r.leader → c = lead) ∧ c.relRec = [] ∧ signatures c = signatures lead ∧ ∀ x ∈ c.buf, x.space = 0 ∧ x.home = true) →
      State.Canonical s → ∃ t, exec (.fenceRel sc) s = .next t ∧ Agreed w t r lead (some .A))) ∧
  (∀ (s : State) (b : Nat) (i : Instr), s.b.id = b → s.b.live = true → i = .forcedReleaseBuffer b ∨ i = .forcedReleaseTimeout b →
    (s.rset = none → Idles i s) ∧
    (∀ r, s.rset = some r →
      let l := membersOf s r
      let meets := if i = .forcedReleaseBuffer b then BuffersFull l else AtOnePoint l
      (i = .forcedReleaseBuffer b → ¬ BuffersFull l → Idles i s) ∧
      (∀ p q, Furthest placeA l p → Furthest placeX l q →
        let stopped (x : RSet) : RSet := { x with stop := some (p, q) }
        (i = .forcedReleaseTimeout b → ¬ AtOnePoint l → ∃ t, exec i s = .next t ∧ SetsBy s t r stopped ∧ { t with sets := s.sets } = s) ∧
        (∀ lead c, meets → l = [lead, c] ∨ l = [c, lead] → lead.id ≠ c.id → lead.rep = r.leader → c.rep ≠ r.leader →
          (∀ x ∈ lead.buf ++ c.buf, x.space = 0 ∧ x.home = true) → State.Canonical s →
          (signatures lead = signatures c → ∃ t, exec i s = .next t ∧
            Agreed s t r lead none) ∧
          (signatures lead ≠ signatures c → (.A, placeA lead) ∉ r.failed → lead.chk ≠ none → c.chk ≠ none → ∃ t, exec i s = .next t ∧
            RunsAgain s t r (placeA lead) (if i = .forcedReleaseBuffer b then id else stopped)) ∧
          (signatures lead ≠ signatures c → (.A, placeA lead) ∈ r.failed → (∀ k ∈ s.tasks, k.id = r.task → k.failed = none) →
            ∃ t, exec i s = .next t ∧ t.mem = s.mem ∧ (∀ x ∈ t.sets, x.task ≠ r.task ∨ x.idx ≠ r.idx) ∧
              (∀ x ∈ membersOf t r, x.rep ≠ r.leader → ∀ n : BitVec 3, (x.ctx.streams.get n.toFin).st ≠ .active) ∧
              (∀ k ∈ t.tasks, k.id = r.task → k.failed = some 12))) ∧
        (∀ x y z, meets → l.Perm [x, y, z] → r.members.Perm (l.map fun c => (c.id, c.rep)) → (s.braids.map (·.id)).Nodup →
          (∀ c ∈ l, c.rep < 3) → (l.map (·.rep)).Nodup → (∃ c ∈ l, c.rep = r.leader) → (∀ c ∈ l, ∀ e ∈ c.buf, e.space = 0 ∧ e.home = true) → State.Canonical s →
          signatures y = signatures z → signatures x ≠ signatures y → x.status.getLsbD 5 = false →
          ∃ t, exec i s = .next t ∧ Outvoted s t r x y z)))) ∧
  (∀ (s : State) (r : RSet), s.rset = some r → s.b.live = true → r.stop = none → (s.braids.map (·.id)).Nodup → trapWaits (s.waitOf s.hart) = true →
    (∀ c ∈ membersOf s r, c.status.getLsbD 5 = false ∧ trapWaits (match s.hart with | .A => c.waitA | .X => c.waitX) = true ∧
      (c.id = s.b.id ∨ c.atRel = some s.hart) ∧ (c.atRel = none ∨ c.atRel = some s.hart)) →
    (∀ c ∈ membersOf s r, ∀ d ∈ membersOf s r, match s.hart with | .A => placeX c = placeX d | .X => placeA c = placeA d) →
    s.trapTurn.mem = s.mem ∧
    ∀ c ∈ membersOf s r, ∀ cause eei past, (match s.hart with | .A => c.waitA | .X => c.waitX) = some (.trap cause eei past) →
      let pc := match s.hart with | .A => c.ctx.pcA | .X => c.ctx.pcX
      ∃ d ∈ s.trapTurn.braids, d.id = c.id ∧ d.cause = BitVec.ofNat 8 cause ∧ d.level = .system ∧ d.pcH = c.tvec ∧ d.waitA = none ∧ d.waitX = none ∧
        d.atRel = none ∧ d.status.getLsbD 5 = true ∧ d.buf = c.buf ∧ signatures d = signatures c ∧
        d.epc = (if past then pc + 4 else pc) &&& 0x01FFFFFFFFFFFFFC ∧
        (match s.hart with | .A => d.ctx.ra.eei | .X => d.ctx.rx.eei) = eei)

/-- R101, R157, R278, R303: at a hart's turn with no event pending the step fetches the word at the hart's address and executes the instruction it
decodes to. With no turn given the focused hart moves, and the focus goes on to the next (the model's choice, log entry 1). A hart held at its
set's counts waits, and the set is released once all have come to them (R151, R245); one that waits in a trap of its set takes it when all do (log
entry 95). -/
def Obligations.StepRunsDecodedInstruction : Prop :=
  ∀ (s : State) (rest : List Turn),
    (∀ b h stop lazy u, s.turns = .hart b h stop lazy :: rest → (ticked s rest).focus b = some u →
      let v := { u with hart := h, egStop := stop, lazy := lazy }
      (¬ CanMove v → step s = .next v) ∧ (CanMove v → trapWaits (v.waitOf h) = true → step s = .next v.trapTurn) ∧
      (CanMove v → trapWaits (v.waitOf h) = false → v.heldBack = true → step s = .next v.stopHere) ∧
      (CanMove v → Quiet v → Moves v (step s))) ∧
    (∀ b h stop lazy, s.turns = .hart b h stop lazy :: rest → (ticked s rest).focus b = none → step s = .next (ticked s rest)) ∧
    (s.turns = [] → s.modState ≠ 0 → CanMove (ticked s []) → Quiet (ticked s []) →
      ∃ o, Moves (ticked s []) o ∧ (∀ t, o = .next t → ∃ v, step s = .next v ∧
        (t.hart = .A → v = { t with hart := .X }) ∧ (t.hart = .X → t.rest = [] → v = { t with hart := .A }) ∧
        ∀ c l, t.hart = .X → t.rest = c :: l → v = { t with hart := .A, b := c, rest := l ++ [t.b] })) ∧
    (s.turns = [] → s.modState = 0 → step s = exec (.coldStart ⟨true, none, 0, s.remap, true⟩) (ticked s [])) ∧
    (∀ i, s.turns = .event i :: rest → i.isEvent = true → step s = exec i (ticked s rest))

/-- R11, R44, R94, R96, R100, R122, R130, R160, R265: the turns that are no instruction. Of a dropped translation, a dropped clean line and a line of
the die cache written back, only that translation, that line, or the difference between the die cache and its DRAM changes. The oldest vector
store of a braid, or the oldest result of a chunk, reaches memory. Firmware and system software (log entries 61, 70, 71) name a braid, read the
ageing registers, start a braid on a free boot core, or end the task of a braid whose trap they handle. -/
def Obligations.HiddenTurns : Prop :=
  ∀ (s : State) (rest : List Turn) (n : Nat),
    let u := ticked s rest
    (s.turns = .tlbEvict n :: rest → step s = .next { u with tlb := s.tlb.eraseIdx n }) ∧
    (s.turns = .cacheDrop s.b.id n :: rest → ∃ t, step s = .next t ∧ t = { u with b := { s.b with cache := t.b.cache } } ∧
      t.b.cache = s.b.cache.filter fun l => l.tag != n || l.dirty != 0) ∧
    (s.turns = .dieWriteback n :: rest → ∃ t, step s = .next t ∧ t = { u with dram := t.dram } ∧
      (State.Canonical s → ∀ k, t.dram.get k = if k / 128 = n then 0 else u.dram.get k)) ∧
    (s.turns = .perform s.b.id :: rest → (s.b.out = [] → step s = .next u) ∧
      ∀ i l, s.b.out = i :: l → (∀ c ∈ s.rest, c.id ≠ s.b.id) → step s =
        .next (let t := if i.home = true then u.writeMem i.key i.size i.data else u
               { t with b := { s.b with out := l } })) ∧
    (s.turns = .chunkWrite :: rest → (s.xres = [] → step s = .next u) ∧
      ∀ key size v l, s.xres = (key, size, v) :: l → step s = .next ({ u with xres := l }.writeMem key size v)) ∧
    (∀ b, s.turns = .nameHealth b :: rest → step s = .next { u with healthTo := b }) ∧
    (s.turns = .mgmtRead :: rest → step s = .next { u with mgmtReplies := s.mgmtReplies ++ [⟨s.endOfLife, s.ageing⟩] }) ∧
    (∀ entry, s.turns = .bootBraid n entry :: rest → 640 ≤ n → n < 648 → (∀ b ∈ s.braids, b.live = true → b.core ≠ n) →
      ∃ b, step s = .next { u with rest := s.rest ++ [b], nextId := s.nextId + 1 } ∧ b.id = s.nextId ∧ b.live = true ∧ b.core = n ∧
        b.level = .firmware ∧ b.ctx.pcA = entry ∧ b.ctx.endA = false ∧ b.ctx.endX = true) ∧
    (∀ k, s.turns = .sysEnd s.b.id true :: rest → s.b.live = true → s.sysMode = true → s.b.cause.toNat < 32 → k ∈ s.tasks → k.id = s.b.task →
      ∃ t, step s = .next t ∧ t.mem = s.mem ∧ (∀ b ∈ t.braids, b.task = k.id → b.live = false ∧ b.left = false) ∧
        (k.failed = none → k.st ≠ .done → { k with failed := some s.b.cause.toNat } ∈ t.tasks))

/-- R279 to R290, R298 to R347: words of the spec's examples decode to the instructions they stand for, and words with no row are refused. -/
def Obligations.ExampleWordsDecode : Prop :=
  decode 0x18C50002 = .ok (.shli 6 5 2) ∧ decode 0x4C1F0000 = .ok (.jr 31) ∧ decode 0x5CA40280 = .ok (.setvl 5 4 10) ∧
  decode 0x60410802 = .ok (.vldx 2 1 1 false 0) ∧ decode 0x64044863 = .ok (.vstn 0 4 9 false 3) ∧
  decode 0x7C4A0800 = .ok (.vcvt (.v 2) 10 (.v 1) 0) ∧ decode 0x88291886 = .ok (.mdrn 1 9 (.v 3) true) ∧
  decode 0x90A431E8 = .ok (.amoCas 5 4 6 ⟨true, false, 4, false⟩) ∧ decode 0xA4011080 = .ok (.sopen 0 1 2 0 1) ∧
  decode 0xB8A98000 = .ok (.pfx 2 true 9 true) ∧ decode 0xBCE0E601 = .ok (.crw 7 0x073) ∧ decode 0xC0000140 = .ok (.sys 5) ∧
  (∀ i, decode 0 ≠ .ok i) ∧ (∀ i, decode 0xFFFFFFFF ≠ .ok i) ∧ ∀ i, decode 0xA8A60043 ≠ .ok i

/-- R278: every well-formed instruction that has a word decodes back from it, whatever its operands; events have no word. -/
def Obligations.EncodedWordsDecode : Prop :=
  (∀ i : Instr, i.wf = true → i.isEvent = false → ∃ w, encode i = some w ∧ decode w = .ok i) ∧ ∀ i : Instr, i.isEvent = true → encode i = none

/-- R5, R278: a word decodes to at most one instruction, a well-formed one, and every bit of it is that instruction's: no other word decodes to the
same one. -/
def Obligations.DecodedWordsAreTheirOwn : Prop :=
  ∀ (w : BitVec 32) (i : Instr), decode w = .ok i → encode i = some w ∧ i.wf = true ∧ i.isEvent = false

/-- Every step keeps memory, and what the die cache holds of it, in their canonical form: addresses rising, no byte listed that reads as an unlisted
one. -/
def Obligations.StepKeepsMemoryCanonical : Prop :=
  ∀ s t : State, State.Canonical s → step s = .next t → State.Canonical t

/-- After reset memory lists nothing and is canonical, no braid, task or job exists, barriers and windows are clear, and the module is starting. -/
def Obligations.ResetState : Prop :=
  State.Canonical State.reset ∧ State.reset.mem = [] ∧ State.reset.dram = [] ∧ State.reset.modState = 0 ∧
  (∀ b ∈ State.reset.braids, b.live = false ∧ b.left = false) ∧ State.reset.tasks = [] ∧ State.reset.jobs = [] ∧ State.reset.cards = [] ∧
  State.reset.barriers = .replicate 272 ⟨0, 0, 0⟩ ∧ State.reset.winErr = 0 ∧ State.reset.aproot = 0 ∧ State.reset.apasn = 0 ∧
  State.reset.lmember = BitVec.allOnes 64 ∧ State.reset.b.ctx.vcap = 0x800 ∧ State.reset.b.status = 0x080 ∧
  (∀ r, State.reset.b.ctx.a.get r = 0 ∧ State.reset.b.ctx.x.get r = 0 ∧ State.reset.b.ctx.v.get r = 0)
end

