-- ==== Sys2Proof/Laws/State.lean ====
section
/-! SUPPORT. What each update of the state leaves in each field: one lemma per field and update, so that no proof unfolds a record
update. `mapB` and `setB` change the braid in focus, `mapCtx` and `setCtx` its context, `onHart` the hart, `mapTask` the tasks,
`mapBraids` the braids. -/

namespace Sys2Proof.Machine

@[simp] theorem State.mapB_hart (s : State) (f : Braid → Braid) : (s.mapB f).hart = s.hart := rfl
@[simp] theorem State.mapB_rest (s : State) (f : Braid → Braid) : (s.mapB f).rest = s.rest := rfl
@[simp] theorem State.mapB_turns (s : State) (f : Braid → Braid) : (s.mapB f).turns = s.turns := rfl
@[simp] theorem State.mapB_egStop (s : State) (f : Braid → Braid) : (s.mapB f).egStop = s.egStop := rfl
@[simp] theorem State.mapB_lazy (s : State) (f : Braid → Braid) : (s.mapB f).lazy = s.lazy := rfl
@[simp] theorem State.mapB_mem (s : State) (f : Braid → Braid) : (s.mapB f).mem = s.mem := rfl
@[simp] theorem State.mapB_poison (s : State) (f : Braid → Braid) : (s.mapB f).poison = s.poison := rfl
@[simp] theorem State.mapB_dram (s : State) (f : Braid → Braid) : (s.mapB f).dram = s.dram := rfl
@[simp] theorem State.mapB_tlb (s : State) (f : Braid → Braid) : (s.mapB f).tlb = s.tlb := rfl
@[simp] theorem State.mapB_tasks (s : State) (f : Braid → Braid) : (s.mapB f).tasks = s.tasks := rfl
@[simp] theorem State.mapB_sets (s : State) (f : Braid → Braid) : (s.mapB f).sets = s.sets := rfl
@[simp] theorem State.mapB_cards (s : State) (f : Braid → Braid) : (s.mapB f).cards = s.cards := rfl
@[simp] theorem State.mapB_winErr (s : State) (f : Braid → Braid) : (s.mapB f).winErr = s.winErr := rfl
@[simp] theorem State.mapB_jobs (s : State) (f : Braid → Braid) : (s.mapB f).jobs = s.jobs := rfl
@[simp] theorem State.mapB_barriers (s : State) (f : Braid → Braid) : (s.mapB f).barriers = s.barriers := rfl
@[simp] theorem State.mapB_lanes (s : State) (f : Braid → Braid) : (s.mapB f).lanes = s.lanes := rfl
@[simp] theorem State.mapB_slices (s : State) (f : Braid → Braid) : (s.mapB f).slices = s.slices := rfl
@[simp] theorem State.mapB_aproot (s : State) (f : Braid → Braid) : (s.mapB f).aproot = s.aproot := rfl
@[simp] theorem State.mapB_apasn (s : State) (f : Braid → Braid) : (s.mapB f).apasn = s.apasn := rfl
@[simp] theorem State.mapB_lmember (s : State) (f : Braid → Braid) : (s.mapB f).lmember = s.lmember := rfl
@[simp] theorem State.mapB_ticket (s : State) (f : Braid → Braid) : (s.mapB f).ticket = s.ticket := rfl
@[simp] theorem State.mapB_apBase (s : State) (f : Braid → Braid) : (s.mapB f).apBase = s.apBase := rfl
@[simp] theorem State.mapB_modState (s : State) (f : Braid → Braid) : (s.mapB f).modState = s.modState := rfl
@[simp] theorem State.mapB_msix (s : State) (f : Braid → Braid) : (s.mapB f).msix = s.msix := rfl
@[simp] theorem State.mapB_pend34 (s : State) (f : Braid → Braid) : (s.mapB f).pend34 = s.pend34 := rfl
@[simp] theorem State.mapB_failedCold (s : State) (f : Braid → Braid) : (s.mapB f).failedCold = s.failedCold := rfl
@[simp] theorem State.mapB_endOfLife (s : State) (f : Braid → Braid) : (s.mapB f).endOfLife = s.endOfLife := rfl
@[simp] theorem State.mapB_ageing (s : State) (f : Braid → Braid) : (s.mapB f).ageing = s.ageing := rfl
@[simp] theorem State.mapB_mgmtReplies (s : State) (f : Braid → Braid) : (s.mapB f).mgmtReplies = s.mgmtReplies := rfl
@[simp] theorem State.mapB_healthTo (s : State) (f : Braid → Braid) : (s.mapB f).healthTo = s.healthTo := rfl
@[simp] theorem State.mapB_remap (s : State) (f : Braid → Braid) : (s.mapB f).remap = s.remap := rfl
@[simp] theorem State.mapB_outQuads (s : State) (f : Braid → Braid) : (s.mapB f).outQuads = s.outQuads := rfl
@[simp] theorem State.mapB_badQuads (s : State) (f : Braid → Braid) : (s.mapB f).badQuads = s.badQuads := rfl
@[simp] theorem State.mapB_ports (s : State) (f : Braid → Braid) : (s.mapB f).ports = s.ports := rfl
@[simp] theorem State.mapB_mustCold (s : State) (f : Braid → Braid) : (s.mapB f).mustCold = s.mustCold := rfl
@[simp] theorem State.mapB_chunks (s : State) (f : Braid → Braid) : (s.mapB f).chunks = s.chunks := rfl
@[simp] theorem State.mapB_arrivals (s : State) (f : Braid → Braid) : (s.mapB f).arrivals = s.arrivals := rfl
@[simp] theorem State.mapB_fabOut (s : State) (f : Braid → Braid) : (s.mapB f).fabOut = s.fabOut := rfl
@[simp] theorem State.mapB_xres (s : State) (f : Braid → Braid) : (s.mapB f).xres = s.xres := rfl
@[simp] theorem State.mapB_hostReplies (s : State) (f : Braid → Braid) : (s.mapB f).hostReplies = s.hostReplies := rfl
@[simp] theorem State.mapB_loadReplies (s : State) (f : Braid → Braid) : (s.mapB f).loadReplies = s.loadReplies := rfl
@[simp] theorem State.mapB_lost (s : State) (f : Braid → Braid) : (s.mapB f).lost = s.lost := rfl
@[simp] theorem State.mapB_ticks (s : State) (f : Braid → Braid) : (s.mapB f).ticks = s.ticks := rfl
@[simp] theorem State.mapB_startTick (s : State) (f : Braid → Braid) : (s.mapB f).startTick = s.startTick := rfl
@[simp] theorem State.mapB_free (s : State) (f : Braid → Braid) : (s.mapB f).free = s.free := rfl
@[simp] theorem State.mapB_nextId (s : State) (f : Braid → Braid) : (s.mapB f).nextId = s.nextId := rfl
@[simp] theorem State.mapB_age (s : State) (f : Braid → Braid) : (s.mapB f).age = s.age := rfl
@[simp] theorem State.mapB_b (s : State) (f : Braid → Braid) : (s.mapB f).b = f s.b := rfl
@[simp] theorem State.setB_hart (s : State) (b : Braid) : (s.setB b).hart = s.hart := rfl
@[simp] theorem State.setB_rest (s : State) (b : Braid) : (s.setB b).rest = s.rest := rfl
@[simp] theorem State.setB_turns (s : State) (b : Braid) : (s.setB b).turns = s.turns := rfl
@[simp] theorem State.setB_egStop (s : State) (b : Braid) : (s.setB b).egStop = s.egStop := rfl
@[simp] theorem State.setB_lazy (s : State) (b : Braid) : (s.setB b).lazy = s.lazy := rfl
@[simp] theorem State.setB_mem (s : State) (b : Braid) : (s.setB b).mem = s.mem := rfl
@[simp] theorem State.setB_poison (s : State) (b : Braid) : (s.setB b).poison = s.poison := rfl
@[simp] theorem State.setB_dram (s : State) (b : Braid) : (s.setB b).dram = s.dram := rfl
@[simp] theorem State.setB_tlb (s : State) (b : Braid) : (s.setB b).tlb = s.tlb := rfl
@[simp] theorem State.setB_tasks (s : State) (b : Braid) : (s.setB b).tasks = s.tasks := rfl
@[simp] theorem State.setB_sets (s : State) (b : Braid) : (s.setB b).sets = s.sets := rfl
@[simp] theorem State.setB_cards (s : State) (b : Braid) : (s.setB b).cards = s.cards := rfl
@[simp] theorem State.setB_winErr (s : State) (b : Braid) : (s.setB b).winErr = s.winErr := rfl
@[simp] theorem State.setB_jobs (s : State) (b : Braid) : (s.setB b).jobs = s.jobs := rfl
@[simp] theorem State.setB_barriers (s : State) (b : Braid) : (s.setB b).barriers = s.barriers := rfl
@[simp] theorem State.setB_lanes (s : State) (b : Braid) : (s.setB b).lanes = s.lanes := rfl
@[simp] theorem State.setB_slices (s : State) (b : Braid) : (s.setB b).slices = s.slices := rfl
@[simp] theorem State.setB_aproot (s : State) (b : Braid) : (s.setB b).aproot = s.aproot := rfl
@[simp] theorem State.setB_apasn (s : State) (b : Braid) : (s.setB b).apasn = s.apasn := rfl
@[simp] theorem State.setB_lmember (s : State) (b : Braid) : (s.setB b).lmember = s.lmember := rfl
@[simp] theorem State.setB_ticket (s : State) (b : Braid) : (s.setB b).ticket = s.ticket := rfl
@[simp] theorem State.setB_apBase (s : State) (b : Braid) : (s.setB b).apBase = s.apBase := rfl
@[simp] theorem State.setB_modState (s : State) (b : Braid) : (s.setB b).modState = s.modState := rfl
@[simp] theorem State.setB_msix (s : State) (b : Braid) : (s.setB b).msix = s.msix := rfl
@[simp] theorem State.setB_pend34 (s : State) (b : Braid) : (s.setB b).pend34 = s.pend34 := rfl
@[simp] theorem State.setB_failedCold (s : State) (b : Braid) : (s.setB b).failedCold = s.failedCold := rfl
@[simp] theorem State.setB_endOfLife (s : State) (b : Braid) : (s.setB b).endOfLife = s.endOfLife := rfl
@[simp] theorem State.setB_ageing (s : State) (b : Braid) : (s.setB b).ageing = s.ageing := rfl
@[simp] theorem State.setB_mgmtReplies (s : State) (b : Braid) : (s.setB b).mgmtReplies = s.mgmtReplies := rfl
@[simp] theorem State.setB_healthTo (s : State) (b : Braid) : (s.setB b).healthTo = s.healthTo := rfl
@[simp] theorem State.setB_remap (s : State) (b : Braid) : (s.setB b).remap = s.remap := rfl
@[simp] theorem State.setB_outQuads (s : State) (b : Braid) : (s.setB b).outQuads = s.outQuads := rfl
@[simp] theorem State.setB_badQuads (s : State) (b : Braid) : (s.setB b).badQuads = s.badQuads := rfl
@[simp] theorem State.setB_ports (s : State) (b : Braid) : (s.setB b).ports = s.ports := rfl
@[simp] theorem State.setB_mustCold (s : State) (b : Braid) : (s.setB b).mustCold = s.mustCold := rfl
@[simp] theorem State.setB_chunks (s : State) (b : Braid) : (s.setB b).chunks = s.chunks := rfl
@[simp] theorem State.setB_arrivals (s : State) (b : Braid) : (s.setB b).arrivals = s.arrivals := rfl
@[simp] theorem State.setB_fabOut (s : State) (b : Braid) : (s.setB b).fabOut = s.fabOut := rfl
@[simp] theorem State.setB_xres (s : State) (b : Braid) : (s.setB b).xres = s.xres := rfl
@[simp] theorem State.setB_hostReplies (s : State) (b : Braid) : (s.setB b).hostReplies = s.hostReplies := rfl
@[simp] theorem State.setB_loadReplies (s : State) (b : Braid) : (s.setB b).loadReplies = s.loadReplies := rfl
@[simp] theorem State.setB_lost (s : State) (b : Braid) : (s.setB b).lost = s.lost := rfl
@[simp] theorem State.setB_ticks (s : State) (b : Braid) : (s.setB b).ticks = s.ticks := rfl
@[simp] theorem State.setB_startTick (s : State) (b : Braid) : (s.setB b).startTick = s.startTick := rfl
@[simp] theorem State.setB_free (s : State) (b : Braid) : (s.setB b).free = s.free := rfl
@[simp] theorem State.setB_nextId (s : State) (b : Braid) : (s.setB b).nextId = s.nextId := rfl
@[simp] theorem State.setB_age (s : State) (b : Braid) : (s.setB b).age = s.age := rfl
@[simp] theorem State.setB_b (s : State) (b : Braid) : (s.setB b).b = b := rfl
@[simp] theorem State.mapCtx_hart (s : State) (f : Ctx → Ctx) : (s.mapCtx f).hart = s.hart := rfl
@[simp] theorem State.mapCtx_rest (s : State) (f : Ctx → Ctx) : (s.mapCtx f).rest = s.rest := rfl
@[simp] theorem State.mapCtx_turns (s : State) (f : Ctx → Ctx) : (s.mapCtx f).turns = s.turns := rfl
@[simp] theorem State.mapCtx_egStop (s : State) (f : Ctx → Ctx) : (s.mapCtx f).egStop = s.egStop := rfl
@[simp] theorem State.mapCtx_lazy (s : State) (f : Ctx → Ctx) : (s.mapCtx f).lazy = s.lazy := rfl
@[simp] theorem State.mapCtx_mem (s : State) (f : Ctx → Ctx) : (s.mapCtx f).mem = s.mem := rfl
@[simp] theorem State.mapCtx_poison (s : State) (f : Ctx → Ctx) : (s.mapCtx f).poison = s.poison := rfl
@[simp] theorem State.mapCtx_dram (s : State) (f : Ctx → Ctx) : (s.mapCtx f).dram = s.dram := rfl
@[simp] theorem State.mapCtx_tlb (s : State) (f : Ctx → Ctx) : (s.mapCtx f).tlb = s.tlb := rfl
@[simp] theorem State.mapCtx_tasks (s : State) (f : Ctx → Ctx) : (s.mapCtx f).tasks = s.tasks := rfl
@[simp] theorem State.mapCtx_sets (s : State) (f : Ctx → Ctx) : (s.mapCtx f).sets = s.sets := rfl
@[simp] theorem State.mapCtx_cards (s : State) (f : Ctx → Ctx) : (s.mapCtx f).cards = s.cards := rfl
@[simp] theorem State.mapCtx_winErr (s : State) (f : Ctx → Ctx) : (s.mapCtx f).winErr = s.winErr := rfl
@[simp] theorem State.mapCtx_jobs (s : State) (f : Ctx → Ctx) : (s.mapCtx f).jobs = s.jobs := rfl
@[simp] theorem State.mapCtx_barriers (s : State) (f : Ctx → Ctx) : (s.mapCtx f).barriers = s.barriers := rfl
@[simp] theorem State.mapCtx_lanes (s : State) (f : Ctx → Ctx) : (s.mapCtx f).lanes = s.lanes := rfl
@[simp] theorem State.mapCtx_slices (s : State) (f : Ctx → Ctx) : (s.mapCtx f).slices = s.slices := rfl
@[simp] theorem State.mapCtx_aproot (s : State) (f : Ctx → Ctx) : (s.mapCtx f).aproot = s.aproot := rfl
@[simp] theorem State.mapCtx_apasn (s : State) (f : Ctx → Ctx) : (s.mapCtx f).apasn = s.apasn := rfl
@[simp] theorem State.mapCtx_lmember (s : State) (f : Ctx → Ctx) : (s.mapCtx f).lmember = s.lmember := rfl
@[simp] theorem State.mapCtx_ticket (s : State) (f : Ctx → Ctx) : (s.mapCtx f).ticket = s.ticket := rfl
@[simp] theorem State.mapCtx_apBase (s : State) (f : Ctx → Ctx) : (s.mapCtx f).apBase = s.apBase := rfl
@[simp] theorem State.mapCtx_modState (s : State) (f : Ctx → Ctx) : (s.mapCtx f).modState = s.modState := rfl
@[simp] theorem State.mapCtx_msix (s : State) (f : Ctx → Ctx) : (s.mapCtx f).msix = s.msix := rfl
@[simp] theorem State.mapCtx_pend34 (s : State) (f : Ctx → Ctx) : (s.mapCtx f).pend34 = s.pend34 := rfl
@[simp] theorem State.mapCtx_failedCold (s : State) (f : Ctx → Ctx) : (s.mapCtx f).failedCold = s.failedCold := rfl
@[simp] theorem State.mapCtx_endOfLife (s : State) (f : Ctx → Ctx) : (s.mapCtx f).endOfLife = s.endOfLife := rfl
@[simp] theorem State.mapCtx_ageing (s : State) (f : Ctx → Ctx) : (s.mapCtx f).ageing = s.ageing := rfl
@[simp] theorem State.mapCtx_mgmtReplies (s : State) (f : Ctx → Ctx) : (s.mapCtx f).mgmtReplies = s.mgmtReplies := rfl
@[simp] theorem State.mapCtx_healthTo (s : State) (f : Ctx → Ctx) : (s.mapCtx f).healthTo = s.healthTo := rfl
@[simp] theorem State.mapCtx_remap (s : State) (f : Ctx → Ctx) : (s.mapCtx f).remap = s.remap := rfl
@[simp] theorem State.mapCtx_outQuads (s : State) (f : Ctx → Ctx) : (s.mapCtx f).outQuads = s.outQuads := rfl
@[simp] theorem State.mapCtx_badQuads (s : State) (f : Ctx → Ctx) : (s.mapCtx f).badQuads = s.badQuads := rfl
@[simp] theorem State.mapCtx_ports (s : State) (f : Ctx → Ctx) : (s.mapCtx f).ports = s.ports := rfl
@[simp] theorem State.mapCtx_mustCold (s : State) (f : Ctx → Ctx) : (s.mapCtx f).mustCold = s.mustCold := rfl
@[simp] theorem State.mapCtx_chunks (s : State) (f : Ctx → Ctx) : (s.mapCtx f).chunks = s.chunks := rfl
@[simp] theorem State.mapCtx_arrivals (s : State) (f : Ctx → Ctx) : (s.mapCtx f).arrivals = s.arrivals := rfl
@[simp] theorem State.mapCtx_fabOut (s : State) (f : Ctx → Ctx) : (s.mapCtx f).fabOut = s.fabOut := rfl
@[simp] theorem State.mapCtx_xres (s : State) (f : Ctx → Ctx) : (s.mapCtx f).xres = s.xres := rfl
@[simp] theorem State.mapCtx_hostReplies (s : State) (f : Ctx → Ctx) : (s.mapCtx f).hostReplies = s.hostReplies := rfl
@[simp] theorem State.mapCtx_loadReplies (s : State) (f : Ctx → Ctx) : (s.mapCtx f).loadReplies = s.loadReplies := rfl
@[simp] theorem State.mapCtx_lost (s : State) (f : Ctx → Ctx) : (s.mapCtx f).lost = s.lost := rfl
@[simp] theorem State.mapCtx_ticks (s : State) (f : Ctx → Ctx) : (s.mapCtx f).ticks = s.ticks := rfl
@[simp] theorem State.mapCtx_startTick (s : State) (f : Ctx → Ctx) : (s.mapCtx f).startTick = s.startTick := rfl
@[simp] theorem State.mapCtx_free (s : State) (f : Ctx → Ctx) : (s.mapCtx f).free = s.free := rfl
@[simp] theorem State.mapCtx_nextId (s : State) (f : Ctx → Ctx) : (s.mapCtx f).nextId = s.nextId := rfl
@[simp] theorem State.mapCtx_age (s : State) (f : Ctx → Ctx) : (s.mapCtx f).age = s.age := rfl
@[simp] theorem State.mapCtx_b_id (s : State) (f : Ctx → Ctx) : (s.mapCtx f).b.id = s.b.id := rfl
@[simp] theorem State.mapCtx_b_live (s : State) (f : Ctx → Ctx) : (s.mapCtx f).b.live = s.b.live := rfl
@[simp] theorem State.mapCtx_b_left (s : State) (f : Ctx → Ctx) : (s.mapCtx f).b.left = s.b.left := rfl
@[simp] theorem State.mapCtx_b_savedAt (s : State) (f : Ctx → Ctx) : (s.mapCtx f).b.savedAt = s.b.savedAt := rfl
@[simp] theorem State.mapCtx_b_core (s : State) (f : Ctx → Ctx) : (s.mapCtx f).b.core = s.b.core := rfl
@[simp] theorem State.mapCtx_b_task (s : State) (f : Ctx → Ctx) : (s.mapCtx f).b.task = s.b.task := rfl
@[simp] theorem State.mapCtx_b_idx (s : State) (f : Ctx → Ctx) : (s.mapCtx f).b.idx = s.b.idx := rfl
@[simp] theorem State.mapCtx_b_rep (s : State) (f : Ctx → Ctx) : (s.mapCtx f).b.rep = s.b.rep := rfl
@[simp] theorem State.mapCtx_b_level (s : State) (f : Ctx → Ctx) : (s.mapCtx f).b.level = s.b.level := rfl
@[simp] theorem State.mapCtx_b_sysb (s : State) (f : Ctx → Ctx) : (s.mapCtx f).b.sysb = s.b.sysb := rfl
@[simp] theorem State.mapCtx_b_cause (s : State) (f : Ctx → Ctx) : (s.mapCtx f).b.cause = s.b.cause := rfl
@[simp] theorem State.mapCtx_b_epc (s : State) (f : Ctx → Ctx) : (s.mapCtx f).b.epc = s.b.epc := rfl
@[simp] theorem State.mapCtx_b_tvec (s : State) (f : Ctx → Ctx) : (s.mapCtx f).b.tvec = s.b.tvec := rfl
@[simp] theorem State.mapCtx_b_status (s : State) (f : Ctx → Ctx) : (s.mapCtx f).b.status = s.b.status := rfl
@[simp] theorem State.mapCtx_b_pcH (s : State) (f : Ctx → Ctx) : (s.mapCtx f).b.pcH = s.b.pcH := rfl
@[simp] theorem State.mapCtx_b_endS (s : State) (f : Ctx → Ctx) : (s.mapCtx f).b.endS = s.b.endS := rfl
@[simp] theorem State.mapCtx_b_loaded (s : State) (f : Ctx → Ctx) : (s.mapCtx f).b.loaded = s.b.loaded := rfl
@[simp] theorem State.mapCtx_b_entryCtx (s : State) (f : Ctx → Ctx) : (s.mapCtx f).b.entryCtx = s.b.entryCtx := rfl
@[simp] theorem State.mapCtx_b_waitA (s : State) (f : Ctx → Ctx) : (s.mapCtx f).b.waitA = s.b.waitA := rfl
@[simp] theorem State.mapCtx_b_waitX (s : State) (f : Ctx → Ctx) : (s.mapCtx f).b.waitX = s.b.waitX := rfl
@[simp] theorem State.mapCtx_b_irq32 (s : State) (f : Ctx → Ctx) : (s.mapCtx f).b.irq32 = s.b.irq32 := rfl
@[simp] theorem State.mapCtx_b_irq34 (s : State) (f : Ctx → Ctx) : (s.mapCtx f).b.irq34 = s.b.irq34 := rfl
@[simp] theorem State.mapCtx_b_irq35 (s : State) (f : Ctx → Ctx) : (s.mapCtx f).b.irq35 = s.b.irq35 := rfl
@[simp] theorem State.mapCtx_b_cache (s : State) (f : Ctx → Ctx) : (s.mapCtx f).b.cache = s.b.cache := rfl
@[simp] theorem State.mapCtx_b_hwm (s : State) (f : Ctx → Ctx) : (s.mapCtx f).b.hwm = s.b.hwm := rfl
@[simp] theorem State.mapCtx_b_binds (s : State) (f : Ctx → Ctx) : (s.mapCtx f).b.binds = s.b.binds := rfl
@[simp] theorem State.mapCtx_b_jobsIssued (s : State) (f : Ctx → Ctx) : (s.mapCtx f).b.jobsIssued = s.b.jobsIssued := rfl
@[simp] theorem State.mapCtx_b_monitor (s : State) (f : Ctx → Ctx) : (s.mapCtx f).b.monitor = s.b.monitor := rfl
@[simp] theorem State.mapCtx_b_tab (s : State) (f : Ctx → Ctx) : (s.mapCtx f).b.tab = s.b.tab := rfl
@[simp] theorem State.mapCtx_b_crcA (s : State) (f : Ctx → Ctx) : (s.mapCtx f).b.crcA = s.b.crcA := rfl
@[simp] theorem State.mapCtx_b_crcX (s : State) (f : Ctx → Ctx) : (s.mapCtx f).b.crcX = s.b.crcX := rfl
@[simp] theorem State.mapCtx_b_retA (s : State) (f : Ctx → Ctx) : (s.mapCtx f).b.retA = s.b.retA := rfl
@[simp] theorem State.mapCtx_b_retX (s : State) (f : Ctx → Ctx) : (s.mapCtx f).b.retX = s.b.retX := rfl
@[simp] theorem State.mapCtx_b_buf (s : State) (f : Ctx → Ctx) : (s.mapCtx f).b.buf = s.b.buf := rfl
@[simp] theorem State.mapCtx_b_memDone (s : State) (f : Ctx → Ctx) : (s.mapCtx f).b.memDone = s.b.memDone := rfl
@[simp] theorem State.mapCtx_b_memHeld (s : State) (f : Ctx → Ctx) : (s.mapCtx f).b.memHeld = s.b.memHeld := rfl
@[simp] theorem State.mapCtx_b_chk (s : State) (f : Ctx → Ctx) : (s.mapCtx f).b.chk = s.b.chk := rfl
@[simp] theorem State.mapCtx_b_atRel (s : State) (f : Ctx → Ctx) : (s.mapCtx f).b.atRel = s.b.atRel := rfl
@[simp] theorem State.mapCtx_b_relRec (s : State) (f : Ctx → Ctx) : (s.mapCtx f).b.relRec = s.b.relRec := rfl
@[simp] theorem State.mapCtx_b_agreedA (s : State) (f : Ctx → Ctx) : (s.mapCtx f).b.agreedA = s.b.agreedA := rfl
@[simp] theorem State.mapCtx_b_agreedX (s : State) (f : Ctx → Ctx) : (s.mapCtx f).b.agreedX = s.b.agreedX := rfl
@[simp] theorem State.mapCtx_b_agHeld (s : State) (f : Ctx → Ctx) : (s.mapCtx f).b.agHeld = s.b.agHeld := rfl
@[simp] theorem State.mapCtx_b_fwdA (s : State) (f : Ctx → Ctx) : (s.mapCtx f).b.fwdA = s.b.fwdA := rfl
@[simp] theorem State.mapCtx_b_fwdX (s : State) (f : Ctx → Ctx) : (s.mapCtx f).b.fwdX = s.b.fwdX := rfl
@[simp] theorem State.mapCtx_b_fwdF (s : State) (f : Ctx → Ctx) : (s.mapCtx f).b.fwdF = s.b.fwdF := rfl
@[simp] theorem State.mapCtx_b_pairsA (s : State) (f : Ctx → Ctx) : (s.mapCtx f).b.pairsA = s.b.pairsA := rfl
@[simp] theorem State.mapCtx_b_pairsX (s : State) (f : Ctx → Ctx) : (s.mapCtx f).b.pairsX = s.b.pairsX := rfl
@[simp] theorem State.mapCtx_b_due (s : State) (f : Ctx → Ctx) : (s.mapCtx f).b.due = s.b.due := rfl
@[simp] theorem State.mapCtx_b_landDue (s : State) (f : Ctx → Ctx) : (s.mapCtx f).b.landDue = s.b.landDue := rfl
@[simp] theorem State.mapCtx_b_posA (s : State) (f : Ctx → Ctx) : (s.mapCtx f).b.posA = s.b.posA := rfl
@[simp] theorem State.mapCtx_b_posX (s : State) (f : Ctx → Ctx) : (s.mapCtx f).b.posX = s.b.posX := rfl
@[simp] theorem State.mapCtx_b_tookA (s : State) (f : Ctx → Ctx) : (s.mapCtx f).b.tookA = s.b.tookA := rfl
@[simp] theorem State.mapCtx_b_landAt (s : State) (f : Ctx → Ctx) : (s.mapCtx f).b.landAt = s.b.landAt := rfl
@[simp] theorem State.mapCtx_b_askAge (s : State) (f : Ctx → Ctx) : (s.mapCtx f).b.askAge = s.b.askAge := rfl
@[simp] theorem State.mapCtx_b_out (s : State) (f : Ctx → Ctx) : (s.mapCtx f).b.out = s.b.out := rfl
@[simp] theorem State.mapCtx_b_ctx (s : State) (f : Ctx → Ctx) : (s.mapCtx f).b.ctx = f s.b.ctx := rfl
@[simp] theorem State.setCtx_hart (s : State) (c : Ctx) : (s.setCtx c).hart = s.hart := rfl
@[simp] theorem State.setCtx_rest (s : State) (c : Ctx) : (s.setCtx c).rest = s.rest := rfl
@[simp] theorem State.setCtx_turns (s : State) (c : Ctx) : (s.setCtx c).turns = s.turns := rfl
@[simp] theorem State.setCtx_egStop (s : State) (c : Ctx) : (s.setCtx c).egStop = s.egStop := rfl
@[simp] theorem State.setCtx_lazy (s : State) (c : Ctx) : (s.setCtx c).lazy = s.lazy := rfl
@[simp] theorem State.setCtx_mem (s : State) (c : Ctx) : (s.setCtx c).mem = s.mem := rfl
@[simp] theorem State.setCtx_poison (s : State) (c : Ctx) : (s.setCtx c).poison = s.poison := rfl
@[simp] theorem State.setCtx_dram (s : State) (c : Ctx) : (s.setCtx c).dram = s.dram := rfl
@[simp] theorem State.setCtx_tlb (s : State) (c : Ctx) : (s.setCtx c).tlb = s.tlb := rfl
@[simp] theorem State.setCtx_tasks (s : State) (c : Ctx) : (s.setCtx c).tasks = s.tasks := rfl
@[simp] theorem State.setCtx_sets (s : State) (c : Ctx) : (s.setCtx c).sets = s.sets := rfl
@[simp] theorem State.setCtx_cards (s : State) (c : Ctx) : (s.setCtx c).cards = s.cards := rfl
@[simp] theorem State.setCtx_winErr (s : State) (c : Ctx) : (s.setCtx c).winErr = s.winErr := rfl
@[simp] theorem State.setCtx_jobs (s : State) (c : Ctx) : (s.setCtx c).jobs = s.jobs := rfl
@[simp] theorem State.setCtx_barriers (s : State) (c : Ctx) : (s.setCtx c).barriers = s.barriers := rfl
@[simp] theorem State.setCtx_lanes (s : State) (c : Ctx) : (s.setCtx c).lanes = s.lanes := rfl
@[simp] theorem State.setCtx_slices (s : State) (c : Ctx) : (s.setCtx c).slices = s.slices := rfl
@[simp] theorem State.setCtx_aproot (s : State) (c : Ctx) : (s.setCtx c).aproot = s.aproot := rfl
@[simp] theorem State.setCtx_apasn (s : State) (c : Ctx) : (s.setCtx c).apasn = s.apasn := rfl
@[simp] theorem State.setCtx_lmember (s : State) (c : Ctx) : (s.setCtx c).lmember = s.lmember := rfl
@[simp] theorem State.setCtx_ticket (s : State) (c : Ctx) : (s.setCtx c).ticket = s.ticket := rfl
@[simp] theorem State.setCtx_apBase (s : State) (c : Ctx) : (s.setCtx c).apBase = s.apBase := rfl
@[simp] theorem State.setCtx_modState (s : State) (c : Ctx) : (s.setCtx c).modState = s.modState := rfl
@[simp] theorem State.setCtx_msix (s : State) (c : Ctx) : (s.setCtx c).msix = s.msix := rfl
@[simp] theorem State.setCtx_pend34 (s : State) (c : Ctx) : (s.setCtx c).pend34 = s.pend34 := rfl
@[simp] theorem State.setCtx_failedCold (s : State) (c : Ctx) : (s.setCtx c).failedCold = s.failedCold := rfl
@[simp] theorem State.setCtx_endOfLife (s : State) (c : Ctx) : (s.setCtx c).endOfLife = s.endOfLife := rfl
@[simp] theorem State.setCtx_ageing (s : State) (c : Ctx) : (s.setCtx c).ageing = s.ageing := rfl
@[simp] theorem State.setCtx_mgmtReplies (s : State) (c : Ctx) : (s.setCtx c).mgmtReplies = s.mgmtReplies := rfl
@[simp] theorem State.setCtx_healthTo (s : State) (c : Ctx) : (s.setCtx c).healthTo = s.healthTo := rfl
@[simp] theorem State.setCtx_remap (s : State) (c : Ctx) : (s.setCtx c).remap = s.remap := rfl
@[simp] theorem State.setCtx_outQuads (s : State) (c : Ctx) : (s.setCtx c).outQuads = s.outQuads := rfl
@[simp] theorem State.setCtx_badQuads (s : State) (c : Ctx) : (s.setCtx c).badQuads = s.badQuads := rfl
@[simp] theorem State.setCtx_ports (s : State) (c : Ctx) : (s.setCtx c).ports = s.ports := rfl
@[simp] theorem State.setCtx_mustCold (s : State) (c : Ctx) : (s.setCtx c).mustCold = s.mustCold := rfl
@[simp] theorem State.setCtx_chunks (s : State) (c : Ctx) : (s.setCtx c).chunks = s.chunks := rfl
@[simp] theorem State.setCtx_arrivals (s : State) (c : Ctx) : (s.setCtx c).arrivals = s.arrivals := rfl
@[simp] theorem State.setCtx_fabOut (s : State) (c : Ctx) : (s.setCtx c).fabOut = s.fabOut := rfl
@[simp] theorem State.setCtx_xres (s : State) (c : Ctx) : (s.setCtx c).xres = s.xres := rfl
@[simp] theorem State.setCtx_hostReplies (s : State) (c : Ctx) : (s.setCtx c).hostReplies = s.hostReplies := rfl
@[simp] theorem State.setCtx_loadReplies (s : State) (c : Ctx) : (s.setCtx c).loadReplies = s.loadReplies := rfl
@[simp] theorem State.setCtx_lost (s : State) (c : Ctx) : (s.setCtx c).lost = s.lost := rfl
@[simp] theorem State.setCtx_ticks (s : State) (c : Ctx) : (s.setCtx c).ticks = s.ticks := rfl
@[simp] theorem State.setCtx_startTick (s : State) (c : Ctx) : (s.setCtx c).startTick = s.startTick := rfl
@[simp] theorem State.setCtx_free (s : State) (c : Ctx) : (s.setCtx c).free = s.free := rfl
@[simp] theorem State.setCtx_nextId (s : State) (c : Ctx) : (s.setCtx c).nextId = s.nextId := rfl
@[simp] theorem State.setCtx_age (s : State) (c : Ctx) : (s.setCtx c).age = s.age := rfl
@[simp] theorem State.setCtx_b_id (s : State) (c : Ctx) : (s.setCtx c).b.id = s.b.id := rfl
@[simp] theorem State.setCtx_b_live (s : State) (c : Ctx) : (s.setCtx c).b.live = s.b.live := rfl
@[simp] theorem State.setCtx_b_left (s : State) (c : Ctx) : (s.setCtx c).b.left = s.b.left := rfl
@[simp] theorem State.setCtx_b_savedAt (s : State) (c : Ctx) : (s.setCtx c).b.savedAt = s.b.savedAt := rfl
@[simp] theorem State.setCtx_b_core (s : State) (c : Ctx) : (s.setCtx c).b.core = s.b.core := rfl
@[simp] theorem State.setCtx_b_task (s : State) (c : Ctx) : (s.setCtx c).b.task = s.b.task := rfl
@[simp] theorem State.setCtx_b_idx (s : State) (c : Ctx) : (s.setCtx c).b.idx = s.b.idx := rfl
@[simp] theorem State.setCtx_b_rep (s : State) (c : Ctx) : (s.setCtx c).b.rep = s.b.rep := rfl
@[simp] theorem State.setCtx_b_level (s : State) (c : Ctx) : (s.setCtx c).b.level = s.b.level := rfl
@[simp] theorem State.setCtx_b_sysb (s : State) (c : Ctx) : (s.setCtx c).b.sysb = s.b.sysb := rfl
@[simp] theorem State.setCtx_b_cause (s : State) (c : Ctx) : (s.setCtx c).b.cause = s.b.cause := rfl
@[simp] theorem State.setCtx_b_epc (s : State) (c : Ctx) : (s.setCtx c).b.epc = s.b.epc := rfl
@[simp] theorem State.setCtx_b_tvec (s : State) (c : Ctx) : (s.setCtx c).b.tvec = s.b.tvec := rfl
@[simp] theorem State.setCtx_b_status (s : State) (c : Ctx) : (s.setCtx c).b.status = s.b.status := rfl
@[simp] theorem State.setCtx_b_pcH (s : State) (c : Ctx) : (s.setCtx c).b.pcH = s.b.pcH := rfl
@[simp] theorem State.setCtx_b_endS (s : State) (c : Ctx) : (s.setCtx c).b.endS = s.b.endS := rfl
@[simp] theorem State.setCtx_b_loaded (s : State) (c : Ctx) : (s.setCtx c).b.loaded = s.b.loaded := rfl
@[simp] theorem State.setCtx_b_entryCtx (s : State) (c : Ctx) : (s.setCtx c).b.entryCtx = s.b.entryCtx := rfl
@[simp] theorem State.setCtx_b_waitA (s : State) (c : Ctx) : (s.setCtx c).b.waitA = s.b.waitA := rfl
@[simp] theorem State.setCtx_b_waitX (s : State) (c : Ctx) : (s.setCtx c).b.waitX = s.b.waitX := rfl
@[simp] theorem State.setCtx_b_irq32 (s : State) (c : Ctx) : (s.setCtx c).b.irq32 = s.b.irq32 := rfl
@[simp] theorem State.setCtx_b_irq34 (s : State) (c : Ctx) : (s.setCtx c).b.irq34 = s.b.irq34 := rfl
@[simp] theorem State.setCtx_b_irq35 (s : State) (c : Ctx) : (s.setCtx c).b.irq35 = s.b.irq35 := rfl
@[simp] theorem State.setCtx_b_cache (s : State) (c : Ctx) : (s.setCtx c).b.cache = s.b.cache := rfl
@[simp] theorem State.setCtx_b_hwm (s : State) (c : Ctx) : (s.setCtx c).b.hwm = s.b.hwm := rfl
@[simp] theorem State.setCtx_b_binds (s : State) (c : Ctx) : (s.setCtx c).b.binds = s.b.binds := rfl
@[simp] theorem State.setCtx_b_jobsIssued (s : State) (c : Ctx) : (s.setCtx c).b.jobsIssued = s.b.jobsIssued := rfl
@[simp] theorem State.setCtx_b_monitor (s : State) (c : Ctx) : (s.setCtx c).b.monitor = s.b.monitor := rfl
@[simp] theorem State.setCtx_b_tab (s : State) (c : Ctx) : (s.setCtx c).b.tab = s.b.tab := rfl
@[simp] theorem State.setCtx_b_crcA (s : State) (c : Ctx) : (s.setCtx c).b.crcA = s.b.crcA := rfl
@[simp] theorem State.setCtx_b_crcX (s : State) (c : Ctx) : (s.setCtx c).b.crcX = s.b.crcX := rfl
@[simp] theorem State.setCtx_b_retA (s : State) (c : Ctx) : (s.setCtx c).b.retA = s.b.retA := rfl
@[simp] theorem State.setCtx_b_retX (s : State) (c : Ctx) : (s.setCtx c).b.retX = s.b.retX := rfl
@[simp] theorem State.setCtx_b_buf (s : State) (c : Ctx) : (s.setCtx c).b.buf = s.b.buf := rfl
@[simp] theorem State.setCtx_b_memDone (s : State) (c : Ctx) : (s.setCtx c).b.memDone = s.b.memDone := rfl
@[simp] theorem State.setCtx_b_memHeld (s : State) (c : Ctx) : (s.setCtx c).b.memHeld = s.b.memHeld := rfl
@[simp] theorem State.setCtx_b_chk (s : State) (c : Ctx) : (s.setCtx c).b.chk = s.b.chk := rfl
@[simp] theorem State.setCtx_b_atRel (s : State) (c : Ctx) : (s.setCtx c).b.atRel = s.b.atRel := rfl
@[simp] theorem State.setCtx_b_relRec (s : State) (c : Ctx) : (s.setCtx c).b.relRec = s.b.relRec := rfl
@[simp] theorem State.setCtx_b_agreedA (s : State) (c : Ctx) : (s.setCtx c).b.agreedA = s.b.agreedA := rfl
@[simp] theorem State.setCtx_b_agreedX (s : State) (c : Ctx) : (s.setCtx c).b.agreedX = s.b.agreedX := rfl
@[simp] theorem State.setCtx_b_agHeld (s : State) (c : Ctx) : (s.setCtx c).b.agHeld = s.b.agHeld := rfl
@[simp] theorem State.setCtx_b_fwdA (s : State) (c : Ctx) : (s.setCtx c).b.fwdA = s.b.fwdA := rfl
@[simp] theorem State.setCtx_b_fwdX (s : State) (c : Ctx) : (s.setCtx c).b.fwdX = s.b.fwdX := rfl
@[simp] theorem State.setCtx_b_fwdF (s : State) (c : Ctx) : (s.setCtx c).b.fwdF = s.b.fwdF := rfl
@[simp] theorem State.setCtx_b_pairsA (s : State) (c : Ctx) : (s.setCtx c).b.pairsA = s.b.pairsA := rfl
@[simp] theorem State.setCtx_b_pairsX (s : State) (c : Ctx) : (s.setCtx c).b.pairsX = s.b.pairsX := rfl
@[simp] theorem State.setCtx_b_due (s : State) (c : Ctx) : (s.setCtx c).b.due = s.b.due := rfl
@[simp] theorem State.setCtx_b_landDue (s : State) (c : Ctx) : (s.setCtx c).b.landDue = s.b.landDue := rfl
@[simp] theorem State.setCtx_b_posA (s : State) (c : Ctx) : (s.setCtx c).b.posA = s.b.posA := rfl
@[simp] theorem State.setCtx_b_posX (s : State) (c : Ctx) : (s.setCtx c).b.posX = s.b.posX := rfl
@[simp] theorem State.setCtx_b_tookA (s : State) (c : Ctx) : (s.setCtx c).b.tookA = s.b.tookA := rfl
@[simp] theorem State.setCtx_b_landAt (s : State) (c : Ctx) : (s.setCtx c).b.landAt = s.b.landAt := rfl
@[simp] theorem State.setCtx_b_askAge (s : State) (c : Ctx) : (s.setCtx c).b.askAge = s.b.askAge := rfl
@[simp] theorem State.setCtx_b_out (s : State) (c : Ctx) : (s.setCtx c).b.out = s.b.out := rfl
@[simp] theorem State.setCtx_b_ctx (s : State) (c : Ctx) : (s.setCtx c).b.ctx = c := rfl
@[simp] theorem State.onHart_b (s : State) (h : Hart) : (s.onHart h).b = s.b := rfl
@[simp] theorem State.onHart_rest (s : State) (h : Hart) : (s.onHart h).rest = s.rest := rfl
@[simp] theorem State.onHart_turns (s : State) (h : Hart) : (s.onHart h).turns = s.turns := rfl
@[simp] theorem State.onHart_egStop (s : State) (h : Hart) : (s.onHart h).egStop = s.egStop := rfl
@[simp] theorem State.onHart_lazy (s : State) (h : Hart) : (s.onHart h).lazy = s.lazy := rfl
@[simp] theorem State.onHart_mem (s : State) (h : Hart) : (s.onHart h).mem = s.mem := rfl
@[simp] theorem State.onHart_poison (s : State) (h : Hart) : (s.onHart h).poison = s.poison := rfl
@[simp] theorem State.onHart_dram (s : State) (h : Hart) : (s.onHart h).dram = s.dram := rfl
@[simp] theorem State.onHart_tlb (s : State) (h : Hart) : (s.onHart h).tlb = s.tlb := rfl
@[simp] theorem State.onHart_tasks (s : State) (h : Hart) : (s.onHart h).tasks = s.tasks := rfl
@[simp] theorem State.onHart_sets (s : State) (h : Hart) : (s.onHart h).sets = s.sets := rfl
@[simp] theorem State.onHart_cards (s : State) (h : Hart) : (s.onHart h).cards = s.cards := rfl
@[simp] theorem State.onHart_winErr (s : State) (h : Hart) : (s.onHart h).winErr = s.winErr := rfl
@[simp] theorem State.onHart_jobs (s : State) (h : Hart) : (s.onHart h).jobs = s.jobs := rfl
@[simp] theorem State.onHart_barriers (s : State) (h : Hart) : (s.onHart h).barriers = s.barriers := rfl
@[simp] theorem State.onHart_lanes (s : State) (h : Hart) : (s.onHart h).lanes = s.lanes := rfl
@[simp] theorem State.onHart_slices (s : State) (h : Hart) : (s.onHart h).slices = s.slices := rfl
@[simp] theorem State.onHart_aproot (s : State) (h : Hart) : (s.onHart h).aproot = s.aproot := rfl
@[simp] theorem State.onHart_apasn (s : State) (h : Hart) : (s.onHart h).apasn = s.apasn := rfl
@[simp] theorem State.onHart_lmember (s : State) (h : Hart) : (s.onHart h).lmember = s.lmember := rfl
@[simp] theorem State.onHart_ticket (s : State) (h : Hart) : (s.onHart h).ticket = s.ticket := rfl
@[simp] theorem State.onHart_apBase (s : State) (h : Hart) : (s.onHart h).apBase = s.apBase := rfl
@[simp] theorem State.onHart_modState (s : State) (h : Hart) : (s.onHart h).modState = s.modState := rfl
@[simp] theorem State.onHart_msix (s : State) (h : Hart) : (s.onHart h).msix = s.msix := rfl
@[simp] theorem State.onHart_pend34 (s : State) (h : Hart) : (s.onHart h).pend34 = s.pend34 := rfl
@[simp] theorem State.onHart_failedCold (s : State) (h : Hart) : (s.onHart h).failedCold = s.failedCold := rfl
@[simp] theorem State.onHart_endOfLife (s : State) (h : Hart) : (s.onHart h).endOfLife = s.endOfLife := rfl
@[simp] theorem State.onHart_ageing (s : State) (h : Hart) : (s.onHart h).ageing = s.ageing := rfl
@[simp] theorem State.onHart_mgmtReplies (s : State) (h : Hart) : (s.onHart h).mgmtReplies = s.mgmtReplies := rfl
@[simp] theorem State.onHart_healthTo (s : State) (h : Hart) : (s.onHart h).healthTo = s.healthTo := rfl
@[simp] theorem State.onHart_remap (s : State) (h : Hart) : (s.onHart h).remap = s.remap := rfl
@[simp] theorem State.onHart_outQuads (s : State) (h : Hart) : (s.onHart h).outQuads = s.outQuads := rfl
@[simp] theorem State.onHart_badQuads (s : State) (h : Hart) : (s.onHart h).badQuads = s.badQuads := rfl
@[simp] theorem State.onHart_ports (s : State) (h : Hart) : (s.onHart h).ports = s.ports := rfl
@[simp] theorem State.onHart_mustCold (s : State) (h : Hart) : (s.onHart h).mustCold = s.mustCold := rfl
@[simp] theorem State.onHart_chunks (s : State) (h : Hart) : (s.onHart h).chunks = s.chunks := rfl
@[simp] theorem State.onHart_arrivals (s : State) (h : Hart) : (s.onHart h).arrivals = s.arrivals := rfl
@[simp] theorem State.onHart_fabOut (s : State) (h : Hart) : (s.onHart h).fabOut = s.fabOut := rfl
@[simp] theorem State.onHart_xres (s : State) (h : Hart) : (s.onHart h).xres = s.xres := rfl
@[simp] theorem State.onHart_hostReplies (s : State) (h : Hart) : (s.onHart h).hostReplies = s.hostReplies := rfl
@[simp] theorem State.onHart_loadReplies (s : State) (h : Hart) : (s.onHart h).loadReplies = s.loadReplies := rfl
@[simp] theorem State.onHart_lost (s : State) (h : Hart) : (s.onHart h).lost = s.lost := rfl
@[simp] theorem State.onHart_ticks (s : State) (h : Hart) : (s.onHart h).ticks = s.ticks := rfl
@[simp] theorem State.onHart_startTick (s : State) (h : Hart) : (s.onHart h).startTick = s.startTick := rfl
@[simp] theorem State.onHart_free (s : State) (h : Hart) : (s.onHart h).free = s.free := rfl
@[simp] theorem State.onHart_nextId (s : State) (h : Hart) : (s.onHart h).nextId = s.nextId := rfl
@[simp] theorem State.onHart_age (s : State) (h : Hart) : (s.onHart h).age = s.age := rfl
@[simp] theorem State.onHart_hart (s : State) (h : Hart) : (s.onHart h).hart = h := rfl
@[simp] theorem State.mapTask_b (s : State) (t : Nat) (f : Task → Task) : (s.mapTask t f).b = s.b := rfl
@[simp] theorem State.mapTask_hart (s : State) (t : Nat) (f : Task → Task) : (s.mapTask t f).hart = s.hart := rfl
@[simp] theorem State.mapTask_rest (s : State) (t : Nat) (f : Task → Task) : (s.mapTask t f).rest = s.rest := rfl
@[simp] theorem State.mapTask_turns (s : State) (t : Nat) (f : Task → Task) : (s.mapTask t f).turns = s.turns := rfl
@[simp] theorem State.mapTask_egStop (s : State) (t : Nat) (f : Task → Task) : (s.mapTask t f).egStop = s.egStop := rfl
@[simp] theorem State.mapTask_lazy (s : State) (t : Nat) (f : Task → Task) : (s.mapTask t f).lazy = s.lazy := rfl
@[simp] theorem State.mapTask_mem (s : State) (t : Nat) (f : Task → Task) : (s.mapTask t f).mem = s.mem := rfl
@[simp] theorem State.mapTask_poison (s : State) (t : Nat) (f : Task → Task) : (s.mapTask t f).poison = s.poison := rfl
@[simp] theorem State.mapTask_dram (s : State) (t : Nat) (f : Task → Task) : (s.mapTask t f).dram = s.dram := rfl
@[simp] theorem State.mapTask_tlb (s : State) (t : Nat) (f : Task → Task) : (s.mapTask t f).tlb = s.tlb := rfl
@[simp] theorem State.mapTask_sets (s : State) (t : Nat) (f : Task → Task) : (s.mapTask t f).sets = s.sets := rfl
@[simp] theorem State.mapTask_cards (s : State) (t : Nat) (f : Task → Task) : (s.mapTask t f).cards = s.cards := rfl
@[simp] theorem State.mapTask_winErr (s : State) (t : Nat) (f : Task → Task) : (s.mapTask t f).winErr = s.winErr := rfl
@[simp] theorem State.mapTask_jobs (s : State) (t : Nat) (f : Task → Task) : (s.mapTask t f).jobs = s.jobs := rfl
@[simp] theorem State.mapTask_barriers (s : State) (t : Nat) (f : Task → Task) : (s.mapTask t f).barriers = s.barriers := rfl
@[simp] theorem State.mapTask_lanes (s : State) (t : Nat) (f : Task → Task) : (s.mapTask t f).lanes = s.lanes := rfl
@[simp] theorem State.mapTask_slices (s : State) (t : Nat) (f : Task → Task) : (s.mapTask t f).slices = s.slices := rfl
@[simp] theorem State.mapTask_aproot (s : State) (t : Nat) (f : Task → Task) : (s.mapTask t f).aproot = s.aproot := rfl
@[simp] theorem State.mapTask_apasn (s : State) (t : Nat) (f : Task → Task) : (s.mapTask t f).apasn = s.apasn := rfl
@[simp] theorem State.mapTask_lmember (s : State) (t : Nat) (f : Task → Task) : (s.mapTask t f).lmember = s.lmember := rfl
@[simp] theorem State.mapTask_ticket (s : State) (t : Nat) (f : Task → Task) : (s.mapTask t f).ticket = s.ticket := rfl
@[simp] theorem State.mapTask_apBase (s : State) (t : Nat) (f : Task → Task) : (s.mapTask t f).apBase = s.apBase := rfl
@[simp] theorem State.mapTask_modState (s : State) (t : Nat) (f : Task → Task) : (s.mapTask t f).modState = s.modState := rfl
@[simp] theorem State.mapTask_msix (s : State) (t : Nat) (f : Task → Task) : (s.mapTask t f).msix = s.msix := rfl
@[simp] theorem State.mapTask_pend34 (s : State) (t : Nat) (f : Task → Task) : (s.mapTask t f).pend34 = s.pend34 := rfl
@[simp] theorem State.mapTask_failedCold (s : State) (t : Nat) (f : Task → Task) : (s.mapTask t f).failedCold = s.failedCold := rfl
@[simp] theorem State.mapTask_endOfLife (s : State) (t : Nat) (f : Task → Task) : (s.mapTask t f).endOfLife = s.endOfLife := rfl
@[simp] theorem State.mapTask_ageing (s : State) (t : Nat) (f : Task → Task) : (s.mapTask t f).ageing = s.ageing := rfl
@[simp] theorem State.mapTask_mgmtReplies (s : State) (t : Nat) (f : Task → Task) : (s.mapTask t f).mgmtReplies = s.mgmtReplies := rfl
@[simp] theorem State.mapTask_healthTo (s : State) (t : Nat) (f : Task → Task) : (s.mapTask t f).healthTo = s.healthTo := rfl
@[simp] theorem State.mapTask_remap (s : State) (t : Nat) (f : Task → Task) : (s.mapTask t f).remap = s.remap := rfl
@[simp] theorem State.mapTask_outQuads (s : State) (t : Nat) (f : Task → Task) : (s.mapTask t f).outQuads = s.outQuads := rfl
@[simp] theorem State.mapTask_badQuads (s : State) (t : Nat) (f : Task → Task) : (s.mapTask t f).badQuads = s.badQuads := rfl
@[simp] theorem State.mapTask_ports (s : State) (t : Nat) (f : Task → Task) : (s.mapTask t f).ports = s.ports := rfl
@[simp] theorem State.mapTask_mustCold (s : State) (t : Nat) (f : Task → Task) : (s.mapTask t f).mustCold = s.mustCold := rfl
@[simp] theorem State.mapTask_chunks (s : State) (t : Nat) (f : Task → Task) : (s.mapTask t f).chunks = s.chunks := rfl
@[simp] theorem State.mapTask_arrivals (s : State) (t : Nat) (f : Task → Task) : (s.mapTask t f).arrivals = s.arrivals := rfl
@[simp] theorem State.mapTask_fabOut (s : State) (t : Nat) (f : Task → Task) : (s.mapTask t f).fabOut = s.fabOut := rfl
@[simp] theorem State.mapTask_xres (s : State) (t : Nat) (f : Task → Task) : (s.mapTask t f).xres = s.xres := rfl
@[simp] theorem State.mapTask_hostReplies (s : State) (t : Nat) (f : Task → Task) : (s.mapTask t f).hostReplies = s.hostReplies := rfl
@[simp] theorem State.mapTask_loadReplies (s : State) (t : Nat) (f : Task → Task) : (s.mapTask t f).loadReplies = s.loadReplies := rfl
@[simp] theorem State.mapTask_lost (s : State) (t : Nat) (f : Task → Task) : (s.mapTask t f).lost = s.lost := rfl
@[simp] theorem State.mapTask_ticks (s : State) (t : Nat) (f : Task → Task) : (s.mapTask t f).ticks = s.ticks := rfl
@[simp] theorem State.mapTask_startTick (s : State) (t : Nat) (f : Task → Task) : (s.mapTask t f).startTick = s.startTick := rfl
@[simp] theorem State.mapTask_free (s : State) (t : Nat) (f : Task → Task) : (s.mapTask t f).free = s.free := rfl
@[simp] theorem State.mapTask_nextId (s : State) (t : Nat) (f : Task → Task) : (s.mapTask t f).nextId = s.nextId := rfl
@[simp] theorem State.mapTask_age (s : State) (t : Nat) (f : Task → Task) : (s.mapTask t f).age = s.age := rfl
@[simp] theorem State.mapBraids_hart (s : State) (f : Braid → Braid) : (s.mapBraids f).hart = s.hart := rfl
@[simp] theorem State.mapBraids_turns (s : State) (f : Braid → Braid) : (s.mapBraids f).turns = s.turns := rfl
@[simp] theorem State.mapBraids_egStop (s : State) (f : Braid → Braid) : (s.mapBraids f).egStop = s.egStop := rfl
@[simp] theorem State.mapBraids_lazy (s : State) (f : Braid → Braid) : (s.mapBraids f).lazy = s.lazy := rfl
@[simp] theorem State.mapBraids_mem (s : State) (f : Braid → Braid) : (s.mapBraids f).mem = s.mem := rfl
@[simp] theorem State.mapBraids_poison (s : State) (f : Braid → Braid) : (s.mapBraids f).poison = s.poison := rfl
@[simp] theorem State.mapBraids_dram (s : State) (f : Braid → Braid) : (s.mapBraids f).dram = s.dram := rfl
@[simp] theorem State.mapBraids_tlb (s : State) (f : Braid → Braid) : (s.mapBraids f).tlb = s.tlb := rfl
@[simp] theorem State.mapBraids_tasks (s : State) (f : Braid → Braid) : (s.mapBraids f).tasks = s.tasks := rfl
@[simp] theorem State.mapBraids_sets (s : State) (f : Braid → Braid) : (s.mapBraids f).sets = s.sets := rfl
@[simp] theorem State.mapBraids_cards (s : State) (f : Braid → Braid) : (s.mapBraids f).cards = s.cards := rfl
@[simp] theorem State.mapBraids_winErr (s : State) (f : Braid → Braid) : (s.mapBraids f).winErr = s.winErr := rfl
@[simp] theorem State.mapBraids_jobs (s : State) (f : Braid → Braid) : (s.mapBraids f).jobs = s.jobs := rfl
@[simp] theorem State.mapBraids_barriers (s : State) (f : Braid → Braid) : (s.mapBraids f).barriers = s.barriers := rfl
@[simp] theorem State.mapBraids_lanes (s : State) (f : Braid → Braid) : (s.mapBraids f).lanes = s.lanes := rfl
@[simp] theorem State.mapBraids_slices (s : State) (f : Braid → Braid) : (s.mapBraids f).slices = s.slices := rfl
@[simp] theorem State.mapBraids_aproot (s : State) (f : Braid → Braid) : (s.mapBraids f).aproot = s.aproot := rfl
@[simp] theorem State.mapBraids_apasn (s : State) (f : Braid → Braid) : (s.mapBraids f).apasn = s.apasn := rfl
@[simp] theorem State.mapBraids_lmember (s : State) (f : Braid → Braid) : (s.mapBraids f).lmember = s.lmember := rfl
@[simp] theorem State.mapBraids_ticket (s : State) (f : Braid → Braid) : (s.mapBraids f).ticket = s.ticket := rfl
@[simp] theorem State.mapBraids_apBase (s : State) (f : Braid → Braid) : (s.mapBraids f).apBase = s.apBase := rfl
@[simp] theorem State.mapBraids_modState (s : State) (f : Braid → Braid) : (s.mapBraids f).modState = s.modState := rfl
@[simp] theorem State.mapBraids_msix (s : State) (f : Braid → Braid) : (s.mapBraids f).msix = s.msix := rfl
@[simp] theorem State.mapBraids_pend34 (s : State) (f : Braid → Braid) : (s.mapBraids f).pend34 = s.pend34 := rfl
@[simp] theorem State.mapBraids_failedCold (s : State) (f : Braid → Braid) : (s.mapBraids f).failedCold = s.failedCold := rfl
@[simp] theorem State.mapBraids_endOfLife (s : State) (f : Braid → Braid) : (s.mapBraids f).endOfLife = s.endOfLife := rfl
@[simp] theorem State.mapBraids_ageing (s : State) (f : Braid → Braid) : (s.mapBraids f).ageing = s.ageing := rfl
@[simp] theorem State.mapBraids_mgmtReplies (s : State) (f : Braid → Braid) : (s.mapBraids f).mgmtReplies = s.mgmtReplies := rfl
@[simp] theorem State.mapBraids_healthTo (s : State) (f : Braid → Braid) : (s.mapBraids f).healthTo = s.healthTo := rfl
@[simp] theorem State.mapBraids_remap (s : State) (f : Braid → Braid) : (s.mapBraids f).remap = s.remap := rfl
@[simp] theorem State.mapBraids_outQuads (s : State) (f : Braid → Braid) : (s.mapBraids f).outQuads = s.outQuads := rfl
@[simp] theorem State.mapBraids_badQuads (s : State) (f : Braid → Braid) : (s.mapBraids f).badQuads = s.badQuads := rfl
@[simp] theorem State.mapBraids_ports (s : State) (f : Braid → Braid) : (s.mapBraids f).ports = s.ports := rfl
@[simp] theorem State.mapBraids_mustCold (s : State) (f : Braid → Braid) : (s.mapBraids f).mustCold = s.mustCold := rfl
@[simp] theorem State.mapBraids_chunks (s : State) (f : Braid → Braid) : (s.mapBraids f).chunks = s.chunks := rfl
@[simp] theorem State.mapBraids_arrivals (s : State) (f : Braid → Braid) : (s.mapBraids f).arrivals = s.arrivals := rfl
@[simp] theorem State.mapBraids_fabOut (s : State) (f : Braid → Braid) : (s.mapBraids f).fabOut = s.fabOut := rfl
@[simp] theorem State.mapBraids_xres (s : State) (f : Braid → Braid) : (s.mapBraids f).xres = s.xres := rfl
@[simp] theorem State.mapBraids_hostReplies (s : State) (f : Braid → Braid) : (s.mapBraids f).hostReplies = s.hostReplies := rfl
@[simp] theorem State.mapBraids_loadReplies (s : State) (f : Braid → Braid) : (s.mapBraids f).loadReplies = s.loadReplies := rfl
@[simp] theorem State.mapBraids_lost (s : State) (f : Braid → Braid) : (s.mapBraids f).lost = s.lost := rfl
@[simp] theorem State.mapBraids_ticks (s : State) (f : Braid → Braid) : (s.mapBraids f).ticks = s.ticks := rfl
@[simp] theorem State.mapBraids_startTick (s : State) (f : Braid → Braid) : (s.mapBraids f).startTick = s.startTick := rfl
@[simp] theorem State.mapBraids_free (s : State) (f : Braid → Braid) : (s.mapBraids f).free = s.free := rfl
@[simp] theorem State.mapBraids_nextId (s : State) (f : Braid → Braid) : (s.mapBraids f).nextId = s.nextId := rfl
@[simp] theorem State.mapBraids_age (s : State) (f : Braid → Braid) : (s.mapBraids f).age = s.age := rfl
@[simp] theorem State.mapBraids_b (s : State) (f : Braid → Braid) : (s.mapBraids f).b = f s.b := rfl
@[simp] theorem State.mapBraids_rest (s : State) (f : Braid → Braid) : (s.mapBraids f).rest = s.rest.map f := rfl

end Sys2Proof.Machine
end

