-- ==== Sys2Proof/Laws/Registers.lean ====
section
/-! SUPPORT. What the named operations on registers, program counters and waits change, and what they leave: outside the braid in
focus nothing, inside it only what is named. -/

namespace Sys2Proof.Machine

@[simp] theorem State.setA_outside (s : State) (r : Reg) (v : Word) :
    (s.setA r v).hart = s.hart ∧ (s.setA r v).rest = s.rest ∧ (s.setA r v).turns = s.turns ∧ (s.setA r v).egStop = s.egStop ∧
    (s.setA r v).mem = s.mem ∧ (s.setA r v).poison = s.poison ∧ (s.setA r v).dram = s.dram ∧ (s.setA r v).tlb = s.tlb ∧
    (s.setA r v).tasks = s.tasks ∧ (s.setA r v).sets = s.sets ∧ (s.setA r v).cards = s.cards ∧ (s.setA r v).winErr = s.winErr ∧
    (s.setA r v).jobs = s.jobs ∧ (s.setA r v).barriers = s.barriers ∧ (s.setA r v).lanes = s.lanes ∧ (s.setA r v).slices = s.slices ∧
    (s.setA r v).aproot = s.aproot ∧ (s.setA r v).apasn = s.apasn ∧ (s.setA r v).lmember = s.lmember ∧ (s.setA r v).lazy = s.lazy ∧
    (s.setA r v).ageing = s.ageing ∧ (s.setA r v).mgmtReplies = s.mgmtReplies ∧ (s.setA r v).badQuads = s.badQuads ∧ (s.setA r v).xres = s.xres ∧
    (s.setA r v).startTick = s.startTick ∧
    (s.setA r v).ticket = s.ticket ∧ (s.setA r v).apBase = s.apBase ∧ (s.setA r v).modState = s.modState ∧ (s.setA r v).msix = s.msix ∧
    (s.setA r v).pend34 = s.pend34 ∧ (s.setA r v).failedCold = s.failedCold ∧ (s.setA r v).endOfLife = s.endOfLife ∧
    (s.setA r v).healthTo = s.healthTo ∧ (s.setA r v).remap = s.remap ∧ (s.setA r v).outQuads = s.outQuads ∧ (s.setA r v).ports = s.ports ∧
    (s.setA r v).mustCold = s.mustCold ∧ (s.setA r v).chunks = s.chunks ∧ (s.setA r v).arrivals = s.arrivals ∧ (s.setA r v).fabOut = s.fabOut ∧
    (s.setA r v).hostReplies = s.hostReplies ∧ (s.setA r v).loadReplies = s.loadReplies ∧ (s.setA r v).lost = s.lost ∧
    (s.setA r v).ticks = s.ticks ∧ (s.setA r v).free = s.free ∧ (s.setA r v).nextId = s.nextId ∧ (s.setA r v).age = s.age := by
  unfold State.setA; split_ifs <;> simp

@[simp] theorem State.setA_inside (s : State) (r : Reg) (v : Word) :
    (s.setA r v).b.id = s.b.id ∧ (s.setA r v).b.live = s.b.live ∧ (s.setA r v).b.left = s.b.left ∧ (s.setA r v).b.savedAt = s.b.savedAt ∧
    (s.setA r v).b.core = s.b.core ∧ (s.setA r v).b.task = s.b.task ∧ (s.setA r v).b.idx = s.b.idx ∧ (s.setA r v).b.rep = s.b.rep ∧
    (s.setA r v).b.level = s.b.level ∧ (s.setA r v).b.cause = s.b.cause ∧ (s.setA r v).b.epc = s.b.epc ∧ (s.setA r v).b.tvec = s.b.tvec ∧
    (s.setA r v).b.status = s.b.status ∧ (s.setA r v).b.pcH = s.b.pcH ∧ (s.setA r v).b.loaded = s.b.loaded ∧ (s.setA r v).b.waitA = s.b.waitA ∧
    (s.setA r v).b.waitX = s.b.waitX ∧ (s.setA r v).b.irq32 = s.b.irq32 ∧ (s.setA r v).b.irq34 = s.b.irq34 ∧ (s.setA r v).b.irq35 = s.b.irq35 ∧
    (s.setA r v).b.cache = s.b.cache ∧ (s.setA r v).b.hwm = s.b.hwm ∧ (s.setA r v).b.binds = s.b.binds ∧ (s.setA r v).b.jobsIssued = s.b.jobsIssued ∧
    (s.setA r v).b.monitor = s.b.monitor ∧ (s.setA r v).b.tab = s.b.tab ∧ (s.setA r v).b.crcA = s.b.crcA ∧ (s.setA r v).b.crcX = s.b.crcX ∧
    (s.setA r v).b.retA = s.b.retA ∧ (s.setA r v).b.retX = s.b.retX ∧ (s.setA r v).b.buf = s.b.buf ∧ (s.setA r v).b.memDone = s.b.memDone ∧
    (s.setA r v).b.chk = s.b.chk ∧ (s.setA r v).b.atRel = s.b.atRel ∧ (s.setA r v).b.endS = s.b.endS ∧ (s.setA r v).b.entryCtx = s.b.entryCtx ∧
    (s.setA r v).b.memHeld = s.b.memHeld ∧ (s.setA r v).b.relRec = s.b.relRec ∧ (s.setA r v).b.agreedA = s.b.agreedA ∧
    (s.setA r v).b.agreedX = s.b.agreedX ∧ (s.setA r v).b.agHeld = s.b.agHeld ∧ (s.setA r v).b.fwdF = s.b.fwdF ∧
    (s.setA r v).b.pairsA = s.b.pairsA ∧ (s.setA r v).b.pairsX = s.b.pairsX ∧ (s.setA r v).b.posA = s.b.posA ∧ (s.setA r v).b.fwdA = s.b.fwdA ∧
    (s.setA r v).b.fwdX = s.b.fwdX ∧ (s.setA r v).b.due = s.b.due ∧ (s.setA r v).b.landDue = s.b.landDue ∧ (s.setA r v).b.posX = s.b.posX ∧
    (s.setA r v).b.tookA = s.b.tookA ∧ (s.setA r v).b.landAt = s.b.landAt ∧
    (s.setA r v).b.askAge = s.b.askAge ∧ (s.setA r v).b.out = s.b.out := by
  unfold State.setA; split_ifs <;> simp

@[simp] theorem State.setA_context (s : State) (r : Reg) (v : Word) :
    (s.setA r v).b.ctx.x = s.b.ctx.x ∧ (s.setA r v).b.ctx.v = s.b.ctx.v ∧ (s.setA r v).b.ctx.k = s.b.ctx.k ∧ (s.setA r v).b.ctx.kf = s.b.ctx.kf ∧
    (s.setA r v).b.ctx.lq = s.b.ctx.lq ∧ (s.setA r v).b.ctx.sq = s.b.ctx.sq ∧ (s.setA r v).b.ctx.tqa = s.b.ctx.tqa ∧
    (s.setA r v).b.ctx.tqx = s.b.ctx.tqx ∧ (s.setA r v).b.ctx.kq = s.b.ctx.kq ∧ (s.setA r v).b.ctx.ra = s.b.ctx.ra ∧
    (s.setA r v).b.ctx.rx = s.b.ctx.rx ∧ (s.setA r v).b.ctx.ac = s.b.ctx.ac ∧ (s.setA r v).b.ctx.xc = s.b.ctx.xc ∧
    (s.setA r v).b.ctx.vcap = s.b.ctx.vcap ∧ (s.setA r v).b.ctx.capX = s.b.ctx.capX ∧ (s.setA r v).b.ctx.bound = s.b.ctx.bound ∧
    (s.setA r v).b.ctx.grants = s.b.ctx.grants ∧ (s.setA r v).b.ctx.streams = s.b.ctx.streams ∧ (s.setA r v).b.ctx.landEn = s.b.ctx.landEn ∧
    (s.setA r v).b.ctx.landPend = s.b.ctx.landPend ∧ (s.setA r v).b.ctx.retLatch = s.b.ctx.retLatch ∧ (s.setA r v).b.ctx.inLand = s.b.ctx.inLand ∧
    (s.setA r v).b.ctx.wins = s.b.ctx.wins ∧ (s.setA r v).b.ctx.grp = s.b.ctx.grp ∧ (s.setA r v).b.ctx.xt = s.b.ctx.xt ∧
    (s.setA r v).b.ctx.mx = s.b.ctx.mx ∧ (s.setA r v).b.ctx.pcA = s.b.ctx.pcA ∧ (s.setA r v).b.ctx.pcX = s.b.ctx.pcX ∧
    (s.setA r v).b.ctx.endA = s.b.ctx.endA ∧ (s.setA r v).b.ctx.endX = s.b.ctx.endX ∧ (s.setA r v).b.ctx.satP = s.b.ctx.satP ∧
    (s.setA r v).b.ctx.curA = s.b.ctx.curA ∧
    (s.setA r v).b.ctx.curX = s.b.ctx.curX := by
  unfold State.setA; split_ifs <;> simp

@[simp] theorem State.setX_outside (s : State) (r : Reg) (v : Word) :
    (s.setX r v).hart = s.hart ∧ (s.setX r v).rest = s.rest ∧ (s.setX r v).turns = s.turns ∧ (s.setX r v).egStop = s.egStop ∧
    (s.setX r v).mem = s.mem ∧ (s.setX r v).poison = s.poison ∧ (s.setX r v).dram = s.dram ∧ (s.setX r v).tlb = s.tlb ∧
    (s.setX r v).tasks = s.tasks ∧ (s.setX r v).sets = s.sets ∧ (s.setX r v).cards = s.cards ∧ (s.setX r v).winErr = s.winErr ∧
    (s.setX r v).jobs = s.jobs ∧ (s.setX r v).barriers = s.barriers ∧ (s.setX r v).lanes = s.lanes ∧ (s.setX r v).slices = s.slices ∧
    (s.setX r v).aproot = s.aproot ∧ (s.setX r v).apasn = s.apasn ∧ (s.setX r v).lmember = s.lmember ∧ (s.setX r v).lazy = s.lazy ∧
    (s.setX r v).ageing = s.ageing ∧ (s.setX r v).mgmtReplies = s.mgmtReplies ∧ (s.setX r v).badQuads = s.badQuads ∧ (s.setX r v).xres = s.xres ∧
    (s.setX r v).startTick = s.startTick ∧
    (s.setX r v).ticket = s.ticket ∧ (s.setX r v).apBase = s.apBase ∧ (s.setX r v).modState = s.modState ∧ (s.setX r v).msix = s.msix ∧
    (s.setX r v).pend34 = s.pend34 ∧ (s.setX r v).failedCold = s.failedCold ∧ (s.setX r v).endOfLife = s.endOfLife ∧
    (s.setX r v).healthTo = s.healthTo ∧ (s.setX r v).remap = s.remap ∧ (s.setX r v).outQuads = s.outQuads ∧ (s.setX r v).ports = s.ports ∧
    (s.setX r v).mustCold = s.mustCold ∧ (s.setX r v).chunks = s.chunks ∧ (s.setX r v).arrivals = s.arrivals ∧ (s.setX r v).fabOut = s.fabOut ∧
    (s.setX r v).hostReplies = s.hostReplies ∧ (s.setX r v).loadReplies = s.loadReplies ∧ (s.setX r v).lost = s.lost ∧
    (s.setX r v).ticks = s.ticks ∧ (s.setX r v).free = s.free ∧ (s.setX r v).nextId = s.nextId ∧ (s.setX r v).age = s.age := by
  unfold State.setX; split_ifs <;> simp

@[simp] theorem State.setX_inside (s : State) (r : Reg) (v : Word) :
    (s.setX r v).b.id = s.b.id ∧ (s.setX r v).b.live = s.b.live ∧ (s.setX r v).b.left = s.b.left ∧ (s.setX r v).b.savedAt = s.b.savedAt ∧
    (s.setX r v).b.core = s.b.core ∧ (s.setX r v).b.task = s.b.task ∧ (s.setX r v).b.idx = s.b.idx ∧ (s.setX r v).b.rep = s.b.rep ∧
    (s.setX r v).b.level = s.b.level ∧ (s.setX r v).b.sysb = s.b.sysb ∧ (s.setX r v).b.cause = s.b.cause ∧ (s.setX r v).b.epc = s.b.epc ∧
    (s.setX r v).b.tvec = s.b.tvec ∧ (s.setX r v).b.status = s.b.status ∧ (s.setX r v).b.pcH = s.b.pcH ∧ (s.setX r v).b.loaded = s.b.loaded ∧
    (s.setX r v).b.waitA = s.b.waitA ∧ (s.setX r v).b.waitX = s.b.waitX ∧ (s.setX r v).b.irq32 = s.b.irq32 ∧ (s.setX r v).b.irq34 = s.b.irq34 ∧
    (s.setX r v).b.irq35 = s.b.irq35 ∧ (s.setX r v).b.cache = s.b.cache ∧ (s.setX r v).b.hwm = s.b.hwm ∧ (s.setX r v).b.binds = s.b.binds ∧
    (s.setX r v).b.jobsIssued = s.b.jobsIssued ∧ (s.setX r v).b.monitor = s.b.monitor ∧ (s.setX r v).b.tab = s.b.tab ∧
    (s.setX r v).b.crcA = s.b.crcA ∧ (s.setX r v).b.crcX = s.b.crcX ∧ (s.setX r v).b.retA = s.b.retA ∧ (s.setX r v).b.retX = s.b.retX ∧
    (s.setX r v).b.buf = s.b.buf ∧ (s.setX r v).b.memDone = s.b.memDone ∧ (s.setX r v).b.chk = s.b.chk ∧ (s.setX r v).b.atRel = s.b.atRel ∧
    (s.setX r v).b.endS = s.b.endS ∧ (s.setX r v).b.entryCtx = s.b.entryCtx ∧ (s.setX r v).b.memHeld = s.b.memHeld ∧
    (s.setX r v).b.relRec = s.b.relRec ∧ (s.setX r v).b.agreedA = s.b.agreedA ∧ (s.setX r v).b.agreedX = s.b.agreedX ∧
    (s.setX r v).b.agHeld = s.b.agHeld ∧ (s.setX r v).b.fwdF = s.b.fwdF ∧ (s.setX r v).b.pairsA = s.b.pairsA ∧ (s.setX r v).b.pairsX = s.b.pairsX ∧
    (s.setX r v).b.posA = s.b.posA ∧ (s.setX r v).b.fwdA = s.b.fwdA ∧ (s.setX r v).b.fwdX = s.b.fwdX ∧ (s.setX r v).b.due = s.b.due ∧
    (s.setX r v).b.landDue = s.b.landDue ∧ (s.setX r v).b.posX = s.b.posX ∧ (s.setX r v).b.tookA = s.b.tookA ∧ (s.setX r v).b.landAt = s.b.landAt ∧
    (s.setX r v).b.askAge = s.b.askAge ∧ (s.setX r v).b.out = s.b.out := by
  unfold State.setX; split_ifs <;> simp

@[simp] theorem State.setX_context (s : State) (r : Reg) (v : Word) :
    (s.setX r v).b.ctx.a = s.b.ctx.a ∧ (s.setX r v).b.ctx.sh = s.b.ctx.sh ∧ (s.setX r v).b.ctx.v = s.b.ctx.v ∧ (s.setX r v).b.ctx.k = s.b.ctx.k ∧
    (s.setX r v).b.ctx.kf = s.b.ctx.kf ∧ (s.setX r v).b.ctx.lq = s.b.ctx.lq ∧ (s.setX r v).b.ctx.sq = s.b.ctx.sq ∧
    (s.setX r v).b.ctx.tqa = s.b.ctx.tqa ∧ (s.setX r v).b.ctx.tqx = s.b.ctx.tqx ∧ (s.setX r v).b.ctx.kq = s.b.ctx.kq ∧
    (s.setX r v).b.ctx.ra = s.b.ctx.ra ∧ (s.setX r v).b.ctx.rx = s.b.ctx.rx ∧ (s.setX r v).b.ctx.ac = s.b.ctx.ac ∧
    (s.setX r v).b.ctx.xc = s.b.ctx.xc ∧ (s.setX r v).b.ctx.vcap = s.b.ctx.vcap ∧ (s.setX r v).b.ctx.capX = s.b.ctx.capX ∧
    (s.setX r v).b.ctx.bound = s.b.ctx.bound ∧ (s.setX r v).b.ctx.grants = s.b.ctx.grants ∧ (s.setX r v).b.ctx.streams = s.b.ctx.streams ∧
    (s.setX r v).b.ctx.landEn = s.b.ctx.landEn ∧ (s.setX r v).b.ctx.landPend = s.b.ctx.landPend ∧ (s.setX r v).b.ctx.retLatch = s.b.ctx.retLatch ∧
    (s.setX r v).b.ctx.inLand = s.b.ctx.inLand ∧ (s.setX r v).b.ctx.wins = s.b.ctx.wins ∧ (s.setX r v).b.ctx.grp = s.b.ctx.grp ∧
    (s.setX r v).b.ctx.xt = s.b.ctx.xt ∧ (s.setX r v).b.ctx.mx = s.b.ctx.mx ∧ (s.setX r v).b.ctx.pcA = s.b.ctx.pcA ∧
    (s.setX r v).b.ctx.pcX = s.b.ctx.pcX ∧ (s.setX r v).b.ctx.endA = s.b.ctx.endA ∧ (s.setX r v).b.ctx.endX = s.b.ctx.endX ∧
    (s.setX r v).b.ctx.satP = s.b.ctx.satP ∧ (s.setX r v).b.ctx.curA = s.b.ctx.curA ∧ (s.setX r v).b.ctx.curX = s.b.ctx.curX := by
  unfold State.setX; split_ifs <;> simp

@[simp] theorem State.setReg_outside (s : State) (r : Reg) (v : Word) :
    (s.setReg r v).hart = s.hart ∧ (s.setReg r v).rest = s.rest ∧ (s.setReg r v).turns = s.turns ∧ (s.setReg r v).egStop = s.egStop ∧
    (s.setReg r v).mem = s.mem ∧ (s.setReg r v).poison = s.poison ∧ (s.setReg r v).dram = s.dram ∧ (s.setReg r v).tlb = s.tlb ∧
    (s.setReg r v).tasks = s.tasks ∧ (s.setReg r v).sets = s.sets ∧ (s.setReg r v).cards = s.cards ∧ (s.setReg r v).winErr = s.winErr ∧
    (s.setReg r v).jobs = s.jobs ∧ (s.setReg r v).barriers = s.barriers ∧ (s.setReg r v).lanes = s.lanes ∧ (s.setReg r v).slices = s.slices ∧
    (s.setReg r v).aproot = s.aproot ∧ (s.setReg r v).apasn = s.apasn ∧ (s.setReg r v).lmember = s.lmember ∧ (s.setReg r v).lazy = s.lazy ∧
    (s.setReg r v).ageing = s.ageing ∧ (s.setReg r v).mgmtReplies = s.mgmtReplies ∧ (s.setReg r v).badQuads = s.badQuads ∧
    (s.setReg r v).xres = s.xres ∧ (s.setReg r v).startTick = s.startTick ∧
    (s.setReg r v).ticket = s.ticket ∧ (s.setReg r v).apBase = s.apBase ∧ (s.setReg r v).modState = s.modState ∧ (s.setReg r v).msix = s.msix ∧
    (s.setReg r v).pend34 = s.pend34 ∧ (s.setReg r v).failedCold = s.failedCold ∧ (s.setReg r v).endOfLife = s.endOfLife ∧
    (s.setReg r v).healthTo = s.healthTo ∧ (s.setReg r v).remap = s.remap ∧ (s.setReg r v).outQuads = s.outQuads ∧
    (s.setReg r v).ports = s.ports ∧ (s.setReg r v).mustCold = s.mustCold ∧ (s.setReg r v).chunks = s.chunks ∧ (s.setReg r v).arrivals = s.arrivals ∧
    (s.setReg r v).fabOut = s.fabOut ∧ (s.setReg r v).hostReplies = s.hostReplies ∧ (s.setReg r v).loadReplies = s.loadReplies ∧
    (s.setReg r v).lost = s.lost ∧ (s.setReg r v).ticks = s.ticks ∧ (s.setReg r v).free = s.free ∧ (s.setReg r v).nextId = s.nextId ∧
    (s.setReg r v).age = s.age := by
  unfold State.setReg; split <;> simp

@[simp] theorem State.setReg_inside (s : State) (r : Reg) (v : Word) :
    (s.setReg r v).b.id = s.b.id ∧ (s.setReg r v).b.live = s.b.live ∧ (s.setReg r v).b.left = s.b.left ∧ (s.setReg r v).b.savedAt = s.b.savedAt ∧
    (s.setReg r v).b.core = s.b.core ∧ (s.setReg r v).b.task = s.b.task ∧ (s.setReg r v).b.idx = s.b.idx ∧ (s.setReg r v).b.rep = s.b.rep ∧
    (s.setReg r v).b.level = s.b.level ∧ (s.setReg r v).b.cause = s.b.cause ∧ (s.setReg r v).b.epc = s.b.epc ∧ (s.setReg r v).b.tvec = s.b.tvec ∧
    (s.setReg r v).b.status = s.b.status ∧ (s.setReg r v).b.pcH = s.b.pcH ∧ (s.setReg r v).b.loaded = s.b.loaded ∧
    (s.setReg r v).b.waitA = s.b.waitA ∧ (s.setReg r v).b.waitX = s.b.waitX ∧ (s.setReg r v).b.irq32 = s.b.irq32 ∧
    (s.setReg r v).b.irq34 = s.b.irq34 ∧ (s.setReg r v).b.irq35 = s.b.irq35 ∧ (s.setReg r v).b.cache = s.b.cache ∧
    (s.setReg r v).b.hwm = s.b.hwm ∧ (s.setReg r v).b.binds = s.b.binds ∧ (s.setReg r v).b.jobsIssued = s.b.jobsIssued ∧
    (s.setReg r v).b.monitor = s.b.monitor ∧ (s.setReg r v).b.tab = s.b.tab ∧ (s.setReg r v).b.crcA = s.b.crcA ∧ (s.setReg r v).b.crcX = s.b.crcX ∧
    (s.setReg r v).b.retA = s.b.retA ∧ (s.setReg r v).b.retX = s.b.retX ∧ (s.setReg r v).b.buf = s.b.buf ∧ (s.setReg r v).b.memDone = s.b.memDone ∧
    (s.setReg r v).b.chk = s.b.chk ∧ (s.setReg r v).b.atRel = s.b.atRel ∧ (s.setReg r v).b.endS = s.b.endS ∧
    (s.setReg r v).b.entryCtx = s.b.entryCtx ∧ (s.setReg r v).b.memHeld = s.b.memHeld ∧ (s.setReg r v).b.relRec = s.b.relRec ∧
    (s.setReg r v).b.agreedA = s.b.agreedA ∧ (s.setReg r v).b.agreedX = s.b.agreedX ∧ (s.setReg r v).b.agHeld = s.b.agHeld ∧
    (s.setReg r v).b.fwdF = s.b.fwdF ∧ (s.setReg r v).b.pairsA = s.b.pairsA ∧ (s.setReg r v).b.pairsX = s.b.pairsX ∧
    (s.setReg r v).b.posA = s.b.posA ∧ (s.setReg r v).b.fwdA = s.b.fwdA ∧
    (s.setReg r v).b.fwdX = s.b.fwdX ∧ (s.setReg r v).b.due = s.b.due ∧ (s.setReg r v).b.landDue = s.b.landDue ∧ (s.setReg r v).b.posX = s.b.posX ∧
    (s.setReg r v).b.tookA = s.b.tookA ∧ (s.setReg r v).b.landAt = s.b.landAt ∧
    (s.setReg r v).b.askAge = s.b.askAge ∧ (s.setReg r v).b.out = s.b.out := by
  unfold State.setReg; split <;> simp

@[simp] theorem State.setReg_context (s : State) (r : Reg) (v : Word) :
    (s.setReg r v).b.ctx.v = s.b.ctx.v ∧ (s.setReg r v).b.ctx.k = s.b.ctx.k ∧ (s.setReg r v).b.ctx.kf = s.b.ctx.kf ∧
    (s.setReg r v).b.ctx.lq = s.b.ctx.lq ∧ (s.setReg r v).b.ctx.sq = s.b.ctx.sq ∧ (s.setReg r v).b.ctx.tqa = s.b.ctx.tqa ∧
    (s.setReg r v).b.ctx.tqx = s.b.ctx.tqx ∧ (s.setReg r v).b.ctx.kq = s.b.ctx.kq ∧ (s.setReg r v).b.ctx.ra = s.b.ctx.ra ∧
    (s.setReg r v).b.ctx.rx = s.b.ctx.rx ∧ (s.setReg r v).b.ctx.ac = s.b.ctx.ac ∧ (s.setReg r v).b.ctx.xc = s.b.ctx.xc ∧
    (s.setReg r v).b.ctx.vcap = s.b.ctx.vcap ∧ (s.setReg r v).b.ctx.capX = s.b.ctx.capX ∧ (s.setReg r v).b.ctx.bound = s.b.ctx.bound ∧
    (s.setReg r v).b.ctx.grants = s.b.ctx.grants ∧ (s.setReg r v).b.ctx.streams = s.b.ctx.streams ∧ (s.setReg r v).b.ctx.landEn = s.b.ctx.landEn ∧
    (s.setReg r v).b.ctx.landPend = s.b.ctx.landPend ∧ (s.setReg r v).b.ctx.retLatch = s.b.ctx.retLatch ∧
    (s.setReg r v).b.ctx.inLand = s.b.ctx.inLand ∧
    (s.setReg r v).b.ctx.wins = s.b.ctx.wins ∧ (s.setReg r v).b.ctx.grp = s.b.ctx.grp ∧ (s.setReg r v).b.ctx.xt = s.b.ctx.xt ∧
    (s.setReg r v).b.ctx.mx = s.b.ctx.mx ∧ (s.setReg r v).b.ctx.pcA = s.b.ctx.pcA ∧ (s.setReg r v).b.ctx.pcX = s.b.ctx.pcX ∧
    (s.setReg r v).b.ctx.endA = s.b.ctx.endA ∧ (s.setReg r v).b.ctx.endX = s.b.ctx.endX ∧ (s.setReg r v).b.ctx.satP = s.b.ctx.satP ∧
    (s.setReg r v).b.ctx.curA = s.b.ctx.curA ∧
    (s.setReg r v).b.ctx.curX = s.b.ctx.curX := by
  unfold State.setReg; split <;> simp

@[simp] theorem State.setHrOf_outside (s : State) (h : Hart) (r : HartRegs) :
    (s.setHrOf h r).hart = s.hart ∧ (s.setHrOf h r).rest = s.rest ∧ (s.setHrOf h r).turns = s.turns ∧ (s.setHrOf h r).egStop = s.egStop ∧
    (s.setHrOf h r).mem = s.mem ∧ (s.setHrOf h r).poison = s.poison ∧ (s.setHrOf h r).dram = s.dram ∧ (s.setHrOf h r).tlb = s.tlb ∧
    (s.setHrOf h r).tasks = s.tasks ∧ (s.setHrOf h r).sets = s.sets ∧ (s.setHrOf h r).cards = s.cards ∧ (s.setHrOf h r).winErr = s.winErr ∧
    (s.setHrOf h r).jobs = s.jobs ∧ (s.setHrOf h r).barriers = s.barriers ∧ (s.setHrOf h r).lanes = s.lanes ∧ (s.setHrOf h r).slices = s.slices ∧
    (s.setHrOf h r).aproot = s.aproot ∧ (s.setHrOf h r).apasn = s.apasn ∧ (s.setHrOf h r).lmember = s.lmember ∧ (s.setHrOf h r).lazy = s.lazy ∧
    (s.setHrOf h r).ageing = s.ageing ∧ (s.setHrOf h r).mgmtReplies = s.mgmtReplies ∧ (s.setHrOf h r).badQuads = s.badQuads ∧
    (s.setHrOf h r).xres = s.xres ∧ (s.setHrOf h r).startTick = s.startTick ∧
    (s.setHrOf h r).ticket = s.ticket ∧ (s.setHrOf h r).apBase = s.apBase ∧ (s.setHrOf h r).modState = s.modState ∧
    (s.setHrOf h r).msix = s.msix ∧ (s.setHrOf h r).pend34 = s.pend34 ∧ (s.setHrOf h r).failedCold = s.failedCold ∧
    (s.setHrOf h r).endOfLife = s.endOfLife ∧ (s.setHrOf h r).healthTo = s.healthTo ∧ (s.setHrOf h r).remap = s.remap ∧
    (s.setHrOf h r).outQuads = s.outQuads ∧ (s.setHrOf h r).ports = s.ports ∧ (s.setHrOf h r).mustCold = s.mustCold ∧
    (s.setHrOf h r).chunks = s.chunks ∧ (s.setHrOf h r).arrivals = s.arrivals ∧ (s.setHrOf h r).fabOut = s.fabOut ∧
    (s.setHrOf h r).hostReplies = s.hostReplies ∧ (s.setHrOf h r).loadReplies = s.loadReplies ∧ (s.setHrOf h r).lost = s.lost ∧
    (s.setHrOf h r).ticks = s.ticks ∧ (s.setHrOf h r).free = s.free ∧ (s.setHrOf h r).nextId = s.nextId ∧ (s.setHrOf h r).age = s.age := by
  unfold State.setHrOf; split <;> simp

@[simp] theorem State.setHrOf_inside (s : State) (h : Hart) (r : HartRegs) :
    (s.setHrOf h r).b.id = s.b.id ∧ (s.setHrOf h r).b.live = s.b.live ∧ (s.setHrOf h r).b.left = s.b.left ∧ (s.setHrOf h r).b.savedAt = s.b.savedAt ∧
    (s.setHrOf h r).b.core = s.b.core ∧ (s.setHrOf h r).b.task = s.b.task ∧ (s.setHrOf h r).b.idx = s.b.idx ∧ (s.setHrOf h r).b.rep = s.b.rep ∧
    (s.setHrOf h r).b.level = s.b.level ∧ (s.setHrOf h r).b.sysb = s.b.sysb ∧ (s.setHrOf h r).b.cause = s.b.cause ∧
    (s.setHrOf h r).b.epc = s.b.epc ∧ (s.setHrOf h r).b.tvec = s.b.tvec ∧ (s.setHrOf h r).b.status = s.b.status ∧ (s.setHrOf h r).b.pcH = s.b.pcH ∧
    (s.setHrOf h r).b.loaded = s.b.loaded ∧ (s.setHrOf h r).b.waitA = s.b.waitA ∧ (s.setHrOf h r).b.waitX = s.b.waitX ∧
    (s.setHrOf h r).b.irq32 = s.b.irq32 ∧ (s.setHrOf h r).b.irq34 = s.b.irq34 ∧ (s.setHrOf h r).b.irq35 = s.b.irq35 ∧
    (s.setHrOf h r).b.cache = s.b.cache ∧ (s.setHrOf h r).b.hwm = s.b.hwm ∧ (s.setHrOf h r).b.binds = s.b.binds ∧
    (s.setHrOf h r).b.jobsIssued = s.b.jobsIssued ∧
    (s.setHrOf h r).b.monitor = s.b.monitor ∧ (s.setHrOf h r).b.tab = s.b.tab ∧ (s.setHrOf h r).b.crcA = s.b.crcA ∧
    (s.setHrOf h r).b.crcX = s.b.crcX ∧ (s.setHrOf h r).b.retA = s.b.retA ∧ (s.setHrOf h r).b.retX = s.b.retX ∧ (s.setHrOf h r).b.buf = s.b.buf ∧
    (s.setHrOf h r).b.memDone = s.b.memDone ∧ (s.setHrOf h r).b.chk = s.b.chk ∧ (s.setHrOf h r).b.atRel = s.b.atRel ∧
    (s.setHrOf h r).b.endS = s.b.endS ∧ (s.setHrOf h r).b.entryCtx = s.b.entryCtx ∧ (s.setHrOf h r).b.memHeld = s.b.memHeld ∧
    (s.setHrOf h r).b.relRec = s.b.relRec ∧ (s.setHrOf h r).b.agreedA = s.b.agreedA ∧ (s.setHrOf h r).b.agreedX = s.b.agreedX ∧
    (s.setHrOf h r).b.agHeld = s.b.agHeld ∧ (s.setHrOf h r).b.fwdF = s.b.fwdF ∧ (s.setHrOf h r).b.pairsA = s.b.pairsA ∧
    (s.setHrOf h r).b.pairsX = s.b.pairsX ∧ (s.setHrOf h r).b.posA = s.b.posA ∧ (s.setHrOf h r).b.fwdA = s.b.fwdA ∧
    (s.setHrOf h r).b.fwdX = s.b.fwdX ∧
    (s.setHrOf h r).b.due = s.b.due ∧ (s.setHrOf h r).b.landDue = s.b.landDue ∧ (s.setHrOf h r).b.posX = s.b.posX ∧
    (s.setHrOf h r).b.tookA = s.b.tookA ∧ (s.setHrOf h r).b.landAt = s.b.landAt ∧
    (s.setHrOf h r).b.askAge = s.b.askAge ∧ (s.setHrOf h r).b.out = s.b.out := by
  unfold State.setHrOf; split <;> simp

@[simp] theorem State.setHrOf_context (s : State) (h : Hart) (r : HartRegs) :
    (s.setHrOf h r).b.ctx.a = s.b.ctx.a ∧ (s.setHrOf h r).b.ctx.sh = s.b.ctx.sh ∧ (s.setHrOf h r).b.ctx.x = s.b.ctx.x ∧
    (s.setHrOf h r).b.ctx.v = s.b.ctx.v ∧ (s.setHrOf h r).b.ctx.k = s.b.ctx.k ∧ (s.setHrOf h r).b.ctx.kf = s.b.ctx.kf ∧
    (s.setHrOf h r).b.ctx.lq = s.b.ctx.lq ∧ (s.setHrOf h r).b.ctx.sq = s.b.ctx.sq ∧ (s.setHrOf h r).b.ctx.tqa = s.b.ctx.tqa ∧
    (s.setHrOf h r).b.ctx.tqx = s.b.ctx.tqx ∧ (s.setHrOf h r).b.ctx.kq = s.b.ctx.kq ∧ (s.setHrOf h r).b.ctx.ac = s.b.ctx.ac ∧
    (s.setHrOf h r).b.ctx.xc = s.b.ctx.xc ∧ (s.setHrOf h r).b.ctx.vcap = s.b.ctx.vcap ∧ (s.setHrOf h r).b.ctx.capX = s.b.ctx.capX ∧
    (s.setHrOf h r).b.ctx.bound = s.b.ctx.bound ∧ (s.setHrOf h r).b.ctx.grants = s.b.ctx.grants ∧ (s.setHrOf h r).b.ctx.streams = s.b.ctx.streams ∧
    (s.setHrOf h r).b.ctx.landEn = s.b.ctx.landEn ∧ (s.setHrOf h r).b.ctx.landPend = s.b.ctx.landPend ∧
    (s.setHrOf h r).b.ctx.retLatch = s.b.ctx.retLatch ∧
    (s.setHrOf h r).b.ctx.inLand = s.b.ctx.inLand ∧ (s.setHrOf h r).b.ctx.wins = s.b.ctx.wins ∧ (s.setHrOf h r).b.ctx.grp = s.b.ctx.grp ∧
    (s.setHrOf h r).b.ctx.xt = s.b.ctx.xt ∧ (s.setHrOf h r).b.ctx.mx = s.b.ctx.mx ∧ (s.setHrOf h r).b.ctx.pcA = s.b.ctx.pcA ∧
    (s.setHrOf h r).b.ctx.pcX = s.b.ctx.pcX ∧ (s.setHrOf h r).b.ctx.endA = s.b.ctx.endA ∧ (s.setHrOf h r).b.ctx.endX = s.b.ctx.endX ∧
    (s.setHrOf h r).b.ctx.satP = s.b.ctx.satP ∧ (s.setHrOf h r).b.ctx.curA = s.b.ctx.curA ∧ (s.setHrOf h r).b.ctx.curX = s.b.ctx.curX := by
  unfold State.setHrOf; split <;> simp

@[simp] theorem State.setHr_outside (s : State) (r : HartRegs) :
    (s.setHr r).hart = s.hart ∧ (s.setHr r).rest = s.rest ∧ (s.setHr r).turns = s.turns ∧ (s.setHr r).egStop = s.egStop ∧
    (s.setHr r).mem = s.mem ∧ (s.setHr r).poison = s.poison ∧ (s.setHr r).dram = s.dram ∧ (s.setHr r).tlb = s.tlb ∧
    (s.setHr r).tasks = s.tasks ∧ (s.setHr r).sets = s.sets ∧ (s.setHr r).cards = s.cards ∧ (s.setHr r).winErr = s.winErr ∧
    (s.setHr r).jobs = s.jobs ∧ (s.setHr r).barriers = s.barriers ∧ (s.setHr r).lanes = s.lanes ∧ (s.setHr r).slices = s.slices ∧
    (s.setHr r).aproot = s.aproot ∧ (s.setHr r).apasn = s.apasn ∧ (s.setHr r).lmember = s.lmember ∧ (s.setHr r).lazy = s.lazy ∧
    (s.setHr r).ageing = s.ageing ∧ (s.setHr r).mgmtReplies = s.mgmtReplies ∧ (s.setHr r).badQuads = s.badQuads ∧ (s.setHr r).xres = s.xres ∧
    (s.setHr r).startTick = s.startTick ∧
    (s.setHr r).ticket = s.ticket ∧ (s.setHr r).apBase = s.apBase ∧ (s.setHr r).modState = s.modState ∧ (s.setHr r).msix = s.msix ∧
    (s.setHr r).pend34 = s.pend34 ∧ (s.setHr r).failedCold = s.failedCold ∧ (s.setHr r).endOfLife = s.endOfLife ∧ (s.setHr r).healthTo = s.healthTo ∧
    (s.setHr r).remap = s.remap ∧ (s.setHr r).outQuads = s.outQuads ∧ (s.setHr r).ports = s.ports ∧ (s.setHr r).mustCold = s.mustCold ∧
    (s.setHr r).chunks = s.chunks ∧ (s.setHr r).arrivals = s.arrivals ∧ (s.setHr r).fabOut = s.fabOut ∧ (s.setHr r).hostReplies = s.hostReplies ∧
    (s.setHr r).loadReplies = s.loadReplies ∧ (s.setHr r).lost = s.lost ∧ (s.setHr r).ticks = s.ticks ∧ (s.setHr r).free = s.free ∧
    (s.setHr r).nextId = s.nextId ∧ (s.setHr r).age = s.age := by
  simp [State.setHr]

@[simp] theorem State.setHr_inside (s : State) (r : HartRegs) :
    (s.setHr r).b.id = s.b.id ∧ (s.setHr r).b.live = s.b.live ∧ (s.setHr r).b.left = s.b.left ∧ (s.setHr r).b.savedAt = s.b.savedAt ∧
    (s.setHr r).b.core = s.b.core ∧ (s.setHr r).b.task = s.b.task ∧ (s.setHr r).b.idx = s.b.idx ∧ (s.setHr r).b.rep = s.b.rep ∧
    (s.setHr r).b.level = s.b.level ∧ (s.setHr r).b.sysb = s.b.sysb ∧ (s.setHr r).b.cause = s.b.cause ∧ (s.setHr r).b.epc = s.b.epc ∧
    (s.setHr r).b.tvec = s.b.tvec ∧ (s.setHr r).b.status = s.b.status ∧ (s.setHr r).b.pcH = s.b.pcH ∧ (s.setHr r).b.loaded = s.b.loaded ∧
    (s.setHr r).b.waitA = s.b.waitA ∧ (s.setHr r).b.waitX = s.b.waitX ∧ (s.setHr r).b.irq32 = s.b.irq32 ∧ (s.setHr r).b.irq34 = s.b.irq34 ∧
    (s.setHr r).b.irq35 = s.b.irq35 ∧ (s.setHr r).b.cache = s.b.cache ∧ (s.setHr r).b.hwm = s.b.hwm ∧ (s.setHr r).b.binds = s.b.binds ∧
    (s.setHr r).b.jobsIssued = s.b.jobsIssued ∧ (s.setHr r).b.monitor = s.b.monitor ∧ (s.setHr r).b.tab = s.b.tab ∧
    (s.setHr r).b.crcA = s.b.crcA ∧ (s.setHr r).b.crcX = s.b.crcX ∧ (s.setHr r).b.retA = s.b.retA ∧ (s.setHr r).b.retX = s.b.retX ∧
    (s.setHr r).b.buf = s.b.buf ∧ (s.setHr r).b.memDone = s.b.memDone ∧ (s.setHr r).b.chk = s.b.chk ∧ (s.setHr r).b.atRel = s.b.atRel ∧
    (s.setHr r).b.endS = s.b.endS ∧ (s.setHr r).b.entryCtx = s.b.entryCtx ∧ (s.setHr r).b.memHeld = s.b.memHeld ∧
    (s.setHr r).b.relRec = s.b.relRec ∧ (s.setHr r).b.agreedA = s.b.agreedA ∧ (s.setHr r).b.agreedX = s.b.agreedX ∧
    (s.setHr r).b.agHeld = s.b.agHeld ∧ (s.setHr r).b.fwdF = s.b.fwdF ∧ (s.setHr r).b.pairsA = s.b.pairsA ∧ (s.setHr r).b.pairsX = s.b.pairsX ∧
    (s.setHr r).b.posA = s.b.posA ∧ (s.setHr r).b.fwdA = s.b.fwdA ∧ (s.setHr r).b.fwdX = s.b.fwdX ∧ (s.setHr r).b.due = s.b.due ∧
    (s.setHr r).b.landDue = s.b.landDue ∧ (s.setHr r).b.posX = s.b.posX ∧ (s.setHr r).b.tookA = s.b.tookA ∧ (s.setHr r).b.landAt = s.b.landAt ∧
    (s.setHr r).b.askAge = s.b.askAge ∧ (s.setHr r).b.out = s.b.out := by
  simp [State.setHr]

@[simp] theorem State.setHr_context (s : State) (r : HartRegs) :
    (s.setHr r).b.ctx.a = s.b.ctx.a ∧ (s.setHr r).b.ctx.sh = s.b.ctx.sh ∧ (s.setHr r).b.ctx.x = s.b.ctx.x ∧ (s.setHr r).b.ctx.v = s.b.ctx.v ∧
    (s.setHr r).b.ctx.k = s.b.ctx.k ∧ (s.setHr r).b.ctx.kf = s.b.ctx.kf ∧ (s.setHr r).b.ctx.lq = s.b.ctx.lq ∧ (s.setHr r).b.ctx.sq = s.b.ctx.sq ∧
    (s.setHr r).b.ctx.tqa = s.b.ctx.tqa ∧ (s.setHr r).b.ctx.tqx = s.b.ctx.tqx ∧ (s.setHr r).b.ctx.kq = s.b.ctx.kq ∧
    (s.setHr r).b.ctx.ac = s.b.ctx.ac ∧ (s.setHr r).b.ctx.xc = s.b.ctx.xc ∧ (s.setHr r).b.ctx.vcap = s.b.ctx.vcap ∧
    (s.setHr r).b.ctx.capX = s.b.ctx.capX ∧ (s.setHr r).b.ctx.bound = s.b.ctx.bound ∧ (s.setHr r).b.ctx.grants = s.b.ctx.grants ∧
    (s.setHr r).b.ctx.streams = s.b.ctx.streams ∧ (s.setHr r).b.ctx.landEn = s.b.ctx.landEn ∧ (s.setHr r).b.ctx.landPend = s.b.ctx.landPend ∧
    (s.setHr r).b.ctx.retLatch = s.b.ctx.retLatch ∧ (s.setHr r).b.ctx.inLand = s.b.ctx.inLand ∧ (s.setHr r).b.ctx.wins = s.b.ctx.wins ∧
    (s.setHr r).b.ctx.grp = s.b.ctx.grp ∧ (s.setHr r).b.ctx.xt = s.b.ctx.xt ∧ (s.setHr r).b.ctx.mx = s.b.ctx.mx ∧
    (s.setHr r).b.ctx.pcA = s.b.ctx.pcA ∧
    (s.setHr r).b.ctx.pcX = s.b.ctx.pcX ∧ (s.setHr r).b.ctx.endA = s.b.ctx.endA ∧ (s.setHr r).b.ctx.endX = s.b.ctx.endX ∧
    (s.setHr r).b.ctx.satP = s.b.ctx.satP ∧ (s.setHr r).b.ctx.curA = s.b.ctx.curA ∧ (s.setHr r).b.ctx.curX = s.b.ctx.curX := by
  simp [State.setHr]

@[simp] theorem State.addFlags_outside (s : State) (f : Flags) :
    (s.addFlags f).hart = s.hart ∧ (s.addFlags f).rest = s.rest ∧ (s.addFlags f).turns = s.turns ∧ (s.addFlags f).egStop = s.egStop ∧
    (s.addFlags f).mem = s.mem ∧ (s.addFlags f).poison = s.poison ∧ (s.addFlags f).dram = s.dram ∧ (s.addFlags f).tlb = s.tlb ∧
    (s.addFlags f).tasks = s.tasks ∧ (s.addFlags f).sets = s.sets ∧ (s.addFlags f).cards = s.cards ∧ (s.addFlags f).winErr = s.winErr ∧
    (s.addFlags f).jobs = s.jobs ∧ (s.addFlags f).barriers = s.barriers ∧ (s.addFlags f).lanes = s.lanes ∧ (s.addFlags f).slices = s.slices ∧
    (s.addFlags f).aproot = s.aproot ∧ (s.addFlags f).apasn = s.apasn ∧ (s.addFlags f).lmember = s.lmember ∧ (s.addFlags f).lazy = s.lazy ∧
    (s.addFlags f).ageing = s.ageing ∧ (s.addFlags f).mgmtReplies = s.mgmtReplies ∧ (s.addFlags f).badQuads = s.badQuads ∧
    (s.addFlags f).xres = s.xres ∧ (s.addFlags f).startTick = s.startTick ∧
    (s.addFlags f).ticket = s.ticket ∧ (s.addFlags f).apBase = s.apBase ∧ (s.addFlags f).modState = s.modState ∧ (s.addFlags f).msix = s.msix ∧
    (s.addFlags f).pend34 = s.pend34 ∧ (s.addFlags f).failedCold = s.failedCold ∧ (s.addFlags f).endOfLife = s.endOfLife ∧
    (s.addFlags f).healthTo = s.healthTo ∧ (s.addFlags f).remap = s.remap ∧ (s.addFlags f).outQuads = s.outQuads ∧
    (s.addFlags f).ports = s.ports ∧ (s.addFlags f).mustCold = s.mustCold ∧ (s.addFlags f).chunks = s.chunks ∧ (s.addFlags f).arrivals = s.arrivals ∧
    (s.addFlags f).fabOut = s.fabOut ∧ (s.addFlags f).hostReplies = s.hostReplies ∧ (s.addFlags f).loadReplies = s.loadReplies ∧
    (s.addFlags f).lost = s.lost ∧ (s.addFlags f).ticks = s.ticks ∧ (s.addFlags f).free = s.free ∧ (s.addFlags f).nextId = s.nextId ∧
    (s.addFlags f).age = s.age := by
  simp [State.addFlags]

@[simp] theorem State.addFlags_inside (s : State) (f : Flags) :
    (s.addFlags f).b.id = s.b.id ∧ (s.addFlags f).b.live = s.b.live ∧ (s.addFlags f).b.left = s.b.left ∧ (s.addFlags f).b.savedAt = s.b.savedAt ∧
    (s.addFlags f).b.core = s.b.core ∧ (s.addFlags f).b.task = s.b.task ∧ (s.addFlags f).b.idx = s.b.idx ∧ (s.addFlags f).b.rep = s.b.rep ∧
    (s.addFlags f).b.level = s.b.level ∧ (s.addFlags f).b.sysb = s.b.sysb ∧ (s.addFlags f).b.cause = s.b.cause ∧ (s.addFlags f).b.epc = s.b.epc ∧
    (s.addFlags f).b.tvec = s.b.tvec ∧ (s.addFlags f).b.status = s.b.status ∧ (s.addFlags f).b.pcH = s.b.pcH ∧ (s.addFlags f).b.loaded = s.b.loaded ∧
    (s.addFlags f).b.waitA = s.b.waitA ∧ (s.addFlags f).b.waitX = s.b.waitX ∧ (s.addFlags f).b.irq32 = s.b.irq32 ∧
    (s.addFlags f).b.irq34 = s.b.irq34 ∧ (s.addFlags f).b.irq35 = s.b.irq35 ∧ (s.addFlags f).b.cache = s.b.cache ∧
    (s.addFlags f).b.hwm = s.b.hwm ∧ (s.addFlags f).b.binds = s.b.binds ∧ (s.addFlags f).b.jobsIssued = s.b.jobsIssued ∧
    (s.addFlags f).b.monitor = s.b.monitor ∧ (s.addFlags f).b.tab = s.b.tab ∧ (s.addFlags f).b.crcA = s.b.crcA ∧ (s.addFlags f).b.crcX = s.b.crcX ∧
    (s.addFlags f).b.retA = s.b.retA ∧ (s.addFlags f).b.retX = s.b.retX ∧ (s.addFlags f).b.buf = s.b.buf ∧ (s.addFlags f).b.memDone = s.b.memDone ∧
    (s.addFlags f).b.chk = s.b.chk ∧ (s.addFlags f).b.atRel = s.b.atRel ∧ (s.addFlags f).b.endS = s.b.endS ∧
    (s.addFlags f).b.entryCtx = s.b.entryCtx ∧ (s.addFlags f).b.memHeld = s.b.memHeld ∧ (s.addFlags f).b.relRec = s.b.relRec ∧
    (s.addFlags f).b.agreedA = s.b.agreedA ∧ (s.addFlags f).b.agreedX = s.b.agreedX ∧ (s.addFlags f).b.agHeld = s.b.agHeld ∧
    (s.addFlags f).b.fwdF = s.b.fwdF ∧ (s.addFlags f).b.pairsA = s.b.pairsA ∧ (s.addFlags f).b.pairsX = s.b.pairsX ∧
    (s.addFlags f).b.posA = s.b.posA ∧ (s.addFlags f).b.fwdA = s.b.fwdA ∧
    (s.addFlags f).b.fwdX = s.b.fwdX ∧ (s.addFlags f).b.due = s.b.due ∧ (s.addFlags f).b.landDue = s.b.landDue ∧ (s.addFlags f).b.posX = s.b.posX ∧
    (s.addFlags f).b.tookA = s.b.tookA ∧ (s.addFlags f).b.landAt = s.b.landAt ∧
    (s.addFlags f).b.askAge = s.b.askAge ∧ (s.addFlags f).b.out = s.b.out := by
  simp [State.addFlags]

@[simp] theorem State.addFlags_context (s : State) (f : Flags) :
    (s.addFlags f).b.ctx.a = s.b.ctx.a ∧ (s.addFlags f).b.ctx.sh = s.b.ctx.sh ∧ (s.addFlags f).b.ctx.x = s.b.ctx.x ∧
    (s.addFlags f).b.ctx.v = s.b.ctx.v ∧ (s.addFlags f).b.ctx.k = s.b.ctx.k ∧ (s.addFlags f).b.ctx.kf = s.b.ctx.kf ∧
    (s.addFlags f).b.ctx.lq = s.b.ctx.lq ∧ (s.addFlags f).b.ctx.sq = s.b.ctx.sq ∧ (s.addFlags f).b.ctx.tqa = s.b.ctx.tqa ∧
    (s.addFlags f).b.ctx.tqx = s.b.ctx.tqx ∧ (s.addFlags f).b.ctx.kq = s.b.ctx.kq ∧ (s.addFlags f).b.ctx.ac = s.b.ctx.ac ∧
    (s.addFlags f).b.ctx.xc = s.b.ctx.xc ∧ (s.addFlags f).b.ctx.vcap = s.b.ctx.vcap ∧ (s.addFlags f).b.ctx.capX = s.b.ctx.capX ∧
    (s.addFlags f).b.ctx.bound = s.b.ctx.bound ∧ (s.addFlags f).b.ctx.grants = s.b.ctx.grants ∧ (s.addFlags f).b.ctx.streams = s.b.ctx.streams ∧
    (s.addFlags f).b.ctx.landEn = s.b.ctx.landEn ∧ (s.addFlags f).b.ctx.landPend = s.b.ctx.landPend ∧
    (s.addFlags f).b.ctx.retLatch = s.b.ctx.retLatch ∧
    (s.addFlags f).b.ctx.inLand = s.b.ctx.inLand ∧ (s.addFlags f).b.ctx.wins = s.b.ctx.wins ∧ (s.addFlags f).b.ctx.grp = s.b.ctx.grp ∧
    (s.addFlags f).b.ctx.xt = s.b.ctx.xt ∧ (s.addFlags f).b.ctx.mx = s.b.ctx.mx ∧ (s.addFlags f).b.ctx.pcA = s.b.ctx.pcA ∧
    (s.addFlags f).b.ctx.pcX = s.b.ctx.pcX ∧ (s.addFlags f).b.ctx.endA = s.b.ctx.endA ∧ (s.addFlags f).b.ctx.endX = s.b.ctx.endX ∧
    (s.addFlags f).b.ctx.satP = s.b.ctx.satP ∧ (s.addFlags f).b.ctx.curA = s.b.ctx.curA ∧ (s.addFlags f).b.ctx.curX = s.b.ctx.curX := by
  simp [State.addFlags]

@[simp] theorem State.setEs_outside (s : State) (n : Nat) :
    (s.setEs n).hart = s.hart ∧ (s.setEs n).rest = s.rest ∧ (s.setEs n).turns = s.turns ∧ (s.setEs n).egStop = s.egStop ∧
    (s.setEs n).mem = s.mem ∧ (s.setEs n).poison = s.poison ∧ (s.setEs n).dram = s.dram ∧ (s.setEs n).tlb = s.tlb ∧
    (s.setEs n).tasks = s.tasks ∧ (s.setEs n).sets = s.sets ∧ (s.setEs n).cards = s.cards ∧ (s.setEs n).winErr = s.winErr ∧
    (s.setEs n).jobs = s.jobs ∧ (s.setEs n).barriers = s.barriers ∧ (s.setEs n).lanes = s.lanes ∧ (s.setEs n).slices = s.slices ∧
    (s.setEs n).aproot = s.aproot ∧ (s.setEs n).apasn = s.apasn ∧ (s.setEs n).lmember = s.lmember ∧ (s.setEs n).lazy = s.lazy ∧
    (s.setEs n).ageing = s.ageing ∧ (s.setEs n).mgmtReplies = s.mgmtReplies ∧ (s.setEs n).badQuads = s.badQuads ∧ (s.setEs n).xres = s.xres ∧
    (s.setEs n).startTick = s.startTick ∧
    (s.setEs n).ticket = s.ticket ∧ (s.setEs n).apBase = s.apBase ∧ (s.setEs n).modState = s.modState ∧ (s.setEs n).msix = s.msix ∧
    (s.setEs n).pend34 = s.pend34 ∧ (s.setEs n).failedCold = s.failedCold ∧ (s.setEs n).endOfLife = s.endOfLife ∧ (s.setEs n).healthTo = s.healthTo ∧
    (s.setEs n).remap = s.remap ∧ (s.setEs n).outQuads = s.outQuads ∧ (s.setEs n).ports = s.ports ∧ (s.setEs n).mustCold = s.mustCold ∧
    (s.setEs n).chunks = s.chunks ∧ (s.setEs n).arrivals = s.arrivals ∧ (s.setEs n).fabOut = s.fabOut ∧ (s.setEs n).hostReplies = s.hostReplies ∧
    (s.setEs n).loadReplies = s.loadReplies ∧ (s.setEs n).lost = s.lost ∧ (s.setEs n).ticks = s.ticks ∧ (s.setEs n).free = s.free ∧
    (s.setEs n).nextId = s.nextId ∧ (s.setEs n).age = s.age := by
  simp [State.setEs]

@[simp] theorem State.setEs_inside (s : State) (n : Nat) :
    (s.setEs n).b.id = s.b.id ∧ (s.setEs n).b.live = s.b.live ∧ (s.setEs n).b.left = s.b.left ∧ (s.setEs n).b.savedAt = s.b.savedAt ∧
    (s.setEs n).b.core = s.b.core ∧ (s.setEs n).b.task = s.b.task ∧ (s.setEs n).b.idx = s.b.idx ∧ (s.setEs n).b.rep = s.b.rep ∧
    (s.setEs n).b.level = s.b.level ∧ (s.setEs n).b.sysb = s.b.sysb ∧ (s.setEs n).b.cause = s.b.cause ∧ (s.setEs n).b.epc = s.b.epc ∧
    (s.setEs n).b.tvec = s.b.tvec ∧ (s.setEs n).b.status = s.b.status ∧ (s.setEs n).b.pcH = s.b.pcH ∧ (s.setEs n).b.loaded = s.b.loaded ∧
    (s.setEs n).b.waitA = s.b.waitA ∧ (s.setEs n).b.waitX = s.b.waitX ∧ (s.setEs n).b.irq32 = s.b.irq32 ∧ (s.setEs n).b.irq34 = s.b.irq34 ∧
    (s.setEs n).b.irq35 = s.b.irq35 ∧ (s.setEs n).b.cache = s.b.cache ∧ (s.setEs n).b.hwm = s.b.hwm ∧ (s.setEs n).b.binds = s.b.binds ∧
    (s.setEs n).b.jobsIssued = s.b.jobsIssued ∧ (s.setEs n).b.monitor = s.b.monitor ∧ (s.setEs n).b.tab = s.b.tab ∧
    (s.setEs n).b.crcA = s.b.crcA ∧ (s.setEs n).b.crcX = s.b.crcX ∧ (s.setEs n).b.retA = s.b.retA ∧ (s.setEs n).b.retX = s.b.retX ∧
    (s.setEs n).b.buf = s.b.buf ∧ (s.setEs n).b.memDone = s.b.memDone ∧ (s.setEs n).b.chk = s.b.chk ∧ (s.setEs n).b.atRel = s.b.atRel ∧
    (s.setEs n).b.endS = s.b.endS ∧ (s.setEs n).b.entryCtx = s.b.entryCtx ∧ (s.setEs n).b.memHeld = s.b.memHeld ∧
    (s.setEs n).b.relRec = s.b.relRec ∧ (s.setEs n).b.agreedA = s.b.agreedA ∧ (s.setEs n).b.agreedX = s.b.agreedX ∧
    (s.setEs n).b.agHeld = s.b.agHeld ∧ (s.setEs n).b.fwdF = s.b.fwdF ∧ (s.setEs n).b.pairsA = s.b.pairsA ∧ (s.setEs n).b.pairsX = s.b.pairsX ∧
    (s.setEs n).b.posA = s.b.posA ∧ (s.setEs n).b.fwdA = s.b.fwdA ∧ (s.setEs n).b.fwdX = s.b.fwdX ∧ (s.setEs n).b.due = s.b.due ∧
    (s.setEs n).b.landDue = s.b.landDue ∧ (s.setEs n).b.posX = s.b.posX ∧ (s.setEs n).b.tookA = s.b.tookA ∧ (s.setEs n).b.landAt = s.b.landAt ∧
    (s.setEs n).b.askAge = s.b.askAge ∧ (s.setEs n).b.out = s.b.out := by
  simp [State.setEs]

@[simp] theorem State.setEs_context (s : State) (n : Nat) :
    (s.setEs n).b.ctx.a = s.b.ctx.a ∧ (s.setEs n).b.ctx.sh = s.b.ctx.sh ∧ (s.setEs n).b.ctx.x = s.b.ctx.x ∧ (s.setEs n).b.ctx.v = s.b.ctx.v ∧
    (s.setEs n).b.ctx.k = s.b.ctx.k ∧ (s.setEs n).b.ctx.kf = s.b.ctx.kf ∧ (s.setEs n).b.ctx.lq = s.b.ctx.lq ∧ (s.setEs n).b.ctx.sq = s.b.ctx.sq ∧
    (s.setEs n).b.ctx.tqa = s.b.ctx.tqa ∧ (s.setEs n).b.ctx.tqx = s.b.ctx.tqx ∧ (s.setEs n).b.ctx.kq = s.b.ctx.kq ∧
    (s.setEs n).b.ctx.ac = s.b.ctx.ac ∧ (s.setEs n).b.ctx.xc = s.b.ctx.xc ∧ (s.setEs n).b.ctx.vcap = s.b.ctx.vcap ∧
    (s.setEs n).b.ctx.capX = s.b.ctx.capX ∧ (s.setEs n).b.ctx.bound = s.b.ctx.bound ∧ (s.setEs n).b.ctx.grants = s.b.ctx.grants ∧
    (s.setEs n).b.ctx.streams = s.b.ctx.streams ∧ (s.setEs n).b.ctx.landEn = s.b.ctx.landEn ∧ (s.setEs n).b.ctx.landPend = s.b.ctx.landPend ∧
    (s.setEs n).b.ctx.retLatch = s.b.ctx.retLatch ∧ (s.setEs n).b.ctx.inLand = s.b.ctx.inLand ∧ (s.setEs n).b.ctx.wins = s.b.ctx.wins ∧
    (s.setEs n).b.ctx.grp = s.b.ctx.grp ∧ (s.setEs n).b.ctx.xt = s.b.ctx.xt ∧ (s.setEs n).b.ctx.mx = s.b.ctx.mx ∧
    (s.setEs n).b.ctx.pcA = s.b.ctx.pcA ∧
    (s.setEs n).b.ctx.pcX = s.b.ctx.pcX ∧ (s.setEs n).b.ctx.endA = s.b.ctx.endA ∧ (s.setEs n).b.ctx.endX = s.b.ctx.endX ∧
    (s.setEs n).b.ctx.satP = s.b.ctx.satP ∧ (s.setEs n).b.ctx.curA = s.b.ctx.curA ∧ (s.setEs n).b.ctx.curX = s.b.ctx.curX := by
  simp [State.setEs]

@[simp] theorem State.useDither_outside (s : State) (u : Bool) :
    (s.useDither u).hart = s.hart ∧ (s.useDither u).rest = s.rest ∧ (s.useDither u).turns = s.turns ∧ (s.useDither u).egStop = s.egStop ∧
    (s.useDither u).mem = s.mem ∧ (s.useDither u).poison = s.poison ∧ (s.useDither u).dram = s.dram ∧ (s.useDither u).tlb = s.tlb ∧
    (s.useDither u).tasks = s.tasks ∧ (s.useDither u).sets = s.sets ∧ (s.useDither u).cards = s.cards ∧ (s.useDither u).winErr = s.winErr ∧
    (s.useDither u).jobs = s.jobs ∧ (s.useDither u).barriers = s.barriers ∧ (s.useDither u).lanes = s.lanes ∧ (s.useDither u).slices = s.slices ∧
    (s.useDither u).aproot = s.aproot ∧ (s.useDither u).apasn = s.apasn ∧ (s.useDither u).lmember = s.lmember ∧ (s.useDither u).lazy = s.lazy ∧
    (s.useDither u).ageing = s.ageing ∧ (s.useDither u).mgmtReplies = s.mgmtReplies ∧ (s.useDither u).badQuads = s.badQuads ∧
    (s.useDither u).xres = s.xres ∧ (s.useDither u).startTick = s.startTick ∧
    (s.useDither u).ticket = s.ticket ∧ (s.useDither u).apBase = s.apBase ∧ (s.useDither u).modState = s.modState ∧
    (s.useDither u).msix = s.msix ∧ (s.useDither u).pend34 = s.pend34 ∧ (s.useDither u).failedCold = s.failedCold ∧
    (s.useDither u).endOfLife = s.endOfLife ∧ (s.useDither u).healthTo = s.healthTo ∧ (s.useDither u).remap = s.remap ∧
    (s.useDither u).outQuads = s.outQuads ∧ (s.useDither u).ports = s.ports ∧ (s.useDither u).mustCold = s.mustCold ∧
    (s.useDither u).chunks = s.chunks ∧ (s.useDither u).arrivals = s.arrivals ∧ (s.useDither u).fabOut = s.fabOut ∧
    (s.useDither u).hostReplies = s.hostReplies ∧ (s.useDither u).loadReplies = s.loadReplies ∧ (s.useDither u).lost = s.lost ∧
    (s.useDither u).ticks = s.ticks ∧ (s.useDither u).free = s.free ∧ (s.useDither u).nextId = s.nextId ∧ (s.useDither u).age = s.age := by
  unfold State.useDither; split <;> simp

@[simp] theorem State.useDither_inside (s : State) (u : Bool) :
    (s.useDither u).b.id = s.b.id ∧ (s.useDither u).b.live = s.b.live ∧ (s.useDither u).b.left = s.b.left ∧ (s.useDither u).b.savedAt = s.b.savedAt ∧
    (s.useDither u).b.core = s.b.core ∧ (s.useDither u).b.task = s.b.task ∧ (s.useDither u).b.idx = s.b.idx ∧ (s.useDither u).b.rep = s.b.rep ∧
    (s.useDither u).b.level = s.b.level ∧ (s.useDither u).b.sysb = s.b.sysb ∧ (s.useDither u).b.cause = s.b.cause ∧
    (s.useDither u).b.epc = s.b.epc ∧ (s.useDither u).b.tvec = s.b.tvec ∧ (s.useDither u).b.status = s.b.status ∧ (s.useDither u).b.pcH = s.b.pcH ∧
    (s.useDither u).b.loaded = s.b.loaded ∧ (s.useDither u).b.waitA = s.b.waitA ∧ (s.useDither u).b.waitX = s.b.waitX ∧
    (s.useDither u).b.irq32 = s.b.irq32 ∧ (s.useDither u).b.irq34 = s.b.irq34 ∧ (s.useDither u).b.irq35 = s.b.irq35 ∧
    (s.useDither u).b.cache = s.b.cache ∧ (s.useDither u).b.hwm = s.b.hwm ∧ (s.useDither u).b.binds = s.b.binds ∧
    (s.useDither u).b.jobsIssued = s.b.jobsIssued ∧
    (s.useDither u).b.monitor = s.b.monitor ∧ (s.useDither u).b.tab = s.b.tab ∧ (s.useDither u).b.crcA = s.b.crcA ∧
    (s.useDither u).b.crcX = s.b.crcX ∧ (s.useDither u).b.retA = s.b.retA ∧ (s.useDither u).b.retX = s.b.retX ∧ (s.useDither u).b.buf = s.b.buf ∧
    (s.useDither u).b.memDone = s.b.memDone ∧ (s.useDither u).b.chk = s.b.chk ∧ (s.useDither u).b.atRel = s.b.atRel ∧
    (s.useDither u).b.endS = s.b.endS ∧ (s.useDither u).b.entryCtx = s.b.entryCtx ∧ (s.useDither u).b.memHeld = s.b.memHeld ∧
    (s.useDither u).b.relRec = s.b.relRec ∧ (s.useDither u).b.agreedA = s.b.agreedA ∧ (s.useDither u).b.agreedX = s.b.agreedX ∧
    (s.useDither u).b.agHeld = s.b.agHeld ∧ (s.useDither u).b.fwdF = s.b.fwdF ∧ (s.useDither u).b.pairsA = s.b.pairsA ∧
    (s.useDither u).b.pairsX = s.b.pairsX ∧ (s.useDither u).b.posA = s.b.posA ∧ (s.useDither u).b.fwdA = s.b.fwdA ∧
    (s.useDither u).b.fwdX = s.b.fwdX ∧
    (s.useDither u).b.due = s.b.due ∧ (s.useDither u).b.landDue = s.b.landDue ∧ (s.useDither u).b.posX = s.b.posX ∧
    (s.useDither u).b.tookA = s.b.tookA ∧ (s.useDither u).b.landAt = s.b.landAt ∧
    (s.useDither u).b.askAge = s.b.askAge ∧ (s.useDither u).b.out = s.b.out := by
  unfold State.useDither; split <;> simp

@[simp] theorem State.useDither_context (s : State) (u : Bool) :
    (s.useDither u).b.ctx.a = s.b.ctx.a ∧ (s.useDither u).b.ctx.sh = s.b.ctx.sh ∧ (s.useDither u).b.ctx.x = s.b.ctx.x ∧
    (s.useDither u).b.ctx.v = s.b.ctx.v ∧ (s.useDither u).b.ctx.k = s.b.ctx.k ∧ (s.useDither u).b.ctx.kf = s.b.ctx.kf ∧
    (s.useDither u).b.ctx.lq = s.b.ctx.lq ∧ (s.useDither u).b.ctx.sq = s.b.ctx.sq ∧ (s.useDither u).b.ctx.tqa = s.b.ctx.tqa ∧
    (s.useDither u).b.ctx.tqx = s.b.ctx.tqx ∧ (s.useDither u).b.ctx.kq = s.b.ctx.kq ∧ (s.useDither u).b.ctx.ac = s.b.ctx.ac ∧
    (s.useDither u).b.ctx.xc = s.b.ctx.xc ∧ (s.useDither u).b.ctx.vcap = s.b.ctx.vcap ∧ (s.useDither u).b.ctx.capX = s.b.ctx.capX ∧
    (s.useDither u).b.ctx.bound = s.b.ctx.bound ∧ (s.useDither u).b.ctx.grants = s.b.ctx.grants ∧ (s.useDither u).b.ctx.streams = s.b.ctx.streams ∧
    (s.useDither u).b.ctx.landEn = s.b.ctx.landEn ∧ (s.useDither u).b.ctx.landPend = s.b.ctx.landPend ∧
    (s.useDither u).b.ctx.retLatch = s.b.ctx.retLatch ∧
    (s.useDither u).b.ctx.inLand = s.b.ctx.inLand ∧ (s.useDither u).b.ctx.wins = s.b.ctx.wins ∧ (s.useDither u).b.ctx.grp = s.b.ctx.grp ∧
    (s.useDither u).b.ctx.xt = s.b.ctx.xt ∧ (s.useDither u).b.ctx.mx = s.b.ctx.mx ∧ (s.useDither u).b.ctx.pcA = s.b.ctx.pcA ∧
    (s.useDither u).b.ctx.pcX = s.b.ctx.pcX ∧ (s.useDither u).b.ctx.endA = s.b.ctx.endA ∧ (s.useDither u).b.ctx.endX = s.b.ctx.endX ∧
    (s.useDither u).b.ctx.satP = s.b.ctx.satP ∧ (s.useDither u).b.ctx.curA = s.b.ctx.curA ∧ (s.useDither u).b.ctx.curX = s.b.ctx.curX := by
  unfold State.useDither; split <;> simp

@[simp] theorem State.setPcOf_outside (s : State) (h : Hart) (v : Word) :
    (s.setPcOf h v).hart = s.hart ∧ (s.setPcOf h v).rest = s.rest ∧ (s.setPcOf h v).turns = s.turns ∧ (s.setPcOf h v).egStop = s.egStop ∧
    (s.setPcOf h v).mem = s.mem ∧ (s.setPcOf h v).poison = s.poison ∧ (s.setPcOf h v).dram = s.dram ∧ (s.setPcOf h v).tlb = s.tlb ∧
    (s.setPcOf h v).tasks = s.tasks ∧ (s.setPcOf h v).sets = s.sets ∧ (s.setPcOf h v).cards = s.cards ∧ (s.setPcOf h v).winErr = s.winErr ∧
    (s.setPcOf h v).jobs = s.jobs ∧ (s.setPcOf h v).barriers = s.barriers ∧ (s.setPcOf h v).lanes = s.lanes ∧ (s.setPcOf h v).slices = s.slices ∧
    (s.setPcOf h v).aproot = s.aproot ∧ (s.setPcOf h v).apasn = s.apasn ∧ (s.setPcOf h v).lmember = s.lmember ∧ (s.setPcOf h v).lazy = s.lazy ∧
    (s.setPcOf h v).ageing = s.ageing ∧ (s.setPcOf h v).mgmtReplies = s.mgmtReplies ∧ (s.setPcOf h v).badQuads = s.badQuads ∧
    (s.setPcOf h v).xres = s.xres ∧ (s.setPcOf h v).startTick = s.startTick ∧
    (s.setPcOf h v).ticket = s.ticket ∧ (s.setPcOf h v).apBase = s.apBase ∧ (s.setPcOf h v).modState = s.modState ∧
    (s.setPcOf h v).msix = s.msix ∧ (s.setPcOf h v).pend34 = s.pend34 ∧ (s.setPcOf h v).failedCold = s.failedCold ∧
    (s.setPcOf h v).endOfLife = s.endOfLife ∧ (s.setPcOf h v).healthTo = s.healthTo ∧ (s.setPcOf h v).remap = s.remap ∧
    (s.setPcOf h v).outQuads = s.outQuads ∧ (s.setPcOf h v).ports = s.ports ∧ (s.setPcOf h v).mustCold = s.mustCold ∧
    (s.setPcOf h v).chunks = s.chunks ∧ (s.setPcOf h v).arrivals = s.arrivals ∧ (s.setPcOf h v).fabOut = s.fabOut ∧
    (s.setPcOf h v).hostReplies = s.hostReplies ∧ (s.setPcOf h v).loadReplies = s.loadReplies ∧ (s.setPcOf h v).lost = s.lost ∧
    (s.setPcOf h v).ticks = s.ticks ∧ (s.setPcOf h v).free = s.free ∧ (s.setPcOf h v).nextId = s.nextId ∧ (s.setPcOf h v).age = s.age := by
  unfold State.setPcOf; split <;> first | (split <;> simp) | simp

@[simp] theorem State.setPcOf_inside (s : State) (h : Hart) (v : Word) :
    (s.setPcOf h v).b.id = s.b.id ∧ (s.setPcOf h v).b.live = s.b.live ∧ (s.setPcOf h v).b.left = s.b.left ∧ (s.setPcOf h v).b.savedAt = s.b.savedAt ∧
    (s.setPcOf h v).b.core = s.b.core ∧ (s.setPcOf h v).b.task = s.b.task ∧ (s.setPcOf h v).b.idx = s.b.idx ∧ (s.setPcOf h v).b.rep = s.b.rep ∧
    (s.setPcOf h v).b.level = s.b.level ∧ (s.setPcOf h v).b.sysb = s.b.sysb ∧ (s.setPcOf h v).b.cause = s.b.cause ∧
    (s.setPcOf h v).b.epc = s.b.epc ∧ (s.setPcOf h v).b.tvec = s.b.tvec ∧ (s.setPcOf h v).b.status = s.b.status ∧
    (s.setPcOf h v).b.loaded = s.b.loaded ∧
    (s.setPcOf h v).b.waitA = s.b.waitA ∧ (s.setPcOf h v).b.waitX = s.b.waitX ∧ (s.setPcOf h v).b.irq32 = s.b.irq32 ∧
    (s.setPcOf h v).b.irq34 = s.b.irq34 ∧ (s.setPcOf h v).b.irq35 = s.b.irq35 ∧ (s.setPcOf h v).b.cache = s.b.cache ∧
    (s.setPcOf h v).b.hwm = s.b.hwm ∧ (s.setPcOf h v).b.binds = s.b.binds ∧ (s.setPcOf h v).b.jobsIssued = s.b.jobsIssued ∧
    (s.setPcOf h v).b.monitor = s.b.monitor ∧ (s.setPcOf h v).b.tab = s.b.tab ∧ (s.setPcOf h v).b.crcA = s.b.crcA ∧
    (s.setPcOf h v).b.crcX = s.b.crcX ∧ (s.setPcOf h v).b.retA = s.b.retA ∧ (s.setPcOf h v).b.retX = s.b.retX ∧ (s.setPcOf h v).b.buf = s.b.buf ∧
    (s.setPcOf h v).b.memDone = s.b.memDone ∧ (s.setPcOf h v).b.chk = s.b.chk ∧ (s.setPcOf h v).b.atRel = s.b.atRel ∧
    (s.setPcOf h v).b.endS = s.b.endS ∧ (s.setPcOf h v).b.entryCtx = s.b.entryCtx ∧ (s.setPcOf h v).b.memHeld = s.b.memHeld ∧
    (s.setPcOf h v).b.relRec = s.b.relRec ∧ (s.setPcOf h v).b.agreedA = s.b.agreedA ∧ (s.setPcOf h v).b.agreedX = s.b.agreedX ∧
    (s.setPcOf h v).b.agHeld = s.b.agHeld ∧ (s.setPcOf h v).b.fwdF = s.b.fwdF ∧ (s.setPcOf h v).b.pairsA = s.b.pairsA ∧
    (s.setPcOf h v).b.pairsX = s.b.pairsX ∧ (s.setPcOf h v).b.posA = s.b.posA ∧ (s.setPcOf h v).b.fwdA = s.b.fwdA ∧
    (s.setPcOf h v).b.fwdX = s.b.fwdX ∧
    (s.setPcOf h v).b.due = s.b.due ∧ (s.setPcOf h v).b.landDue = s.b.landDue ∧ (s.setPcOf h v).b.posX = s.b.posX ∧
    (s.setPcOf h v).b.tookA = s.b.tookA ∧ (s.setPcOf h v).b.landAt = s.b.landAt ∧
    (s.setPcOf h v).b.askAge = s.b.askAge ∧ (s.setPcOf h v).b.out = s.b.out := by
  unfold State.setPcOf; split <;> first | (split <;> simp) | simp

@[simp] theorem State.setPcOf_context (s : State) (h : Hart) (v : Word) :
    (s.setPcOf h v).b.ctx.a = s.b.ctx.a ∧ (s.setPcOf h v).b.ctx.sh = s.b.ctx.sh ∧ (s.setPcOf h v).b.ctx.x = s.b.ctx.x ∧
    (s.setPcOf h v).b.ctx.v = s.b.ctx.v ∧ (s.setPcOf h v).b.ctx.k = s.b.ctx.k ∧ (s.setPcOf h v).b.ctx.kf = s.b.ctx.kf ∧
    (s.setPcOf h v).b.ctx.lq = s.b.ctx.lq ∧ (s.setPcOf h v).b.ctx.sq = s.b.ctx.sq ∧ (s.setPcOf h v).b.ctx.tqa = s.b.ctx.tqa ∧
    (s.setPcOf h v).b.ctx.tqx = s.b.ctx.tqx ∧ (s.setPcOf h v).b.ctx.kq = s.b.ctx.kq ∧ (s.setPcOf h v).b.ctx.ra = s.b.ctx.ra ∧
    (s.setPcOf h v).b.ctx.rx = s.b.ctx.rx ∧ (s.setPcOf h v).b.ctx.ac = s.b.ctx.ac ∧ (s.setPcOf h v).b.ctx.xc = s.b.ctx.xc ∧
    (s.setPcOf h v).b.ctx.vcap = s.b.ctx.vcap ∧ (s.setPcOf h v).b.ctx.capX = s.b.ctx.capX ∧ (s.setPcOf h v).b.ctx.bound = s.b.ctx.bound ∧
    (s.setPcOf h v).b.ctx.grants = s.b.ctx.grants ∧ (s.setPcOf h v).b.ctx.streams = s.b.ctx.streams ∧ (s.setPcOf h v).b.ctx.landEn = s.b.ctx.landEn ∧
    (s.setPcOf h v).b.ctx.landPend = s.b.ctx.landPend ∧ (s.setPcOf h v).b.ctx.retLatch = s.b.ctx.retLatch ∧
    (s.setPcOf h v).b.ctx.inLand = s.b.ctx.inLand ∧
    (s.setPcOf h v).b.ctx.wins = s.b.ctx.wins ∧ (s.setPcOf h v).b.ctx.grp = s.b.ctx.grp ∧ (s.setPcOf h v).b.ctx.xt = s.b.ctx.xt ∧
    (s.setPcOf h v).b.ctx.mx = s.b.ctx.mx ∧ (s.setPcOf h v).b.ctx.endA = s.b.ctx.endA ∧ (s.setPcOf h v).b.ctx.endX = s.b.ctx.endX ∧
    (s.setPcOf h v).b.ctx.satP = s.b.ctx.satP ∧ (s.setPcOf h v).b.ctx.curA = s.b.ctx.curA ∧ (s.setPcOf h v).b.ctx.curX = s.b.ctx.curX := by
  unfold State.setPcOf; split <;> first | (split <;> simp) | simp

@[simp] theorem State.setPc_outside (s : State) (v : Word) :
    (s.setPc v).hart = s.hart ∧ (s.setPc v).rest = s.rest ∧ (s.setPc v).turns = s.turns ∧ (s.setPc v).egStop = s.egStop ∧
    (s.setPc v).mem = s.mem ∧ (s.setPc v).poison = s.poison ∧ (s.setPc v).dram = s.dram ∧ (s.setPc v).tlb = s.tlb ∧
    (s.setPc v).tasks = s.tasks ∧ (s.setPc v).sets = s.sets ∧ (s.setPc v).cards = s.cards ∧ (s.setPc v).winErr = s.winErr ∧
    (s.setPc v).jobs = s.jobs ∧ (s.setPc v).barriers = s.barriers ∧ (s.setPc v).lanes = s.lanes ∧ (s.setPc v).slices = s.slices ∧
    (s.setPc v).aproot = s.aproot ∧ (s.setPc v).apasn = s.apasn ∧ (s.setPc v).lmember = s.lmember ∧ (s.setPc v).lazy = s.lazy ∧
    (s.setPc v).ageing = s.ageing ∧ (s.setPc v).mgmtReplies = s.mgmtReplies ∧ (s.setPc v).badQuads = s.badQuads ∧ (s.setPc v).xres = s.xres ∧
    (s.setPc v).startTick = s.startTick ∧
    (s.setPc v).ticket = s.ticket ∧ (s.setPc v).apBase = s.apBase ∧ (s.setPc v).modState = s.modState ∧ (s.setPc v).msix = s.msix ∧
    (s.setPc v).pend34 = s.pend34 ∧ (s.setPc v).failedCold = s.failedCold ∧ (s.setPc v).endOfLife = s.endOfLife ∧ (s.setPc v).healthTo = s.healthTo ∧
    (s.setPc v).remap = s.remap ∧ (s.setPc v).outQuads = s.outQuads ∧ (s.setPc v).ports = s.ports ∧ (s.setPc v).mustCold = s.mustCold ∧
    (s.setPc v).chunks = s.chunks ∧ (s.setPc v).arrivals = s.arrivals ∧ (s.setPc v).fabOut = s.fabOut ∧ (s.setPc v).hostReplies = s.hostReplies ∧
    (s.setPc v).loadReplies = s.loadReplies ∧ (s.setPc v).lost = s.lost ∧ (s.setPc v).ticks = s.ticks ∧ (s.setPc v).free = s.free ∧
    (s.setPc v).nextId = s.nextId ∧ (s.setPc v).age = s.age := by
  simp [State.setPc]

@[simp] theorem State.setPc_inside (s : State) (v : Word) :
    (s.setPc v).b.id = s.b.id ∧ (s.setPc v).b.live = s.b.live ∧ (s.setPc v).b.left = s.b.left ∧ (s.setPc v).b.savedAt = s.b.savedAt ∧
    (s.setPc v).b.core = s.b.core ∧ (s.setPc v).b.task = s.b.task ∧ (s.setPc v).b.idx = s.b.idx ∧ (s.setPc v).b.rep = s.b.rep ∧
    (s.setPc v).b.level = s.b.level ∧ (s.setPc v).b.sysb = s.b.sysb ∧ (s.setPc v).b.cause = s.b.cause ∧ (s.setPc v).b.epc = s.b.epc ∧
    (s.setPc v).b.tvec = s.b.tvec ∧ (s.setPc v).b.status = s.b.status ∧ (s.setPc v).b.loaded = s.b.loaded ∧ (s.setPc v).b.waitA = s.b.waitA ∧
    (s.setPc v).b.waitX = s.b.waitX ∧ (s.setPc v).b.irq32 = s.b.irq32 ∧ (s.setPc v).b.irq34 = s.b.irq34 ∧ (s.setPc v).b.irq35 = s.b.irq35 ∧
    (s.setPc v).b.cache = s.b.cache ∧ (s.setPc v).b.hwm = s.b.hwm ∧ (s.setPc v).b.binds = s.b.binds ∧ (s.setPc v).b.jobsIssued = s.b.jobsIssued ∧
    (s.setPc v).b.monitor = s.b.monitor ∧ (s.setPc v).b.tab = s.b.tab ∧ (s.setPc v).b.crcA = s.b.crcA ∧ (s.setPc v).b.crcX = s.b.crcX ∧
    (s.setPc v).b.retA = s.b.retA ∧ (s.setPc v).b.retX = s.b.retX ∧ (s.setPc v).b.buf = s.b.buf ∧ (s.setPc v).b.memDone = s.b.memDone ∧
    (s.setPc v).b.chk = s.b.chk ∧ (s.setPc v).b.atRel = s.b.atRel ∧ (s.setPc v).b.endS = s.b.endS ∧ (s.setPc v).b.entryCtx = s.b.entryCtx ∧
    (s.setPc v).b.memHeld = s.b.memHeld ∧ (s.setPc v).b.relRec = s.b.relRec ∧ (s.setPc v).b.agreedA = s.b.agreedA ∧
    (s.setPc v).b.agreedX = s.b.agreedX ∧ (s.setPc v).b.agHeld = s.b.agHeld ∧ (s.setPc v).b.fwdF = s.b.fwdF ∧ (s.setPc v).b.pairsA = s.b.pairsA ∧
    (s.setPc v).b.pairsX = s.b.pairsX ∧ (s.setPc v).b.posA = s.b.posA ∧ (s.setPc v).b.fwdA = s.b.fwdA ∧
    (s.setPc v).b.fwdX = s.b.fwdX ∧ (s.setPc v).b.due = s.b.due ∧ (s.setPc v).b.landDue = s.b.landDue ∧ (s.setPc v).b.posX = s.b.posX ∧
    (s.setPc v).b.tookA = s.b.tookA ∧ (s.setPc v).b.landAt = s.b.landAt ∧
    (s.setPc v).b.askAge = s.b.askAge ∧ (s.setPc v).b.out = s.b.out := by
  simp [State.setPc]

@[simp] theorem State.setPc_context (s : State) (v : Word) :
    (s.setPc v).b.ctx.a = s.b.ctx.a ∧ (s.setPc v).b.ctx.sh = s.b.ctx.sh ∧ (s.setPc v).b.ctx.x = s.b.ctx.x ∧ (s.setPc v).b.ctx.v = s.b.ctx.v ∧
    (s.setPc v).b.ctx.k = s.b.ctx.k ∧ (s.setPc v).b.ctx.kf = s.b.ctx.kf ∧ (s.setPc v).b.ctx.lq = s.b.ctx.lq ∧ (s.setPc v).b.ctx.sq = s.b.ctx.sq ∧
    (s.setPc v).b.ctx.tqa = s.b.ctx.tqa ∧ (s.setPc v).b.ctx.tqx = s.b.ctx.tqx ∧ (s.setPc v).b.ctx.kq = s.b.ctx.kq ∧
    (s.setPc v).b.ctx.ra = s.b.ctx.ra ∧ (s.setPc v).b.ctx.rx = s.b.ctx.rx ∧ (s.setPc v).b.ctx.ac = s.b.ctx.ac ∧ (s.setPc v).b.ctx.xc = s.b.ctx.xc ∧
    (s.setPc v).b.ctx.vcap = s.b.ctx.vcap ∧ (s.setPc v).b.ctx.capX = s.b.ctx.capX ∧ (s.setPc v).b.ctx.bound = s.b.ctx.bound ∧
    (s.setPc v).b.ctx.grants = s.b.ctx.grants ∧ (s.setPc v).b.ctx.streams = s.b.ctx.streams ∧ (s.setPc v).b.ctx.landEn = s.b.ctx.landEn ∧
    (s.setPc v).b.ctx.landPend = s.b.ctx.landPend ∧ (s.setPc v).b.ctx.retLatch = s.b.ctx.retLatch ∧ (s.setPc v).b.ctx.inLand = s.b.ctx.inLand ∧
    (s.setPc v).b.ctx.wins = s.b.ctx.wins ∧ (s.setPc v).b.ctx.grp = s.b.ctx.grp ∧ (s.setPc v).b.ctx.xt = s.b.ctx.xt ∧
    (s.setPc v).b.ctx.mx = s.b.ctx.mx ∧ (s.setPc v).b.ctx.endA = s.b.ctx.endA ∧ (s.setPc v).b.ctx.endX = s.b.ctx.endX ∧
    (s.setPc v).b.ctx.satP = s.b.ctx.satP ∧ (s.setPc v).b.ctx.curA = s.b.ctx.curA ∧ (s.setPc v).b.ctx.curX = s.b.ctx.curX := by
  simp [State.setPc]

@[simp] theorem State.setWaitOf_outside (s : State) (h : Hart) (w : Option Wait) :
    (s.setWaitOf h w).hart = s.hart ∧ (s.setWaitOf h w).rest = s.rest ∧ (s.setWaitOf h w).turns = s.turns ∧ (s.setWaitOf h w).egStop = s.egStop ∧
    (s.setWaitOf h w).mem = s.mem ∧ (s.setWaitOf h w).poison = s.poison ∧ (s.setWaitOf h w).dram = s.dram ∧ (s.setWaitOf h w).tlb = s.tlb ∧
    (s.setWaitOf h w).tasks = s.tasks ∧ (s.setWaitOf h w).sets = s.sets ∧ (s.setWaitOf h w).cards = s.cards ∧ (s.setWaitOf h w).winErr = s.winErr ∧
    (s.setWaitOf h w).jobs = s.jobs ∧ (s.setWaitOf h w).barriers = s.barriers ∧ (s.setWaitOf h w).lanes = s.lanes ∧
    (s.setWaitOf h w).slices = s.slices ∧ (s.setWaitOf h w).aproot = s.aproot ∧ (s.setWaitOf h w).apasn = s.apasn ∧
    (s.setWaitOf h w).lmember = s.lmember ∧ (s.setWaitOf h w).lazy = s.lazy ∧ (s.setWaitOf h w).ageing = s.ageing ∧
    (s.setWaitOf h w).mgmtReplies = s.mgmtReplies ∧ (s.setWaitOf h w).badQuads = s.badQuads ∧ (s.setWaitOf h w).xres = s.xres ∧
    (s.setWaitOf h w).startTick = s.startTick ∧ (s.setWaitOf h w).ticket = s.ticket ∧
    (s.setWaitOf h w).apBase = s.apBase ∧ (s.setWaitOf h w).modState = s.modState ∧ (s.setWaitOf h w).msix = s.msix ∧
    (s.setWaitOf h w).pend34 = s.pend34 ∧ (s.setWaitOf h w).failedCold = s.failedCold ∧ (s.setWaitOf h w).endOfLife = s.endOfLife ∧
    (s.setWaitOf h w).healthTo = s.healthTo ∧ (s.setWaitOf h w).remap = s.remap ∧ (s.setWaitOf h w).outQuads = s.outQuads ∧
    (s.setWaitOf h w).ports = s.ports ∧ (s.setWaitOf h w).mustCold = s.mustCold ∧ (s.setWaitOf h w).chunks = s.chunks ∧
    (s.setWaitOf h w).arrivals = s.arrivals ∧ (s.setWaitOf h w).fabOut = s.fabOut ∧ (s.setWaitOf h w).hostReplies = s.hostReplies ∧
    (s.setWaitOf h w).loadReplies = s.loadReplies ∧ (s.setWaitOf h w).lost = s.lost ∧ (s.setWaitOf h w).ticks = s.ticks ∧
    (s.setWaitOf h w).free = s.free ∧ (s.setWaitOf h w).nextId = s.nextId ∧ (s.setWaitOf h w).age = s.age := by
  unfold State.setWaitOf; split <;> simp

@[simp] theorem State.setWaitOf_inside (s : State) (h : Hart) (w : Option Wait) :
    (s.setWaitOf h w).b.ctx = s.b.ctx ∧ (s.setWaitOf h w).b.id = s.b.id ∧ (s.setWaitOf h w).b.live = s.b.live ∧ (s.setWaitOf h w).b.left = s.b.left ∧
    (s.setWaitOf h w).b.savedAt = s.b.savedAt ∧ (s.setWaitOf h w).b.core = s.b.core ∧ (s.setWaitOf h w).b.task = s.b.task ∧
    (s.setWaitOf h w).b.idx = s.b.idx ∧ (s.setWaitOf h w).b.rep = s.b.rep ∧ (s.setWaitOf h w).b.level = s.b.level ∧
    (s.setWaitOf h w).b.sysb = s.b.sysb ∧ (s.setWaitOf h w).b.cause = s.b.cause ∧ (s.setWaitOf h w).b.epc = s.b.epc ∧
    (s.setWaitOf h w).b.tvec = s.b.tvec ∧ (s.setWaitOf h w).b.status = s.b.status ∧ (s.setWaitOf h w).b.pcH = s.b.pcH ∧
    (s.setWaitOf h w).b.loaded = s.b.loaded ∧ (s.setWaitOf h w).b.irq32 = s.b.irq32 ∧ (s.setWaitOf h w).b.irq34 = s.b.irq34 ∧
    (s.setWaitOf h w).b.irq35 = s.b.irq35 ∧ (s.setWaitOf h w).b.cache = s.b.cache ∧ (s.setWaitOf h w).b.hwm = s.b.hwm ∧
    (s.setWaitOf h w).b.binds = s.b.binds ∧ (s.setWaitOf h w).b.jobsIssued = s.b.jobsIssued ∧ (s.setWaitOf h w).b.monitor = s.b.monitor ∧
    (s.setWaitOf h w).b.tab = s.b.tab ∧ (s.setWaitOf h w).b.crcA = s.b.crcA ∧ (s.setWaitOf h w).b.crcX = s.b.crcX ∧
    (s.setWaitOf h w).b.retA = s.b.retA ∧ (s.setWaitOf h w).b.retX = s.b.retX ∧ (s.setWaitOf h w).b.buf = s.b.buf ∧
    (s.setWaitOf h w).b.memDone = s.b.memDone ∧ (s.setWaitOf h w).b.chk = s.b.chk ∧ (s.setWaitOf h w).b.atRel = s.b.atRel ∧
    (s.setWaitOf h w).b.endS = s.b.endS ∧ (s.setWaitOf h w).b.entryCtx = s.b.entryCtx ∧ (s.setWaitOf h w).b.memHeld = s.b.memHeld ∧
    (s.setWaitOf h w).b.relRec = s.b.relRec ∧ (s.setWaitOf h w).b.agreedA = s.b.agreedA ∧ (s.setWaitOf h w).b.agreedX = s.b.agreedX ∧
    (s.setWaitOf h w).b.agHeld = s.b.agHeld ∧ (s.setWaitOf h w).b.fwdF = s.b.fwdF ∧ (s.setWaitOf h w).b.pairsA = s.b.pairsA ∧
    (s.setWaitOf h w).b.pairsX = s.b.pairsX ∧ (s.setWaitOf h w).b.posA = s.b.posA ∧ (s.setWaitOf h w).b.fwdA = s.b.fwdA ∧
    (s.setWaitOf h w).b.fwdX = s.b.fwdX ∧
    (s.setWaitOf h w).b.due = s.b.due ∧ (s.setWaitOf h w).b.landDue = s.b.landDue ∧ (s.setWaitOf h w).b.posX = s.b.posX ∧
    (s.setWaitOf h w).b.tookA = s.b.tookA ∧ (s.setWaitOf h w).b.landAt = s.b.landAt ∧
    (s.setWaitOf h w).b.askAge = s.b.askAge ∧ (s.setWaitOf h w).b.out = s.b.out := by
  unfold State.setWaitOf; split <;> simp

@[simp] theorem State.setWait_outside (s : State) (w : Option Wait) :
    (s.setWait w).hart = s.hart ∧ (s.setWait w).rest = s.rest ∧ (s.setWait w).turns = s.turns ∧ (s.setWait w).egStop = s.egStop ∧
    (s.setWait w).mem = s.mem ∧ (s.setWait w).poison = s.poison ∧ (s.setWait w).dram = s.dram ∧ (s.setWait w).tlb = s.tlb ∧
    (s.setWait w).tasks = s.tasks ∧ (s.setWait w).sets = s.sets ∧ (s.setWait w).cards = s.cards ∧ (s.setWait w).winErr = s.winErr ∧
    (s.setWait w).jobs = s.jobs ∧ (s.setWait w).barriers = s.barriers ∧ (s.setWait w).lanes = s.lanes ∧ (s.setWait w).slices = s.slices ∧
    (s.setWait w).aproot = s.aproot ∧ (s.setWait w).apasn = s.apasn ∧ (s.setWait w).lmember = s.lmember ∧ (s.setWait w).lazy = s.lazy ∧
    (s.setWait w).ageing = s.ageing ∧ (s.setWait w).mgmtReplies = s.mgmtReplies ∧ (s.setWait w).badQuads = s.badQuads ∧
    (s.setWait w).xres = s.xres ∧ (s.setWait w).startTick = s.startTick ∧
    (s.setWait w).ticket = s.ticket ∧ (s.setWait w).apBase = s.apBase ∧ (s.setWait w).modState = s.modState ∧ (s.setWait w).msix = s.msix ∧
    (s.setWait w).pend34 = s.pend34 ∧ (s.setWait w).failedCold = s.failedCold ∧ (s.setWait w).endOfLife = s.endOfLife ∧
    (s.setWait w).healthTo = s.healthTo ∧ (s.setWait w).remap = s.remap ∧ (s.setWait w).outQuads = s.outQuads ∧ (s.setWait w).ports = s.ports ∧
    (s.setWait w).mustCold = s.mustCold ∧ (s.setWait w).chunks = s.chunks ∧ (s.setWait w).arrivals = s.arrivals ∧ (s.setWait w).fabOut = s.fabOut ∧
    (s.setWait w).hostReplies = s.hostReplies ∧ (s.setWait w).loadReplies = s.loadReplies ∧ (s.setWait w).lost = s.lost ∧
    (s.setWait w).ticks = s.ticks ∧ (s.setWait w).free = s.free ∧ (s.setWait w).nextId = s.nextId ∧ (s.setWait w).age = s.age := by
  simp [State.setWait]

@[simp] theorem State.setWait_inside (s : State) (w : Option Wait) :
    (s.setWait w).b.ctx = s.b.ctx ∧ (s.setWait w).b.id = s.b.id ∧ (s.setWait w).b.live = s.b.live ∧ (s.setWait w).b.left = s.b.left ∧
    (s.setWait w).b.savedAt = s.b.savedAt ∧ (s.setWait w).b.core = s.b.core ∧ (s.setWait w).b.task = s.b.task ∧ (s.setWait w).b.idx = s.b.idx ∧
    (s.setWait w).b.rep = s.b.rep ∧ (s.setWait w).b.level = s.b.level ∧ (s.setWait w).b.sysb = s.b.sysb ∧ (s.setWait w).b.cause = s.b.cause ∧
    (s.setWait w).b.epc = s.b.epc ∧ (s.setWait w).b.tvec = s.b.tvec ∧ (s.setWait w).b.status = s.b.status ∧ (s.setWait w).b.pcH = s.b.pcH ∧
    (s.setWait w).b.loaded = s.b.loaded ∧ (s.setWait w).b.irq32 = s.b.irq32 ∧ (s.setWait w).b.irq34 = s.b.irq34 ∧ (s.setWait w).b.irq35 = s.b.irq35 ∧
    (s.setWait w).b.cache = s.b.cache ∧ (s.setWait w).b.hwm = s.b.hwm ∧ (s.setWait w).b.binds = s.b.binds ∧
    (s.setWait w).b.jobsIssued = s.b.jobsIssued ∧
    (s.setWait w).b.monitor = s.b.monitor ∧ (s.setWait w).b.tab = s.b.tab ∧ (s.setWait w).b.crcA = s.b.crcA ∧ (s.setWait w).b.crcX = s.b.crcX ∧
    (s.setWait w).b.retA = s.b.retA ∧ (s.setWait w).b.retX = s.b.retX ∧ (s.setWait w).b.buf = s.b.buf ∧ (s.setWait w).b.memDone = s.b.memDone ∧
    (s.setWait w).b.chk = s.b.chk ∧ (s.setWait w).b.atRel = s.b.atRel ∧ (s.setWait w).b.endS = s.b.endS ∧ (s.setWait w).b.entryCtx = s.b.entryCtx ∧
    (s.setWait w).b.memHeld = s.b.memHeld ∧ (s.setWait w).b.relRec = s.b.relRec ∧ (s.setWait w).b.agreedA = s.b.agreedA ∧
    (s.setWait w).b.agreedX = s.b.agreedX ∧ (s.setWait w).b.agHeld = s.b.agHeld ∧ (s.setWait w).b.fwdF = s.b.fwdF ∧
    (s.setWait w).b.pairsA = s.b.pairsA ∧ (s.setWait w).b.pairsX = s.b.pairsX ∧ (s.setWait w).b.posA = s.b.posA ∧ (s.setWait w).b.fwdA = s.b.fwdA ∧
    (s.setWait w).b.fwdX = s.b.fwdX ∧ (s.setWait w).b.due = s.b.due ∧ (s.setWait w).b.landDue = s.b.landDue ∧ (s.setWait w).b.posX = s.b.posX ∧
    (s.setWait w).b.tookA = s.b.tookA ∧ (s.setWait w).b.landAt = s.b.landAt ∧
    (s.setWait w).b.askAge = s.b.askAge ∧ (s.setWait w).b.out = s.b.out := by
  simp [State.setWait]

@[simp] theorem State.goTo_outside (s : State) (v : Word) :
    (s.goTo v).hart = s.hart ∧ (s.goTo v).rest = s.rest ∧ (s.goTo v).turns = s.turns ∧ (s.goTo v).egStop = s.egStop ∧
    (s.goTo v).mem = s.mem ∧ (s.goTo v).poison = s.poison ∧ (s.goTo v).dram = s.dram ∧ (s.goTo v).tlb = s.tlb ∧ (s.goTo v).tasks = s.tasks ∧
    (s.goTo v).sets = s.sets ∧ (s.goTo v).cards = s.cards ∧ (s.goTo v).winErr = s.winErr ∧ (s.goTo v).jobs = s.jobs ∧
    (s.goTo v).barriers = s.barriers ∧ (s.goTo v).lanes = s.lanes ∧ (s.goTo v).slices = s.slices ∧ (s.goTo v).aproot = s.aproot ∧
    (s.goTo v).apasn = s.apasn ∧ (s.goTo v).lmember = s.lmember ∧ (s.goTo v).lazy = s.lazy ∧ (s.goTo v).ageing = s.ageing ∧
    (s.goTo v).mgmtReplies = s.mgmtReplies ∧ (s.goTo v).badQuads = s.badQuads ∧ (s.goTo v).xres = s.xres ∧ (s.goTo v).startTick = s.startTick ∧
    (s.goTo v).ticket = s.ticket ∧
    (s.goTo v).apBase = s.apBase ∧ (s.goTo v).modState = s.modState ∧ (s.goTo v).msix = s.msix ∧ (s.goTo v).pend34 = s.pend34 ∧
    (s.goTo v).failedCold = s.failedCold ∧ (s.goTo v).endOfLife = s.endOfLife ∧ (s.goTo v).healthTo = s.healthTo ∧
    (s.goTo v).remap = s.remap ∧ (s.goTo v).outQuads = s.outQuads ∧ (s.goTo v).ports = s.ports ∧ (s.goTo v).mustCold = s.mustCold ∧
    (s.goTo v).chunks = s.chunks ∧ (s.goTo v).arrivals = s.arrivals ∧ (s.goTo v).fabOut = s.fabOut ∧ (s.goTo v).hostReplies = s.hostReplies ∧
    (s.goTo v).loadReplies = s.loadReplies ∧ (s.goTo v).lost = s.lost ∧ (s.goTo v).ticks = s.ticks ∧ (s.goTo v).free = s.free ∧
    (s.goTo v).nextId = s.nextId ∧ (s.goTo v).age = s.age := by
  unfold State.goTo; dsimp only; split <;> simp

@[simp] theorem State.goTo_inside (s : State) (v : Word) :
    (s.goTo v).b.id = s.b.id ∧ (s.goTo v).b.live = s.b.live ∧ (s.goTo v).b.left = s.b.left ∧ (s.goTo v).b.savedAt = s.b.savedAt ∧
    (s.goTo v).b.core = s.b.core ∧ (s.goTo v).b.task = s.b.task ∧ (s.goTo v).b.idx = s.b.idx ∧ (s.goTo v).b.rep = s.b.rep ∧
    (s.goTo v).b.level = s.b.level ∧ (s.goTo v).b.sysb = s.b.sysb ∧ (s.goTo v).b.cause = s.b.cause ∧ (s.goTo v).b.epc = s.b.epc ∧
    (s.goTo v).b.tvec = s.b.tvec ∧ (s.goTo v).b.status = s.b.status ∧ (s.goTo v).b.loaded = s.b.loaded ∧ (s.goTo v).b.irq32 = s.b.irq32 ∧
    (s.goTo v).b.irq34 = s.b.irq34 ∧ (s.goTo v).b.irq35 = s.b.irq35 ∧ (s.goTo v).b.cache = s.b.cache ∧ (s.goTo v).b.hwm = s.b.hwm ∧
    (s.goTo v).b.binds = s.b.binds ∧ (s.goTo v).b.jobsIssued = s.b.jobsIssued ∧ (s.goTo v).b.monitor = s.b.monitor ∧
    (s.goTo v).b.tab = s.b.tab ∧ (s.goTo v).b.crcA = s.b.crcA ∧ (s.goTo v).b.crcX = s.b.crcX ∧ (s.goTo v).b.buf = s.b.buf ∧
    (s.goTo v).b.memDone = s.b.memDone ∧ (s.goTo v).b.chk = s.b.chk ∧ (s.goTo v).b.atRel = s.b.atRel ∧ (s.goTo v).b.endS = s.b.endS ∧
    (s.goTo v).b.entryCtx = s.b.entryCtx ∧ (s.goTo v).b.memHeld = s.b.memHeld ∧ (s.goTo v).b.relRec = s.b.relRec ∧
    (s.goTo v).b.agreedA = s.b.agreedA ∧ (s.goTo v).b.agreedX = s.b.agreedX ∧ (s.goTo v).b.agHeld = s.b.agHeld ∧ (s.goTo v).b.fwdF = s.b.fwdF ∧
    (s.goTo v).b.pairsA = s.b.pairsA ∧ (s.goTo v).b.pairsX = s.b.pairsX ∧ (s.goTo v).b.posA = s.b.posA ∧
    (s.goTo v).b.fwdA = s.b.fwdA ∧ (s.goTo v).b.fwdX = s.b.fwdX ∧ (s.goTo v).b.due = s.b.due ∧ (s.goTo v).b.landDue = s.b.landDue ∧
    (s.goTo v).b.posX = s.b.posX ∧ (s.goTo v).b.tookA = s.b.tookA ∧ (s.goTo v).b.landAt = s.b.landAt ∧ (s.goTo v).b.askAge = s.b.askAge ∧
    (s.goTo v).b.out = s.b.out := by
  unfold State.goTo; dsimp only; split <;> simp

@[simp] theorem State.goTo_context (s : State) (v : Word) :
    (s.goTo v).b.ctx.a = s.b.ctx.a ∧ (s.goTo v).b.ctx.sh = s.b.ctx.sh ∧ (s.goTo v).b.ctx.x = s.b.ctx.x ∧ (s.goTo v).b.ctx.v = s.b.ctx.v ∧
    (s.goTo v).b.ctx.k = s.b.ctx.k ∧ (s.goTo v).b.ctx.kf = s.b.ctx.kf ∧ (s.goTo v).b.ctx.lq = s.b.ctx.lq ∧ (s.goTo v).b.ctx.sq = s.b.ctx.sq ∧
    (s.goTo v).b.ctx.tqa = s.b.ctx.tqa ∧ (s.goTo v).b.ctx.tqx = s.b.ctx.tqx ∧ (s.goTo v).b.ctx.kq = s.b.ctx.kq ∧ (s.goTo v).b.ctx.ra = s.b.ctx.ra ∧
    (s.goTo v).b.ctx.rx = s.b.ctx.rx ∧ (s.goTo v).b.ctx.ac = s.b.ctx.ac ∧ (s.goTo v).b.ctx.vcap = s.b.ctx.vcap ∧
    (s.goTo v).b.ctx.capX = s.b.ctx.capX ∧
    (s.goTo v).b.ctx.bound = s.b.ctx.bound ∧ (s.goTo v).b.ctx.grants = s.b.ctx.grants ∧ (s.goTo v).b.ctx.streams = s.b.ctx.streams ∧
    (s.goTo v).b.ctx.landEn = s.b.ctx.landEn ∧ (s.goTo v).b.ctx.landPend = s.b.ctx.landPend ∧ (s.goTo v).b.ctx.retLatch = s.b.ctx.retLatch ∧
    (s.goTo v).b.ctx.inLand = s.b.ctx.inLand ∧ (s.goTo v).b.ctx.wins = s.b.ctx.wins ∧ (s.goTo v).b.ctx.grp = s.b.ctx.grp ∧
    (s.goTo v).b.ctx.xt = s.b.ctx.xt ∧ (s.goTo v).b.ctx.mx = s.b.ctx.mx ∧ (s.goTo v).b.ctx.endA = s.b.ctx.endA ∧
    (s.goTo v).b.ctx.endX = s.b.ctx.endX ∧
    (s.goTo v).b.ctx.satP = s.b.ctx.satP ∧ (s.goTo v).b.ctx.curA = s.b.ctx.curA ∧ (s.goTo v).b.ctx.curX = s.b.ctx.curX := by
  unfold State.goTo; dsimp only; split <;> simp

@[simp] theorem State.retire_outside (s : State)  :
    (s.retire).hart = s.hart ∧ (s.retire).rest = s.rest ∧ (s.retire).turns = s.turns ∧ (s.retire).egStop = s.egStop ∧
    (s.retire).mem = s.mem ∧ (s.retire).poison = s.poison ∧ (s.retire).dram = s.dram ∧ (s.retire).tlb = s.tlb ∧ (s.retire).tasks = s.tasks ∧
    (s.retire).sets = s.sets ∧ (s.retire).cards = s.cards ∧ (s.retire).winErr = s.winErr ∧ (s.retire).jobs = s.jobs ∧
    (s.retire).barriers = s.barriers ∧ (s.retire).lanes = s.lanes ∧ (s.retire).slices = s.slices ∧ (s.retire).aproot = s.aproot ∧
    (s.retire).apasn = s.apasn ∧ (s.retire).lmember = s.lmember ∧ (s.retire).lazy = s.lazy ∧ (s.retire).ageing = s.ageing ∧
    (s.retire).mgmtReplies = s.mgmtReplies ∧ (s.retire).badQuads = s.badQuads ∧ (s.retire).xres = s.xres ∧ (s.retire).startTick = s.startTick ∧
    (s.retire).ticket = s.ticket ∧
    (s.retire).apBase = s.apBase ∧ (s.retire).modState = s.modState ∧ (s.retire).msix = s.msix ∧ (s.retire).pend34 = s.pend34 ∧
    (s.retire).failedCold = s.failedCold ∧ (s.retire).endOfLife = s.endOfLife ∧ (s.retire).healthTo = s.healthTo ∧
    (s.retire).remap = s.remap ∧ (s.retire).outQuads = s.outQuads ∧ (s.retire).ports = s.ports ∧ (s.retire).mustCold = s.mustCold ∧
    (s.retire).chunks = s.chunks ∧ (s.retire).arrivals = s.arrivals ∧ (s.retire).fabOut = s.fabOut ∧ (s.retire).hostReplies = s.hostReplies ∧
    (s.retire).loadReplies = s.loadReplies ∧ (s.retire).lost = s.lost ∧ (s.retire).ticks = s.ticks ∧ (s.retire).free = s.free ∧
    (s.retire).nextId = s.nextId ∧ (s.retire).age = s.age := by
  simp [State.retire]

@[simp] theorem State.retire_inside (s : State)  :
    (s.retire).b.id = s.b.id ∧ (s.retire).b.live = s.b.live ∧ (s.retire).b.left = s.b.left ∧ (s.retire).b.savedAt = s.b.savedAt ∧
    (s.retire).b.core = s.b.core ∧ (s.retire).b.task = s.b.task ∧ (s.retire).b.idx = s.b.idx ∧ (s.retire).b.rep = s.b.rep ∧
    (s.retire).b.level = s.b.level ∧ (s.retire).b.sysb = s.b.sysb ∧ (s.retire).b.cause = s.b.cause ∧ (s.retire).b.epc = s.b.epc ∧
    (s.retire).b.tvec = s.b.tvec ∧ (s.retire).b.status = s.b.status ∧ (s.retire).b.loaded = s.b.loaded ∧ (s.retire).b.irq32 = s.b.irq32 ∧
    (s.retire).b.irq34 = s.b.irq34 ∧ (s.retire).b.irq35 = s.b.irq35 ∧ (s.retire).b.cache = s.b.cache ∧ (s.retire).b.hwm = s.b.hwm ∧
    (s.retire).b.binds = s.b.binds ∧ (s.retire).b.jobsIssued = s.b.jobsIssued ∧ (s.retire).b.monitor = s.b.monitor ∧
    (s.retire).b.tab = s.b.tab ∧ (s.retire).b.crcA = s.b.crcA ∧ (s.retire).b.crcX = s.b.crcX ∧ (s.retire).b.buf = s.b.buf ∧
    (s.retire).b.memDone = s.b.memDone ∧ (s.retire).b.chk = s.b.chk ∧ (s.retire).b.atRel = s.b.atRel ∧ (s.retire).b.endS = s.b.endS ∧
    (s.retire).b.entryCtx = s.b.entryCtx ∧ (s.retire).b.memHeld = s.b.memHeld ∧ (s.retire).b.relRec = s.b.relRec ∧
    (s.retire).b.agreedA = s.b.agreedA ∧ (s.retire).b.agreedX = s.b.agreedX ∧ (s.retire).b.agHeld = s.b.agHeld ∧ (s.retire).b.fwdF = s.b.fwdF ∧
    (s.retire).b.pairsA = s.b.pairsA ∧ (s.retire).b.pairsX = s.b.pairsX ∧ (s.retire).b.posA = s.b.posA ∧
    (s.retire).b.fwdA = s.b.fwdA ∧ (s.retire).b.fwdX = s.b.fwdX ∧ (s.retire).b.due = s.b.due ∧ (s.retire).b.landDue = s.b.landDue ∧
    (s.retire).b.posX = s.b.posX ∧ (s.retire).b.tookA = s.b.tookA ∧ (s.retire).b.landAt = s.b.landAt ∧ (s.retire).b.askAge = s.b.askAge ∧
    (s.retire).b.out = s.b.out := by
  simp [State.retire]

@[simp] theorem State.retire_context (s : State)  :
    (s.retire).b.ctx.a = s.b.ctx.a ∧ (s.retire).b.ctx.sh = s.b.ctx.sh ∧ (s.retire).b.ctx.x = s.b.ctx.x ∧ (s.retire).b.ctx.v = s.b.ctx.v ∧
    (s.retire).b.ctx.k = s.b.ctx.k ∧ (s.retire).b.ctx.kf = s.b.ctx.kf ∧ (s.retire).b.ctx.lq = s.b.ctx.lq ∧ (s.retire).b.ctx.sq = s.b.ctx.sq ∧
    (s.retire).b.ctx.tqa = s.b.ctx.tqa ∧ (s.retire).b.ctx.tqx = s.b.ctx.tqx ∧ (s.retire).b.ctx.kq = s.b.ctx.kq ∧ (s.retire).b.ctx.ra = s.b.ctx.ra ∧
    (s.retire).b.ctx.rx = s.b.ctx.rx ∧ (s.retire).b.ctx.ac = s.b.ctx.ac ∧ (s.retire).b.ctx.vcap = s.b.ctx.vcap ∧
    (s.retire).b.ctx.capX = s.b.ctx.capX ∧
    (s.retire).b.ctx.bound = s.b.ctx.bound ∧ (s.retire).b.ctx.grants = s.b.ctx.grants ∧ (s.retire).b.ctx.streams = s.b.ctx.streams ∧
    (s.retire).b.ctx.landEn = s.b.ctx.landEn ∧ (s.retire).b.ctx.landPend = s.b.ctx.landPend ∧ (s.retire).b.ctx.retLatch = s.b.ctx.retLatch ∧
    (s.retire).b.ctx.inLand = s.b.ctx.inLand ∧ (s.retire).b.ctx.wins = s.b.ctx.wins ∧ (s.retire).b.ctx.grp = s.b.ctx.grp ∧
    (s.retire).b.ctx.xt = s.b.ctx.xt ∧ (s.retire).b.ctx.mx = s.b.ctx.mx ∧ (s.retire).b.ctx.endA = s.b.ctx.endA ∧
    (s.retire).b.ctx.endX = s.b.ctx.endX ∧
    (s.retire).b.ctx.satP = s.b.ctx.satP ∧ (s.retire).b.ctx.curA = s.b.ctx.curA ∧ (s.retire).b.ctx.curX = s.b.ctx.curX := by
  simp [State.retire]

end Sys2Proof.Machine
end

