-- ==== Sys2Proof/Laws/Issue.lean ====
section
/-! SUPPORT. Registers read after writes, where a hart goes after an instruction, what issue comes to (spec/23 R278), and the shared
operations of replica execution for a braid that is in no set. -/

namespace Sys2Proof.Machine

/-! Registers. -/

theorem rd_wr {α : Type} (v : Vector α 32) (r q : Reg) (x : α) : rd (wr v r x) q = if q = r then x else rd v q := by
  have hq := q.isLt
  have hr := r.isLt
  show (v.set r.toNat x r.isLt)[q.toNat] = _
  rw [Vector.getElem_set]
  by_cases h : q = r
  · subst h; simp
  · have : r.toNat ≠ q.toNat := fun e => h (BitVec.eq_of_toNat_eq e.symm)
    simp only [this, if_false, h]; rfl

theorem bank_set {α : Type} (v : Vector α 8) (r q : Reg) (hr : 24 ≤ r.toNat) (hq : 24 ≤ q.toNat) (x : α) :
    (v.set (bankIx r).toNat x (bankIx r).isLt).get (bankIx q).toFin = if q = r then x else v.get (bankIx q).toFin := by
  show (v.set (bankIx r).toNat x (bankIx r).isLt)[(bankIx q).toNat] = _
  rw [Vector.getElem_set]
  have e (p : Reg) (hp : 24 ≤ p.toNat) : (bankIx p).toNat = p.toNat - 24 := by
    have := p.isLt
    simp only [bankIx, BitVec.extractLsb'_toNat, Nat.shiftRight_zero]; omega
  by_cases h : q = r
  · subst h; simp
  · have : (bankIx r).toNat ≠ (bankIx q).toNat := by
      rw [e r hr, e q hq]; intro he; exact h (BitVec.eq_of_toNat_eq (by omega))
    simp only [this, if_false, h]; rfl

/-- A register of the A-hart after a write of one: a0 stays zero (R4, R298). -/
theorem State.aReg_setA (s : State) (r q : Reg) (v : Word) :
    (s.setA r v).aReg q = if q = r ∧ r ≠ 0 then v else s.aReg q := by
  by_cases hq : q = 0
  · subst hq
    rw [if_neg (fun h => h.2 h.1.symm)]; rfl
  by_cases hr : r = 0
  · subst hr
    rw [if_neg (fun h => h.2 rfl)]; rfl
  simp only [setA, aReg, if_neg hq, ne_eq, hr, not_false_eq_true, and_true, sysMode]
  by_cases h1 : r.toNat < 24 <;> by_cases h2 : q.toNat < 24
  · simp [h1, h2, rd_wr]
  · have hn : q ≠ r := fun e => h2 (e ▸ h1)
    by_cases hs : s.b.status[5] = true <;> by_cases hl : s.b.ctx.inLand = true <;> simp [h1, h2, hn, hs, hl, rd_wr]
  · have hn : q ≠ r := fun e => h1 (e ▸ h2)
    by_cases hs : s.b.status[5] = true <;> by_cases hl : s.b.ctx.inLand = true <;> simp [h1, h2, hn, hs, hl, rd_wr]
  · have hb : ∀ v8 : Vector Word 8, _ := fun v8 => bank_set v8 r q (by omega) (by omega) v
    by_cases hs : s.b.status[5] = true <;> by_cases hl : s.b.ctx.inLand = true <;> simp [h1, h2, hs, hl, rd_wr, hb]

theorem State.xReg_setX (s : State) (r q : Reg) (v : Word) :
    (s.setX r v).xReg q = if q = r ∧ r ≠ 0 then v else s.xReg q := by
  by_cases hq : q = 0
  · subst hq
    rw [if_neg (fun h => h.2 h.1.symm)]; rfl
  by_cases hr : r = 0
  · subst hr
    rw [if_neg (fun h => h.2 rfl)]; rfl
  simp only [setX, xReg, hq, hr, if_false, ne_eq, not_false_eq_true, and_true, mapCtx_b_ctx, rd_wr]

/-- A register of the executing hart after a write of one. -/
theorem State.reg_setReg (s : State) (r q : Reg) (v : Word) :
    (s.setReg r v).reg q = if q = r ∧ r ≠ 0 then v else s.reg q := by
  unfold setReg reg
  cases h : s.hart <;> simp [h, aReg_setA, xReg_setX]

@[simp] theorem State.aReg_zero (s : State) : s.aReg 0 = 0 := rfl
@[simp] theorem State.xReg_zero (s : State) : s.xReg 0 = 0 := rfl
@[simp] theorem State.reg_zero (s : State) : s.reg 0 = 0 := by unfold reg; split <;> rfl

@[simp] theorem State.xReg_setA (s : State) (r q : Reg) (v : Word) : (s.setA r v).xReg q = s.xReg q := by simp [xReg]
@[simp] theorem State.aReg_setX (s : State) (r q : Reg) (v : Word) : (s.setX r v).aReg q = s.aReg q := by
  simp [aReg, sysMode]

/-! Where a hart goes. -/

@[simp] theorem State.aReg_setPcOf (s : State) (h : Hart) (v : Word) (r : Reg) : (s.setPcOf h v).aReg r = s.aReg r := by
  simp [aReg, sysMode]
@[simp] theorem State.xReg_setPcOf (s : State) (h : Hart) (v : Word) (r : Reg) : (s.setPcOf h v).xReg r = s.xReg r := by simp [xReg]
@[simp] theorem State.aReg_goTo (s : State) (v : Word) (r : Reg) : (s.goTo v).aReg r = s.aReg r := by simp [aReg, sysMode]
@[simp] theorem State.xReg_goTo (s : State) (v : Word) (r : Reg) : (s.goTo v).xReg r = s.xReg r := by simp [xReg]
@[simp] theorem State.reg_goTo (s : State) (v : Word) (r : Reg) : (s.goTo v).reg r = s.reg r := by simp [reg]
@[simp] theorem State.reg_retire (s : State) (r : Reg) : s.retire.reg r = s.reg r := by simp [retire]
@[simp] theorem State.aReg_retire (s : State) (r : Reg) : s.retire.aReg r = s.aReg r := by simp [retire]
@[simp] theorem State.xReg_retire (s : State) (r : Reg) : s.retire.xReg r = s.xReg r := by simp [retire]

theorem State.pcOf_setPcOf (s : State) (h : Hart) (v : Word) : (s.setPcOf h v).pcOf h = v := by
  cases h
  · by_cases hm : s.b.status[5] = true <;> simp [setPcOf, pcOf, sysMode, hm]
  · rfl

/-- The hart stands where it went. -/
@[simp] theorem State.pc_goTo (s : State) (v : Word) : (s.goTo v).pc = v := by
  unfold goTo pc
  cases h : s.hart <;> by_cases hm : s.b.status[5] = true <;>
    simp [pcOf, setPc, setPcOf, setWait, setWaitOf, sysMode, h, hm]

/-- The other hart stays where it is. -/
theorem State.pcOf_goTo_other (s : State) (v : Word) (h : Hart) (hh : h ≠ s.hart) : (s.goTo v).pcOf h = s.pcOf h := by
  unfold goTo
  cases hs : s.hart <;> cases h <;> by_cases hm : s.b.status[5] = true <;>
    simp_all [pcOf, setPc, setPcOf, setWait, setWaitOf, sysMode]

@[simp] theorem State.pc_setReg (s : State) (r : Reg) (v : Word) : (s.setReg r v).pc = s.pc := by
  simp [pc, pcOf, sysMode]

@[simp] theorem State.waitOf_goTo (s : State) (v : Word) : (s.goTo v).waitOf s.hart = none := by
  unfold goTo
  cases h : s.hart <;> simp [h, waitOf, setPc, setWait, setWaitOf, mapB]

/-! Issue (R278). -/

/-- The instruction issues: the hart is one of its harts, no landing handler forbids it, it may follow the prefix, and the level
suffices. -/
theorem State.issue_of {who : Harts} {level : Level} {land vec : Bool} {s : State} (k : State → Res) (h1 : who.allow s.hart = true)
    (h2 : s.hart = .A → s.landing = true → land = true) (h3 : s.prefixed = true → vec = true) (h4 : level.rank ≤ s.b.level.rank) :
    s.issue who level land vec k = k s := by
  unfold issue
  rw [if_neg (by simp [h1]), if_neg, if_neg, if_neg (by omega)]
  · simp only [Bool.and_eq_true, Bool.not_eq_true', not_and, Bool.not_eq_false]; exact h3
  · simp only [Bool.and_eq_true, Bool.not_eq_true', beq_iff_eq, not_and, Bool.not_eq_false, and_imp]; exact h2

/-- All that issue can come to, in the order of its checks. -/
theorem State.issue_cases (who : Harts) (level : Level) (land vec : Bool) (s : State) (k : State → Res) :
    (who.allow s.hart = false ∧ s.issue who level land vec k = .trap s 1 0) ∨
    (who.allow s.hart = true ∧ s.hart = .A ∧ s.landing = true ∧ land = false ∧ s.issue who level land vec k = .trap s 1 0) ∨
    (who.allow s.hart = true ∧ s.prefixed = true ∧ vec = false ∧ s.issue who level land vec k = .trap s.dropPrefix 11 0) ∨
    (who.allow s.hart = true ∧ s.b.level.rank < level.rank ∧ s.issue who level land vec k = .trap s 2 0) ∨
    (who.allow s.hart = true ∧ level.rank ≤ s.b.level.rank ∧ (s.hart = .A → s.landing = true → land = true) ∧
      (s.prefixed = true → vec = true) ∧ s.issue who level land vec k = k s) := by
  unfold issue
  split_ifs with h1 h2 h3 h4
  · exact .inl ⟨by simpa using h1, rfl⟩
  · simp only [Bool.and_eq_true, Bool.not_eq_true', beq_iff_eq] at h2
    exact .inr (.inl ⟨by simpa using h1, h2.1.1, h2.1.2, h2.2, rfl⟩)
  · simp only [Bool.and_eq_true, Bool.not_eq_true'] at h3
    exact .inr (.inr (.inl ⟨by simpa using h1, h3.1, h3.2, rfl⟩))
  · exact .inr (.inr (.inr (.inl ⟨by simpa using h1, h4, rfl⟩)))
  · refine .inr (.inr (.inr (.inr ⟨by simpa using h1, by omega, ?_, ?_, rfl⟩)))
    · simpa using h2
    · simpa using h3

@[simp] theorem Res.settle_done (s : State) : (Res.done s).settle = .next s := rfl
@[simp] theorem Res.settle_trap (s : State) (c : Nat) (e : Word) : (Res.trap s c e).settle = .next (s.raise s.hart c s.pc e) := rfl
@[simp] theorem Res.settle_wait (s : State) (w : Wait) : (Res.wait s w).settle = .next (s.setWait (some w)) := rfl

/-! A braid in no replica set. -/

theorem State.replicated_none {s : State} (h : s.rset = none) : s.replicated = false := by simp [replicated, h]

/-- Outside a set a trap enters its handler at once (R157). -/
theorem State.raise_alone {s : State} (h : s.rset = none) (t : Hart) (c : Nat) (p e : Word) : s.raise t c p e = s.enter t c p e := by
  simp [raise, replicated_none h]

/-- A trap of a set's member waits in its hart for the others, but in the handler, where it is a second one (R163). -/
theorem State.raise_set {s : State} (h : s.replicated = true) (hm : s.sysMode = false) (t : Hart) (c : Nat) (p e : Word) :
    s.raise t c p e = (s.setPcOf t (p &&& addrMask)).setWaitOf t (some (.trap c e false)) := by
  simp [raise, h, hm]

theorem State.onceWhen_alone {s : State} (h : s.rset = none) (ready : State → Option Wait) (op : State → State × Nat)
    (k : State → Nat → Res) : s.onceWhen ready op k = match ready s with
      | some w => .wait s w
      | none => k (op s).1 (op s).2 := by
  cases hr : ready s <;> simp [State.onceWhen, h, hr]

theorem State.decided_alone {s : State} (h : s.rset = none) (ready : State → Option Wait) (v : State → Nat) (k : State → Nat → Res) :
    s.decided ready v k = match ready s with
      | some w => .wait s w
      | none => k s (v s) := onceWhen_alone h ready _ k

theorem State.forward_alone {s : State} (h : s.rset = none) (v : State → Nat) (k : State → Nat → Res) :
    s.forward v k = k s (v s) := decided_alone h _ v k

theorem State.once_alone {s : State} (h : s.rset = none) (op : State → State × Nat) (k : State → Nat → Res) :
    s.once op k = k (op s).1 (op s).2 := onceWhen_alone h _ op k

/-- A braid in no set decides for itself. -/
theorem State.leads_alone {s : State} (h : s.rset = none) : s.leads = true := by simp only [leads, h]

theorem State.setPoint_alone {s : State} (h : s.rset = none) (rec : List Nat) (k : State → Res) : s.setPoint rec k = k s := by
  simp only [setPoint, h]

theorem State.releasePoint_alone {s : State} (h : s.rset = none) (scope : Nat) (rec : List Nat) (k : State → Res) :
    s.releasePoint scope rec k = k (s.release scope) := by simp only [releasePoint, h]

theorem Res.replay_done (s t : State) : (Res.done t).replay s = .done t := rfl
theorem Res.replay_trap (s t : State) (c : Nat) (e : Word) : (Res.trap t c e).replay s = .trap t c e := rfl

/-- The set of a braid depends only on the sets and the braid's task, index and number. -/
theorem State.rset_congr {s t : State} (h1 : t.sets = s.sets) (h2 : t.b.task = s.b.task) (h3 : t.b.idx = s.b.idx) (h4 : t.b.id = s.b.id) :
    t.rset = s.rset := by simp only [rset, RSet.has, h1, h2, h3, h4]

@[simp] theorem State.rset_goTo (s : State) (v : Word) : (s.goTo v).rset = s.rset := rset_congr (by simp) (by simp) (by simp) (by simp)
@[simp] theorem State.rset_setReg (s : State) (r : Reg) (v : Word) : (s.setReg r v).rset = s.rset :=
  rset_congr (by simp) (by simp) (by simp) (by simp)

/-! Vector stores that have not performed (R120, R122). -/

/-- `prefixTo` cuts the list in two. -/
theorem prefixTo_append (of : BufItem → Bool) (l : List BufItem) : (prefixTo of l).1 ++ (prefixTo of l).2 = l := by
  induction l with
  | nil => rfl
  | cons i r ih =>
    simp only [prefixTo]
    split
    · rfl
    · simp [ih]

/-- What stays is none of those that `of` takes. -/
theorem prefixTo_rest (of : BufItem → Bool) (l : List BufItem) : ∀ i ∈ (prefixTo of l).2, of i = false := by
  induction l with
  | nil => simp [prefixTo]
  | cons i r ih =>
    simp only [prefixTo]
    split
    · rename_i h
      simp only [Bool.and_eq_true, List.isEmpty_iff, Bool.not_eq_true'] at h
      have := prefixTo_append of r
      rw [h.1, List.nil_append] at this
      rw [this] at ih
      simpa [h.2] using ih
    · exact ih

/-- If `of` takes none, none performs. -/
theorem prefixTo_none {of : BufItem → Bool} {l : List BufItem} (h : ∀ i ∈ l, of i = false) : prefixTo of l = ([], l) := by
  induction l with
  | nil => rfl
  | cons i r ih => simp_all [prefixTo]

theorem State.settleOut_none {s : State} {of : BufItem → Bool} (h : ∀ i ∈ s.b.out, of i = false) : s.settleOut of = s := by
  simp [settleOut, prefixTo_none h]

end Sys2Proof.Machine
end

