-- ==== Sys2Proof/Laws/Vector.lean ====
section
/-! SUPPORT. Elements of vector registers read after writes, what running elements leaves, and what the shared frames of the X-hart's
vector instructions come to (spec/26 R328). -/

namespace Sys2Proof.Machine

/-! Elements. -/

theorem testBit_getEl (v : VReg) (w e i : Nat) : (getEl v w e).testBit i = (decide (i < w) && v.getLsbD (w * e + i)) := by
  simp only [getEl, Nat.testBit_mod_two_pow, Nat.testBit_div_two_pow, BitVec.getLsbD, Nat.add_comm]

theorem getLsbD_setEl (v : VReg) (w e x j : Nat) : (setEl v w e x).getLsbD j =
    if w * e ≤ j ∧ j < w * e + w ∧ j < 16384 then x.testBit (j - w * e) else v.getLsbD j := by
  simp only [setEl, BitVec.getLsbD_or, BitVec.getLsbD_and, BitVec.getLsbD_not, BitVec.getLsbD_shiftLeft, BitVec.getLsbD_ofNat,
    Nat.testBit_two_pow_sub_one, Nat.testBit_mod_two_pow]
  by_cases h1 : j < 16384
  · by_cases h2 : w * e ≤ j
    · by_cases h3 : j < w * e + w
      · have h4 : j - w * e < w := by omega
        have h5 : j - w * e < 16384 := by omega
        have h6 : ¬j < w * e := by omega
        simp [h1, h2, h3, h4, h5, h6]
      · have h4 : ¬j - w * e < w := by omega
        simp [h1, h2, h3, h4]
    · have h6 : j < w * e := by omega
      simp [h1, h2, h6]
  · have : v.getLsbD j = false := BitVec.getLsbD_of_ge _ _ (by omega)
    simp [h1, this]

/-- An element read after an element was written. -/
theorem getEl_setEl (v : VReg) (w e x e' : Nat) (hw : 0 < w) (he : w * e + w ≤ 16384) :
    getEl (setEl v w e x) w e' = if e' = e then x % 2 ^ w else getEl v w e' := by
  apply Nat.eq_of_testBit_eq
  intro i
  rw [testBit_getEl]
  by_cases hi : i < w
  · rw [getLsbD_setEl]
    by_cases h : e' = e
    · subst h
      rw [if_pos rfl, if_pos (by omega), Nat.testBit_mod_two_pow]
      simp
    · rw [if_neg h, testBit_getEl, if_neg]
      rintro ⟨h1, h2, -⟩
      rcases Nat.lt_or_gt_of_ne h with hlt | hgt
      · have : w * (e' + 1) ≤ w * e := Nat.mul_le_mul_left w hlt
        rw [Nat.mul_succ] at this; omega
      · have : w * (e + 1) ≤ w * e' := Nat.mul_le_mul_left w hgt
        rw [Nat.mul_succ] at this; omega
  · simp only [hi, decide_false, Bool.false_and]
    split
    · rw [Nat.testBit_mod_two_pow]; simp [hi]
    · rw [testBit_getEl]; simp [hi]

/-- Elements written from a function of their index, read back. -/
theorem getEl_setEls (w : Nat) (hw : 0 < w) (g : Nat → Nat) (e : Nat) : ∀ (l : List Nat) (v : VReg),
    (∀ i ∈ l, w * i + w ≤ 16384) →
    getEl (setEls v w (l.map fun i => (i, g i))) w e = if e ∈ l then g e % 2 ^ w else getEl v w e
  | [], v, _ => by simp [setEls]
  | i :: r, v, h => by
    have ih := getEl_setEls w hw g e r (setEl v w i (g i)) (fun j hj => h j (List.mem_cons_of_mem _ hj))
    simp only [setEls, List.map_cons, List.foldl_cons] at ih ⊢
    rw [ih, getEl_setEl _ _ _ _ _ hw (h i List.mem_cons_self)]
    by_cases h1 : e ∈ r
    · simp [h1]
    · by_cases h2 : e = i
      · subst h2; simp [h1]
      · simp [h1, h2]

theorem getEl_zero (w e : Nat) : getEl 0 w e = 0 := by simp [getEl]

theorem getEl_lt (v : VReg) (w e : Nat) : getEl v w e < 2 ^ w := Nat.mod_lt _ (Nat.two_pow_pos w)

/-! Running elements (R328). -/

theorem runEls_fold (m : Mask) (f : Nat → Nat × Flags × Bool) : ∀ (l : List Nat) (o : VOut),
    l.foldl (fun o e =>
      if m.getLsbD e then
        let (x, fl, sat) := f e
        ⟨o.els ++ [(e, x)], o.flags ||| fl, if sat then o.sat ||| ((1 : Mask) <<< e) else o.sat⟩
      else o) o =
    ⟨o.els ++ (l.filter fun e => m.getLsbD e).map fun e => (e, (f e).1),
      (l.filter fun e => m.getLsbD e).foldl (fun fl e => fl ||| (f e).2.1) o.flags,
      (l.filter fun e => m.getLsbD e).foldl (fun s e => if (f e).2.2 then s ||| ((1 : Mask) <<< e) else s) o.sat⟩
  | [], o => by simp
  | e :: r, o => by
    rw [List.foldl_cons]
    by_cases h : m.getLsbD e = true
    · rw [if_pos h, runEls_fold m f r, List.filter_cons_of_pos h]; simp
    · rw [if_neg h, runEls_fold m f r, List.filter_cons_of_neg h]

/-- The active elements of a range: their results, the flags they set together, the elements that saturated. -/
theorem runEls_eq (m : Mask) (lo hi : Nat) (f : Nat → Nat × Flags × Bool) :
    runEls m lo hi f =
    ⟨((List.range' lo (hi - lo)).filter fun e => m.getLsbD e).map fun e => (e, (f e).1),
      ((List.range' lo (hi - lo)).filter fun e => m.getLsbD e).foldl (fun fl e => fl ||| (f e).2.1) 0,
      ((List.range' lo (hi - lo)).filter fun e => m.getLsbD e).foldl (fun s e => if (f e).2.2 then s ||| ((1 : Mask) <<< e) else s) 0⟩ := by
  rw [runEls, runEls_fold]; simp

/-! The frames. -/

theorem State.vEachRun_bad {s : State} (cl : Bool) (d : Dst) (pop : Option (BitVec 2)) (k : BitVec 4) (rounds : Bool)
    (run : State → Mask → Nat → Nat → VOut) : s.vEachRun false cl d pop k rounds run = .trap s 1 0 := rfl

theorem State.vEachRun_drop {s : State} (cl : Bool) (d : Dst) (pop : Option (BitVec 2)) (k : BitVec 4) (rounds : Bool)
    (run : State → Mask → Nat → Nat → VOut) (hm : s.effMask k = 0) : s.vEachRun true cl d pop k rounds run = s.vDrop (some d) pop rounds := by
  simp [vEachRun, hm]

/-- An element-wise instruction whose operands are there runs to its end when nothing stops it. -/
theorem State.vEachRun_done {s : State} (cl : Bool) (d : Dst) (pop : Option (BitVec 2)) (k : BitVec 4) (rounds : Bool)
    (run : State → Mask → Nat → Nat → VOut) (hm : s.effMask k ≠ 0) (hs : s.srcWait pop = none) (hd : s.dstWait d = none)
    (hg : s.egStop = none) : s.vEachRun true cl d pop k rounds run =
    let o := run s (s.effMask k) s.hr.es.toNat s.vlen
    let t := ((s.writeDst d s.vw o.els none).writeCopy d s.vw o.els).addFlags o.flags
    .done (((t.markSat cl o.sat).popSrc pop).vDone rounds) := by
  simp only [vEachRun, Bool.not_true, Bool.false_eq_true, if_false, hm, hs, hd, stopAt, hg]

theorem State.vEach_bad {s : State} (d : Dst) (pop : Option (BitVec 2)) (k : BitVec 4) (rounds : Bool)
    (f : State → Nat → Nat × Flags × Bool) : s.vEach false d pop k rounds f = .trap s 1 0 := rfl

theorem State.vEach_drop {s : State} (d : Dst) (pop : Option (BitVec 2)) (k : BitVec 4) (rounds : Bool)
    (f : State → Nat → Nat × Flags × Bool) (hm : s.effMask k = 0) : s.vEach true d pop k rounds f = s.vDrop (some d) pop rounds :=
  vEachRun_drop false d pop k rounds _ hm

theorem State.vEach_done {s : State} (d : Dst) (pop : Option (BitVec 2)) (k : BitVec 4) (rounds : Bool)
    (f : State → Nat → Nat × Flags × Bool) (hm : s.effMask k ≠ 0) (hs : s.srcWait pop = none) (hd : s.dstWait d = none)
    (hg : s.egStop = none) : s.vEach true d pop k rounds f =
    let o := runEls (s.effMask k) s.hr.es.toNat s.vlen (f s)
    let t := ((s.writeDst d s.vw o.els none).writeCopy d s.vw o.els).addFlags o.flags
    .done ((t.popSrc pop).vDone rounds) := vEachRun_done false d pop k rounds _ hm hs hd hg

theorem State.vWhole_done {s : State} (d : Dst) (pop : Option (BitVec 2)) (k : BitVec 4) (rounds : Bool)
    (f : State → Mask → List (Nat × Nat) × Flags) (hm : s.effMask k ≠ 0) (hs : s.srcWait pop = none) (hd : s.dstWait d = none) :
    s.vWhole true d pop k rounds f =
    let o := f s (s.effMask k)
    .done (((((s.writeDst d s.vw o.1 none).writeCopy d s.vw o.1).addFlags o.2).popSrc pop).vDone rounds) := by
  simp only [vWhole, Bool.not_true, Bool.false_eq_true, if_false, hm, hs, hd]

theorem State.vToScalar_done {s : State} (pop : Option (BitVec 2)) (k : BitVec 4) (f : State → Mask → State) (hc : s.pflCe = false)
    (hm : s.effMask k ≠ 0) (hs : s.srcWait pop = none) :
    s.vToScalar true pop k f = .done (((f s (s.effMask k)).popSrc pop).vDone false) := by
  simp only [vToScalar, Bool.not_true, Bool.false_eq_true, if_false, hm, hs, hc]

/-- Without a prefix nothing is copied. -/
theorem State.writeCopy_plain {s : State} (d : Dst) (w : Nat) (l : List (Nat × Nat)) (h : s.pflCe = false) : s.writeCopy d w l = s := by
  simp [writeCopy, h]

end Sys2Proof.Machine
end

