-- ==== Sys2Proof/Laws/Bytes.lean ====
section
/-! SUPPORT. The shared operations that store nothing leave every byte as it was: `mem`, and `dram` beside it. -/

namespace Sys2Proof.Machine

@[simp] theorem Res.state_done (s : State) : (Res.done s).state = s := rfl
@[simp] theorem Res.state_trap (s : State) (c : Nat) (e : Word) : (Res.trap s c e).state = s := rfl
@[simp] theorem Res.state_wait (s : State) (w : Wait) : (Res.wait s w).state = s := rfl

@[simp] theorem State.health_bytes (s : State) : s.health.mem = s.mem ∧ s.health.dram = s.dram := ⟨rfl, rfl⟩
@[simp] theorem State.dropPrefix_bytes (s : State) : s.dropPrefix.mem = s.mem ∧ s.dropPrefix.dram = s.dram := ⟨rfl, rfl⟩
@[simp] theorem State.endBraids_bytes (s : State) (of : Braid → Bool) :
    (s.endBraids of).mem = s.mem ∧ (s.endBraids of).dram = s.dram := ⟨rfl, rfl⟩
@[simp] theorem State.failTask_bytes (s : State) (t c : Nat) : (s.failTask t c).mem = s.mem ∧ (s.failTask t c).dram = s.dram := by
  unfold failTask; split <;> simp
@[simp] theorem State.gangLeft_bytes (s : State) (t : Nat) : (s.gangLeft t).mem = s.mem ∧ (s.gangLeft t).dram = s.dram := by
  unfold gangLeft; split <;> simp
@[simp] theorem State.retireBraid_bytes (s : State) : s.retireBraid.mem = s.mem ∧ s.retireBraid.dram = s.dram := by simp [retireBraid]
@[simp] theorem State.enter_bytes (s : State) (h : Hart) (c : Nat) (a e : Word) :
    (s.enter h c a e).mem = s.mem ∧ (s.enter h c a e).dram = s.dram := by unfold enter; split <;> simp

@[simp] theorem State.raise_bytes (s : State) (h : Hart) (c : Nat) (a e : Word) :
    (s.raise h c a e).mem = s.mem ∧ (s.raise h c a e).dram = s.dram := by unfold raise; split <;> simp

/-- Whatever a result comes to, its bytes are those of the state it was reached in. -/
@[simp] theorem Res.after_bytes (r : Res) : r.after.mem = r.state.mem ∧ r.after.dram = r.state.dram := by
  cases r <;> simp [Res.after]

@[simp] theorem State.endIdle_bytes (s : State) (h : Hart) : (s.endIdle h).mem = s.mem ∧ (s.endIdle h).dram = s.dram := by
  unfold endIdle; split <;> simp
@[simp] theorem State.endWaits_bytes (s : State) (n : Nat) : (s.endWaits n).mem = s.mem ∧ (s.endWaits n).dram = s.dram := by
  unfold endWaits; split
  · simp
  · simp only []; split <;> simp
@[simp] theorem State.takeInterrupt_bytes (s : State) : s.takeInterrupt.mem = s.mem ∧ s.takeInterrupt.dram = s.dram := by
  unfold takeInterrupt; split <;> simp
@[simp] theorem State.leaveHandler_bytes (s : State) : s.leaveHandler.mem = s.mem ∧ s.leaveHandler.dram = s.dram := by simp [leaveHandler]
@[simp] theorem State.enterLanding_bytes (s : State) (n : Nat) : (s.enterLanding n).mem = s.mem ∧ (s.enterLanding n).dram = s.dram := ⟨rfl, rfl⟩
@[simp] theorem State.setStream_bytes (s : State) (n : BitVec 3) (t : Stream) :
    (s.setStream n t).mem = s.mem ∧ (s.setStream n t).dram = s.dram := ⟨rfl, rfl⟩
@[simp] theorem State.setLq_bytes (s : State) (q : BitVec 2) (l : List Entry) : (s.setLq q l).mem = s.mem ∧ (s.setLq q l).dram = s.dram := ⟨rfl, rfl⟩
@[simp] theorem State.setSq_bytes (s : State) (q : BitVec 2) (l : List Entry) : (s.setSq q l).mem = s.mem ∧ (s.setSq q l).dram = s.dram := ⟨rfl, rfl⟩
@[simp] theorem State.popLq_bytes (s : State) (q : BitVec 2) : (s.popLq q).mem = s.mem ∧ (s.popLq q).dram = s.dram := ⟨rfl, rfl⟩
@[simp] theorem State.popSq_bytes (s : State) (q : BitVec 2) : (s.popSq q).mem = s.mem ∧ (s.popSq q).dram = s.dram := ⟨rfl, rfl⟩
@[simp] theorem State.pushLq_bytes (s : State) (q : BitVec 2) (e : Entry) : (s.pushLq q e).mem = s.mem ∧ (s.pushLq q e).dram = s.dram := ⟨rfl, rfl⟩
@[simp] theorem State.pushSq_bytes (s : State) (q : BitVec 2) (e : Entry) : (s.pushSq q e).mem = s.mem ∧ (s.pushSq q e).dram = s.dram := ⟨rfl, rfl⟩

/-! The fabric's sender and replica sets. -/

@[simp] theorem State.mapCstat_bytes (s : State) (f : BitVec 16 → BitVec 16) : (s.mapCstat f).mem = s.mem ∧ (s.mapCstat f).dram = s.dram := ⟨rfl, rfl⟩
@[simp] theorem State.senderErr_bytes (s : State) (b : Bool) : (s.senderErr b).mem = s.mem ∧ (s.senderErr b).dram = s.dram := by
  unfold senderErr; split <;> simp
@[simp] theorem State.remoteRead_bytes (s : State) (n : Nat) : (s.remoteRead n).1.mem = s.mem ∧ (s.remoteRead n).1.dram = s.dram := ⟨rfl, rfl⟩
@[simp] theorem State.mapSet_bytes (s : State) (r : RSet) (f : RSet → RSet) : (s.mapSet r f).mem = s.mem ∧ (s.mapSet r f).dram = s.dram := ⟨rfl, rfl⟩
@[simp] theorem State.tookFwd_bytes (s : State) : s.tookFwd.mem = s.mem ∧ s.tookFwd.dram = s.dram := by unfold tookFwd; split <;> simp
@[simp] theorem State.logValue_bytes (s : State) (r : RSet) (v : Nat) : (s.logValue r v).mem = s.mem ∧ (s.logValue r v).dram = s.dram := ⟨rfl, rfl⟩
@[simp] theorem Res.replay_bytes (r : Res) (s : State) : (r.replay s).state.mem = r.state.mem ∧ (r.replay s).state.dram = r.state.dram := by
  cases r <;> simp [Res.replay]
@[simp] theorem State.leaveSet_bytes (s : State) (r : RSet) (id : Nat) : (s.leaveSet r id).mem = s.mem ∧ (s.leaveSet r id).dram = s.dram := by
  unfold leaveSet; simp only []; split <;> simp

/-! Translation: nothing but the translations changes, whatever answers. -/

theorem State.tlbFind_tlb {s : State} {x : Xlate} {va : Nat} : ∀ r, s.tlbFind x va = some r → { r.2 with tlb := s.tlb } = s := by
  intro r h
  unfold tlbFind at h
  repeat' split at h
  all_goals first | (obtain ⟨t, -, rfl⟩ := Option.map_eq_some_iff.mp h; rfl) | (cases h; rfl)
theorem State.tlbFill_tlb (s : State) (x : Xlate) (t : TlbEntry) : { s.tlbFill x t with tlb := s.tlb } = s := by
  unfold tlbFill; split <;> rfl
theorem State.translate_tlb {s : State} {x : Xlate} {va : Nat} {k : Kind} : ∀ r, s.translate x va k = .ok r → { r.2 with tlb := s.tlb } = s := by
  intro r h
  unfold translate at h
  split at h
  · rename_i e
    have := tlbFind_tlb _ e
    repeat' split at h
    all_goals first | (cases h; exact this) | cases h
  · repeat' split at h
    all_goals first | (cases h; exact tlbFill_tlb _ _ _) | cases h
theorem State.check_tlb {s : State} {x : Xlate} {t va n : Nat} {k : Kind} {own : Bool} :
    ∀ r, s.check x t va n k own = .ok r → { r.2 with tlb := s.tlb } = s := by
  intro r h
  unfold check at h
  split at h
  · cases h
  · rename_i e
    have := translate_tlb _ e
    repeat' split at h
    all_goals first | (cases h; exact this) | cases h
theorem State.access_tlb {s : State} {x : Xlate} {t va n : Nat} {k : Kind} {own : Bool} :
    ∀ r, s.access x t va n k own = .ok r → { r.2 with tlb := s.tlb } = s := by
  intro r h
  unfold access at h
  split at h
  · cases h
  · rename_i e
    have := check_tlb _ e
    split at h <;> cases h
    exact this

/-! Vector operands. -/

@[simp] theorem State.setK_bytes (s : State) (k : BitVec 4) (m : Mask) : (s.setK k m).mem = s.mem ∧ (s.setK k m).dram = s.dram := ⟨rfl, rfl⟩
@[simp] theorem State.markK_bytes (s : State) (k : BitVec 4) (m : Mask) : (s.markK k m).mem = s.mem ∧ (s.markK k m).dram = s.dram := by
  unfold markK; split <;> simp
@[simp] theorem State.writeV_bytes (s : State) (r : Reg) (w : Nat) (l : List (Nat × Nat)) :
    (s.writeV r w l).mem = s.mem ∧ (s.writeV r w l).dram = s.dram := by unfold writeV; split <;> simp
@[simp] theorem State.popSrc_bytes (s : State) (p : Option (BitVec 2)) : (s.popSrc p).mem = s.mem ∧ (s.popSrc p).dram = s.dram := by
  unfold popSrc; split <;> simp
@[simp] theorem State.writeDst_bytes (s : State) (d : Dst) (w : Nat) (l : List (Nat × Nat)) (p : Option Nat) :
    (s.writeDst d w l p).mem = s.mem ∧ (s.writeDst d w l p).dram = s.dram := by
  unfold writeDst; repeat' split
  all_goals simp
@[simp] theorem State.writeCopy_bytes (s : State) (d : Dst) (w : Nat) (l : List (Nat × Nat)) :
    (s.writeCopy d w l).mem = s.mem ∧ (s.writeCopy d w l).dram = s.dram := by
  unfold writeCopy; repeat' split
  all_goals simp
@[simp] theorem State.vDone_bytes (s : State) (r : Bool) : (s.vDone r).mem = s.mem ∧ (s.vDone r).dram = s.dram := by simp [vDone]
@[simp] theorem State.vDrop_bytes (s : State) (d : Option Dst) (p : Option (BitVec 2)) (r : Bool) :
    (s.vDrop d p r).state.mem = s.mem ∧ (s.vDrop d p r).state.dram = s.dram := by
  unfold vDrop; split
  · simp
  · simp
  · simp only [Res.state_done]; split <;> simp
@[simp] theorem State.keepSat_bytes (s : State) (c : Bool) (m : Mask) : (s.keepSat c m).mem = s.mem ∧ (s.keepSat c m).dram = s.dram := by
  cases c <;> exact ⟨rfl, rfl⟩
@[simp] theorem State.markSat_bytes (s : State) (c : Bool) (m : Mask) : (s.markSat c m).mem = s.mem ∧ (s.markSat c m).dram = s.dram := by
  cases c <;> simp [markSat]
@[simp] theorem State.vEachRun_bytes (s : State) (ok cl : Bool) (d : Dst) (p : Option (BitVec 2)) (k : BitVec 4) (r : Bool)
    (run : State → Mask → Nat → Nat → VOut) : (s.vEachRun ok cl d p k r run).state.mem = s.mem ∧ (s.vEachRun ok cl d p k r run).state.dram = s.dram := by
  unfold vEachRun; simp only []; repeat' split
  all_goals simp
@[simp] theorem State.vEach_bytes (s : State) (ok : Bool) (d : Dst) (p : Option (BitVec 2)) (k : BitVec 4) (r : Bool)
    (f : State → Nat → Nat × Flags × Bool) : (s.vEach ok d p k r f).state.mem = s.mem ∧ (s.vEach ok d p k r f).state.dram = s.dram :=
  vEachRun_bytes s ok false d p k r _
@[simp] theorem State.vWhole_bytes (s : State) (ok : Bool) (d : Dst) (p : Option (BitVec 2)) (k : BitVec 4) (r : Bool)
    (f : State → Mask → List (Nat × Nat) × Flags) : (s.vWhole ok d p k r f).state.mem = s.mem ∧ (s.vWhole ok d p k r f).state.dram = s.dram := by
  unfold vWhole; simp only []; repeat' split
  all_goals simp

/-! Events at a hart's boundary. -/

@[simp] theorem State.takeStreamFault_bytes (s : State) (e : FaultRec) :
    (s.takeStreamFault e).mem = s.mem ∧ (s.takeStreamFault e).dram = s.dram := by
  unfold takeStreamFault; simp only []; repeat' split
  all_goals simp

@[simp] theorem State.takeTrap_bytes (s : State) (h : Hart) : (s.takeTrap h).mem = s.mem ∧ (s.takeTrap h).dram = s.dram := by
  unfold takeTrap; simp only []; repeat' split
  all_goals simp
@[simp] theorem State.capped_bytes (s : State) : s.capped.mem = s.mem ∧ s.capped.dram = s.dram := by
  unfold capped; repeat' split
  all_goals simp
@[simp] theorem State.standHere_bytes (s : State) : s.standHere.mem = s.mem ∧ s.standHere.dram = s.dram := by
  unfold standHere; split <;> simp
@[simp] theorem State.waitsOn_bytes (s : State) : s.waitsOn.mem = s.mem ∧ s.waitsOn.dram = s.dram := by
  unfold waitsOn; repeat' split
  all_goals simp
@[simp] theorem State.patchSet_bytes (s : State) (r : RSet) (a b c : Nat) : (s.patchSet r a b c).mem = s.mem ∧ (s.patchSet r a b c).dram = s.dram := by
  simp [patchSet]

end Sys2Proof.Machine
end

