-- ==== Sys2Proof/Laws/Memory.lean ====
section
/-! SUPPORT. Memory as a canonical list of bytes: what a read gives after a write, and that every operation keeps the form. -/

namespace Sys2Proof.Machine

/-! The canonical form. -/

theorem Memory.wfFrom_mono {lo lo' : Nat} (h : lo' ≤ lo) : ∀ {m : Memory}, Memory.wfFrom lo m = true → Memory.wfFrom lo' m = true
  | [], _ => rfl
  | (k, v) :: r, hw => by
    simp only [wfFrom, Bool.and_eq_true, decide_eq_true_eq] at hw ⊢
    exact ⟨⟨by omega, hw.1.2⟩, hw.2⟩

theorem Memory.wfFrom_set {lo : Nat} (a : Nat) (b : Byte) (h : lo ≤ a) :
    ∀ {m : Memory}, Memory.wfFrom lo m = true → Memory.wfFrom lo (m.set a b) = true
  | [], _ => by
    unfold set
    split
    · rfl
    · simp_all [wfFrom]
  | (k, v) :: r, hw => by
    have ih := fun hk : k + 1 ≤ a => Memory.wfFrom_set a b hk (m := r) (by simp_all [wfFrom])
    simp only [wfFrom, Bool.and_eq_true, decide_eq_true_eq] at hw
    obtain ⟨⟨hlo, hv⟩, hr⟩ := hw
    unfold set
    split
    · simp only [wfFrom, Bool.and_eq_true, decide_eq_true_eq]
      exact ⟨⟨hlo, hv⟩, ih (by omega)⟩
    · split
      · subst_vars
        split
        · exact wfFrom_mono (by omega) hr
        · simp_all [wfFrom]
      · split
        · simp_all [wfFrom]
        · simp only [wfFrom, Bool.and_eq_true, decide_eq_true_eq]
          exact ⟨⟨h, by simp_all⟩, ⟨by omega, hv⟩, hr⟩

/-- A byte written keeps the canonical form. -/
theorem Memory.wf_set {m : Memory} (a : Nat) (b : Byte) (h : m.wf = true) : (m.set a b).wf = true :=
  Memory.wfFrom_set a b (Nat.zero_le a) h

/-- Bytes written keep the canonical form. -/
theorem Memory.wf_write {m : Memory} (key n v : Nat) (h : m.wf = true) : (m.write key n v).wf = true := by
  induction n generalizing m key v with
  | zero => exact h
  | succ n ih => exact ih _ _ (wf_set _ _ h)

/-- Taking bytes out of the list keeps the canonical form. -/
theorem Memory.wfFrom_filter (p : Host.Cell → Bool) : ∀ {m : Memory} {lo : Nat}, Memory.wfFrom lo m = true →
    Memory.wfFrom lo (m.filter p) = true
  | [], _, _ => rfl
  | (k, v) :: r, lo, hw => by
    simp only [wfFrom, Bool.and_eq_true, decide_eq_true_eq] at hw
    have ih := Memory.wfFrom_filter p hw.2
    by_cases hp : p (k, v) = true
    · rw [List.filter_cons_of_pos hp]
      simp only [wfFrom, Bool.and_eq_true, decide_eq_true_eq]
      exact ⟨hw.1, ih⟩
    · rw [List.filter_cons_of_neg hp]
      exact wfFrom_mono (by omega) ih

theorem Memory.wf_filter {m : Memory} (p : Host.Cell → Bool) (h : m.wf = true) : Memory.wf (m.filter p) = true :=
  Memory.wfFrom_filter p h

/-! Reads after writes. -/

theorem Memory.get_below {lo a : Nat} (ha : a < lo) : ∀ {m : Memory}, Memory.wfFrom lo m = true → m.get a = 0
  | [], _ => rfl
  | (k, v) :: r, hw => by
    simp only [wfFrom, Bool.and_eq_true, decide_eq_true_eq] at hw
    simp only [get]
    rw [if_neg (by omega), if_pos (by omega)]

theorem Memory.get_set_from {lo : Nat} (a : Nat) (b : Byte) (x : Nat) : ∀ {m : Memory}, Memory.wfFrom lo m = true →
    (m.set a b).get x = if x = a then b else m.get x
  | [], _ => by
    unfold set
    by_cases hx : x = a <;> split <;> simp_all [get]
    · omega
  | (k, v) :: r, hw => by
    simp only [wfFrom, Bool.and_eq_true, decide_eq_true_eq] at hw
    have ih := Memory.get_set_from a b x hw.2
    unfold set
    split
    · simp only [get, ih]
      by_cases hk : k = x
      · subst hk; rw [if_pos rfl, if_pos rfl, if_neg (by omega)]
      · simp only [if_neg hk]
        by_cases hx : x < k
        · rw [if_pos hx, if_pos hx, if_neg (by omega)]
        · rw [if_neg hx, if_neg hx]
    · split
      · rename_i h1 h2; subst h2
        split
        · rename_i hb; subst hb
          by_cases hx : x = k
          · subst hx; rw [if_pos rfl]; exact get_below (Nat.lt_succ_self _) hw.2
          · rw [if_neg hx]; simp only [get]; rw [if_neg (fun h => hx h.symm)]
            by_cases hlt : x < k
            · rw [if_pos hlt]; exact get_below (by omega) hw.2
            · rw [if_neg hlt]
        · by_cases hx : x = k
          · subst hx; simp [get]
          · have hx' : ¬k = x := fun h => hx h.symm
            simp only [get, if_neg hx, if_neg hx']
      · split
        · rename_i hb; subst hb
          by_cases hx : x = a
          · subst hx; rw [if_pos rfl]; simp only [get]; rw [if_neg (by omega), if_pos (by omega)]
          · rw [if_neg hx]
        · by_cases hx : x = a
          · subst hx; simp [get]
          · rw [if_neg hx]
            have : Memory.get ((a, b) :: (k, v) :: r) x = if x < a then 0 else Memory.get ((k, v) :: r) x := by
              rw [get, if_neg (fun h => hx h.symm)]
            rw [this]
            split
            · simp only [get]; rw [if_neg (by omega), if_pos (by omega)]
            · rfl

/-- The byte written is read back, and every other byte is as it was. -/
theorem Memory.get_set {m : Memory} (h : m.wf = true) (a : Nat) (b : Byte) (x : Nat) :
    (m.set a b).get x = if x = a then b else m.get x :=
  Memory.get_set_from a b x h

/-- A byte of a write: little-endian inside it, unchanged outside. -/
theorem Memory.get_write {m : Memory} (h : m.wf = true) (key n v x : Nat) :
    (m.write key n v).get x = if key ≤ x ∧ x < key + n then BitVec.ofNat 8 (v / 256 ^ (x - key)) else m.get x := by
  induction n generalizing m key v with
  | zero => simp only [write]; rw [if_neg (by omega)]
  | succ n ih =>
    simp only [write]
    rw [ih (wf_set _ _ h), get_set h]
    by_cases h1 : key + 1 ≤ x ∧ x < key + 1 + n
    · rw [if_pos h1, if_pos (by omega)]
      have : x - key = (x - (key + 1)) + 1 := by omega
      rw [this, Nat.pow_succ, Nat.mul_comm, Nat.div_div_eq_div_mul]
    · rw [if_neg h1]
      by_cases h2 : x = key
      · subst h2; rw [if_pos rfl, if_pos (by omega)]; simp
      · rw [if_neg h2, if_neg (by omega)]

/-- Bytes outside a write read as before. -/
theorem Memory.read_write_apart {m : Memory} (h : m.wf = true) (key n v key' n' : Nat) (ha : key' + n' ≤ key ∨ key + n ≤ key') :
    (m.write key n v).read key' n' = m.read key' n' := by
  induction n' generalizing key' with
  | zero => rfl
  | succ k ih =>
    simp only [read]
    rw [get_write h, if_neg (by omega), ih (key' + 1) (by omega)]

/-- The bytes written are read back. -/
theorem Memory.read_write_same {m : Memory} (h : m.wf = true) (key n v : Nat) :
    (m.write key n v).read key n = v % 256 ^ n := by
  induction n generalizing m key v with
  | zero => simp [read, Nat.mod_one]
  | succ n ih =>
    simp only [write, read]
    rw [ih (wf_set _ _ h), get_write (wf_set _ _ h), if_neg (by omega), get_set h, if_pos rfl, BitVec.toNat_ofNat,
      show (2 : Nat) ^ 8 = 256 from rfl, Nat.pow_succ, Nat.mul_comm (256 ^ n) 256]
    rw [Nat.mod_mul]

end Sys2Proof.Machine
end

