-- ==== Sys2Proof/Laws/Canonical.lean ====
section
/-! SUPPORT. Every shared operation keeps memory in its canonical form. -/

namespace Sys2Proof.Machine

/-- A result's state is canonical. -/
abbrev Res.Canonical (r : Res) : Prop := r.state.Canonical

/-! Bytes, lines, translations. -/

theorem State.canonical_writeMem {s : State} (h : s.Canonical) (key n v : Nat) : (s.writeMem key n v).Canonical := by
  refine ⟨Memory.wf_write _ _ _ h.1, ?_⟩
  show Memory.wf (if _ then _ else _) = true
  split
  · exact Memory.wf_write _ _ _ h.2
  · exact h.2

theorem State.canonical_tlbFind {s : State} (h : s.Canonical) (x : Xlate) (va : Nat) : ∀ r, s.tlbFind x va = some r → r.2.Canonical := by
  intro r hr
  unfold tlbFind at hr
  split at hr
  · obtain ⟨t, -, rfl⟩ := Option.map_eq_some_iff.mp hr; exact h
  · split at hr
    · cases hr; exact h
    · obtain ⟨t, -, rfl⟩ := Option.map_eq_some_iff.mp hr; exact h

theorem State.canonical_tlbFill {s : State} (h : s.Canonical) (x : Xlate) (t : TlbEntry) : (s.tlbFill x t).Canonical := by
  unfold tlbFill; split <;> exact h

theorem State.canonical_translate {s : State} (h : s.Canonical) (x : Xlate) (va : Nat) (k : Kind) :
    ∀ r, s.translate x va k = .ok r → r.2.Canonical := by
  intro r hr
  unfold translate at hr
  split at hr
  · rename_i e
    have := canonical_tlbFind h _ _ _ e
    repeat' split at hr
    all_goals first | (cases hr; exact this) | cases hr
  · repeat' split at hr
    all_goals first | (cases hr; exact canonical_tlbFill h _ _) | cases hr

theorem State.canonical_check {s : State} (h : s.Canonical) (x : Xlate) (t va size : Nat) (k : Kind) (own : Bool) :
    ∀ r, s.check x t va size k own = .ok r → r.2.Canonical := by
  intro r hr
  unfold check at hr
  split at hr
  · cases hr
  · rename_i e
    have := canonical_translate h _ _ _ _ e
    repeat' split at hr
    all_goals first | (cases hr; exact this) | cases hr

theorem State.canonical_access {s : State} (h : s.Canonical) (x : Xlate) (t va size : Nat) (k : Kind) (own : Bool) :
    ∀ r, s.access x t va size k own = .ok r → r.2.Canonical := by
  intro r hr
  unfold access at hr
  split at hr
  · cases hr
  · rename_i e
    have := canonical_check h _ _ _ _ _ _ _ e
    repeat' split at hr
    all_goals first | (cases hr; exact this) | cases hr

theorem State.canonical_health {s : State} (h : s.Canonical) : s.health.Canonical := h

/-- A fold of steps that each keep the form keeps it. -/
theorem canonical_foldl {α : Type} (f : State → α → State) (hf : ∀ s x, s.Canonical → (f s x).Canonical) (l : List α) :
    ∀ {s : State}, s.Canonical → (l.foldl f s).Canonical := by
  induction l with
  | nil => exact fun h => h
  | cons x r ih => exact fun h => ih (hf _ _ h)

/-- The same for a fold that carries something beside the state. -/
theorem canonical_foldl_fst {α β : Type} (f : State × β → α → State × β) (hf : ∀ p x, p.1.Canonical → (f p x).1.Canonical) (l : List α) :
    ∀ {p : State × β}, p.1.Canonical → (l.foldl f p).1.Canonical := by
  induction l with
  | nil => exact fun h => h
  | cons x r ih => exact fun h => ih (hf _ _ h)

theorem State.canonical_writeWord {s : State} (h : s.Canonical) (l : Line) (w : Nat) : (s.writeWord l w).Canonical := by
  unfold writeWord
  dsimp only
  repeat' split
  · exact h
  · exact canonical_writeMem h _ _ _
  · exact h
  · exact canonical_foldl _ (fun s i h => by split; exacts [canonical_writeMem h _ _ _, h]) _ h

theorem State.canonical_writeLine {s : State} (h : s.Canonical) (l : Line) : (s.writeLine l).Canonical :=
  canonical_foldl _ (fun _ w h => canonical_writeWord h l w) _ h

theorem State.canonical_putLine {s : State} (h : s.Canonical) (l : Line) : (s.putLine l).Canonical := by
  unfold putLine
  repeat' split
  all_goals first | exact h | exact canonical_writeLine h _

theorem State.canonical_cacheLoad {s : State} (h : s.Canonical) (key n : Nat) : ∀ r, s.cacheLoad key n = .ok r → r.2.Canonical := by
  intro r hr
  unfold cacheLoad at hr
  dsimp only at hr
  split at hr
  · cases hr
  · cases hr; exact canonical_putLine h _

theorem State.canonical_cacheStore {s : State} (h : s.Canonical) (key n v : Nat) : ∀ r, s.cacheStore key n v = .ok r → r.Canonical := by
  intro r hr
  unfold cacheStore at hr
  dsimp only at hr
  split at hr
  · cases hr
  · cases hr; exact canonical_putLine h _

theorem State.canonical_cacheWriteback {s : State} (h : s.Canonical) : s.cacheWriteback.Canonical :=
  canonical_foldl _ (fun _ l h => canonical_writeLine h l) _ h

theorem State.canonical_cacheFlush {s : State} (h : s.Canonical) : s.cacheFlush.Canonical :=
  canonical_foldl _ (fun _ l h => canonical_writeLine h l) _ h

theorem State.canonical_cacheEvict {s : State} (h : s.Canonical) (key : Nat) : (s.cacheEvict key).Canonical := by
  unfold cacheEvict
  split
  · exact h
  · exact canonical_writeLine h _

/-! Harts. -/

theorem State.Canonical.of_eq {s t : State} (h : s.Canonical) (hm : t.mem = s.mem) (hd : t.dram = s.dram) : t.Canonical :=
  ⟨hm ▸ h.1, hd ▸ h.2⟩

theorem Res.canonical_after {r : Res} (h : r.Canonical) : r.after.Canonical := h.of_eq (by simp) (by simp)

theorem State.canonical_issue {s : State} (h : s.Canonical) (who : Harts) (level : Level) (land vec : Bool) {k : State → Res}
    (hk : (k s).Canonical) : (s.issue who level land vec k).Canonical := by
  unfold issue
  repeat' split
  all_goals first | exact h | exact hk

/-! Focus. -/

theorem State.canonical_focus {s : State} (h : s.Canonical) (id : Nat) : ∀ t, s.focus id = some t → t.Canonical := by
  intro t ht
  unfold focus at ht
  repeat' split at ht
  all_goals first | (cases ht; exact h) | cases ht

theorem State.canonical_atBraid {s : State} (h : s.Canonical) (id : Nat) {f : State → State}
    (hf : ∀ t : State, t.Canonical → (f t).Canonical) : (s.atBraid id f).Canonical := by
  unfold atBraid
  split
  · exact h
  · rename_i t ht
    have h1 := hf _ (canonical_focus h _ _ ht)
    split
    · exact h1
    · rename_i u hu
      have := canonical_focus h1 _ _ hu
      exact this

/-! The fabric. -/

theorem State.canonical_homeWrite {s : State} (h : s.Canonical) (x : Xlate) (va n v : Nat) : (s.homeWrite x va n v).Canonical := by
  unfold homeWrite
  split
  · rename_i e; exact canonical_writeMem (canonical_check h _ _ _ _ _ _ _ e) _ _ _
  · exact h

theorem State.canonical_writeStatus {s : State} (h : s.Canonical) (c : Chunk) (st n : Nat) (o : Bool) :
    (s.writeStatus c st n o).Canonical :=
  canonical_homeWrite (canonical_foldl _ (fun _ _ h => canonical_homeWrite h _ _ _ _) _ h) _ _ _ _

theorem State.canonical_homeResult {s : State} (h : s.Canonical) (x : Xlate) (va n v : Nat) : (s.homeResult x va n v).Canonical := by
  unfold homeResult
  split
  · rename_i e; exact canonical_check h _ _ _ _ _ _ _ e
  · exact h

theorem State.canonical_landAll {s : State} (h : s.Canonical) : s.landAll.Canonical :=
  canonical_foldl _ (fun _ _ h => canonical_writeMem h _ _ _) _ h

theorem State.canonical_landOne {s : State} (h : s.Canonical) : s.landOne.Canonical := by
  unfold landOne; split; exacts [h, canonical_writeMem h _ _ _]

theorem State.canonical_completeChunk {s : State} (h : s.Canonical) (c : Chunk) : (s.completeChunk c).Canonical := by
  unfold completeChunk
  refine canonical_writeStatus (canonical_foldl_fst _ (fun p i h => ?_) _ h) _ _ _ _
  split
  · exact canonical_homeResult h _ _ _ _
  · exact h

theorem State.canonical_loseChunk {s : State} (h : s.Canonical) (c : Chunk) : (s.loseChunk c).Canonical := canonical_writeStatus h _ _ _ _

theorem State.canonical_settleChunk {s : State} (h : s.Canonical) (c : Chunk) : (s.settleChunk c).Canonical := by
  unfold settleChunk
  dsimp only
  split
  · exact canonical_completeChunk h _
  · exact h

theorem State.canonical_contributeIn {s : State} (h : s.Canonical) (room die : Nat) (e : FabElem) :
    ∀ t, s.contributeIn room die e = some t → t.Canonical := by
  intro t ht
  unfold contributeIn at ht
  simp only [] at ht
  split at ht
  · cases ht; exact h
  split at ht
  · cases ht; exact canonical_loseChunk h _
  split at ht
  · cases ht; exact canonical_settleChunk h _
  · cases ht

theorem State.canonical_performAtOwner {s : State} (h : s.Canonical) (x : Xlate) (t : Nat) (e : FabElem) :
    (s.performAtOwner x t e).1.Canonical := by
  unfold performAtOwner
  split
  · exact h
  · rename_i r
    have h1 := canonical_access h _ _ _ _ _ _ _ r
    split
    · exact canonical_writeMem (canonical_landAll h1) _ _ _
    · split
      · rename_i c; exact canonical_contributeIn h1 _ _ _ _ c
      · exact h

theorem State.canonical_storeAtOwner {s : State} (h : s.Canonical) (x : Xlate) (t : Nat) (e : FabElem) :
    (s.storeAtOwner x t e).1.Canonical := by
  unfold storeAtOwner; split; exacts [h, canonical_performAtOwner h _ _ _]

theorem State.canonical_loadAtOwner {s : State} (h : s.Canonical) (x : Xlate) (t va n : Nat) (l : List BufItem) :
    (s.loadAtOwner x t va n l).1.Canonical := by
  unfold loadAtOwner
  split
  · exact h
  · rename_i r
    have := canonical_check h _ _ _ _ _ _ _ r
    split <;> exact this

theorem State.canonical_fabricStore {s : State} (h : s.Canonical) (g : Group) (e : FabElem) :
    ∀ t, s.fabricStore g e = some t → t.Canonical := by
  intro t ht
  unfold fabricStore at ht
  simp only [] at ht
  have h1 := canonical_storeAtOwner h s.ownXlate s.b.task e
  split at ht
  · cases ht; exact h
  · split at ht
    · split at ht <;> rename_i q <;> rw [q] at h1 <;> cases ht
      · exact h1
      · exact h1
    · split at ht
      · cases ht; exact h
      · cases ht; exact h.of_eq (by simp) (by simp)

theorem State.canonical_remoteRead {s : State} (h : s.Canonical) (n : Nat) : (s.remoteRead n).1.Canonical := h

theorem State.canonical_fabricLoad {s : State} (h : s.Canonical) (g : Group) (va : Word) (n : Nat) : (s.fabricLoad g va n).1.Canonical := by
  unfold fabricLoad
  dsimp only
  have h' : (if s.isLost (g.owner s.b.ctx.ac.cstr.toNat va.toNat) then s.mapCstat (cstatLost (g.owner s.b.ctx.ac.cstr.toNat va.toNat)) else s).Canonical := by
    split <;> exact h
  revert h'
  generalize (if s.isLost (g.owner s.b.ctx.ac.cstr.toNat va.toNat) then _ else s : State) = t
  intro h'
  split
  · have h2 := canonical_loadAtOwner h' t.ownXlate t.b.task va.toNat n (t.b.buf ++ t.b.out)
    revert h2
    generalize t.loadAtOwner t.ownXlate t.b.task va.toNat n (t.b.buf ++ t.b.out) = q
    exact fun h2 => h2.of_eq (by simp) (by simp)
  · have h2 := canonical_remoteRead h' n
    revert h2
    generalize t.remoteRead n = q
    exact fun h2 => h2.of_eq (by simp) (by simp)

/-! Releases and replica sets. -/

theorem State.canonical_performAll {s : State} (h : s.Canonical) (l : List BufItem) : (s.performAll l).Canonical :=
  canonical_foldl _ (fun _ _ h => canonical_writeMem h _ _ _) _ h
theorem State.canonical_performOf {s : State} (h : s.Canonical) (id : Nat) (of : BufItem → Bool) : (s.performOf id of).Canonical := by
  unfold performOf
  split
  · exact h
  · exact canonical_performAll h _
theorem State.canonical_drainOut {s : State} (h : s.Canonical) : s.drainOut.Canonical := by
  unfold drainOut; split; exacts [h, canonical_performAll h _]
theorem State.canonical_settleOut {s : State} (h : s.Canonical) (of : BufItem → Bool) : (s.settleOut of).Canonical := by
  unfold settleOut; dsimp only; split; exacts [h, (canonical_performAll h (prefixTo of s.b.out).1).of_eq (by simp) (by simp)]
theorem State.canonical_settleLine {s : State} (h : s.Canonical) (key : Nat) : (s.settleLine key).Canonical := canonical_settleOut h _
theorem State.canonical_settleBytes {s : State} (h : s.Canonical) (key n : Nat) : (s.settleBytes key n).Canonical := canonical_settleOut h _
theorem State.canonical_orderOut {s : State} (h : s.Canonical) (n : Nat) : (s.orderOut n).Canonical := by
  unfold orderOut; repeat' split
  all_goals first | exact h | exact canonical_drainOut h
theorem State.canonical_observe {s : State} (h : s.Canonical) (n : Nat) : (s.observe n).Canonical :=
  canonical_foldl _ (fun _ _ h => by split; exacts [h, canonical_performOf h _ _]) _ h

theorem State.canonical_release {s : State} (h : s.Canonical) (n : Nat) : (s.release n).Canonical := by
  unfold release; split
  · refine canonical_orderOut ?_ _
    split; exacts [canonical_cacheWriteback h, h]
  · exact h
theorem State.canonical_acquire {s : State} (h : s.Canonical) (n : Nat) : (s.acquire n).Canonical := by
  unfold acquire; split; exacts [canonical_cacheFlush (canonical_observe h _), h]

theorem State.canonical_commit {s : State} (h : s.Canonical) (i : BufItem) : (s.commit i).Canonical := by
  unfold commit
  dsimp only
  split
  · exact h
  split
  · exact canonical_writeMem h _ _ _
  split
  · exact h
  split
  · exact canonical_writeMem (canonical_drainOut (s := { s with ticket := s.ticket + 1 }) h) _ _ _
  · exact canonical_writeMem (canonical_drainOut h) _ _ _

theorem State.canonical_onceWhen {s : State} (h : s.Canonical) (ready : State → Option Wait) {op : State → State × Nat}
    {k : State → Nat → Res} (ho : (op s).1.Canonical) (hk : ∀ t x, t.Canonical → (k t x).Canonical) : (s.onceWhen ready op k).Canonical := by
  unfold onceWhen
  dsimp only
  split
  · split
    · exact h
    · exact hk _ _ ho
  · split
    · exact hk _ _ (h.of_eq (by simp) (by simp))
    · split
      · split
        · exact h
        · exact hk _ _ (State.Canonical.of_eq ho (by simp) (by simp))
      · exact h

theorem State.canonical_decided {s : State} (h : s.Canonical) (ready : State → Option Wait) (v : State → Nat) {k : State → Nat → Res}
    (hk : ∀ t x, t.Canonical → (k t x).Canonical) : (s.decided ready v k).Canonical := canonical_onceWhen h ready h hk

theorem State.canonical_forward {s : State} (h : s.Canonical) (v : State → Nat) {k : State → Nat → Res}
    (hk : ∀ t x, t.Canonical → (k t x).Canonical) : (s.forward v k).Canonical := canonical_decided h _ _ hk

theorem State.canonical_once {s : State} (h : s.Canonical) {op : State → State × Nat} {k : State → Nat → Res}
    (ho : (op s).1.Canonical) (hk : ∀ t x, t.Canonical → (k t x).Canonical) : (s.once op k).Canonical := canonical_onceWhen h _ ho hk

theorem Res.canonical_replay {r : Res} (h : r.Canonical) (s : State) : (r.replay s).Canonical := by cases r <;> exact h

theorem State.canonical_patchSet {s : State} (h : s.Canonical) (r : RSet) (a b c : Nat) : (s.patchSet r a b c).Canonical :=
  h.of_eq (by simp) (by simp)

theorem canonical_performItem {s : State} (h : s.Canonical) (r : RSet) (lead : Bool) (i : BufItem) :
    (performItem r lead s i).Canonical := by
  unfold performItem
  split
  · exact State.canonical_writeMem h _ _ _
  split
  · exact h
  split
  · split
    · rename_i g _
      dsimp only
      cases e : s.fabricStore g (s.elem g i.stride i.op i.ty i.va i.size i.data) with
      | none => exact h
      | some t =>
        have ht := State.canonical_fabricStore h _ _ _ e
        dsimp only
        split
        · exact State.canonical_patchSet ht _ _ _ _
        · exact ht
    · exact h
  · refine State.canonical_patchSet (State.canonical_writeMem ?_ _ _ _) _ _ _ _
    split <;> exact h

theorem State.canonical_performItems {s : State} (h : s.Canonical) (r : RSet) (lead : Bool) (l : List BufItem) :
    (s.performItems r lead l).Canonical := by
  unfold performItems
  exact (canonical_foldl (performItem r lead) (fun _ _ h => canonical_performItem h _ _ _) l h).of_eq (by simp) (by simp)

theorem canonical_performBuffer {s : State} (h : s.Canonical) (r : RSet) (b : Braid) : (performBuffer r s b).Canonical :=
  State.canonical_atBraid h _ fun _ h => State.canonical_performItems h _ _ _

theorem State.canonical_agree {s : State} (h : s.Canonical) (r : RSet) (a : Option Hart) : (s.agree r a).Canonical := by
  unfold agree
  split
  · exact h
  · exact canonical_foldl _ (fun _ _ h => canonical_performBuffer h _ _) _ h

theorem State.canonical_memberTrap {s : State} (h : s.Canonical) (id : Nat) (t : Hart) (c : Nat) (e : Word) :
    (s.memberTrap id t c e).Canonical := canonical_atBraid h _ fun _ h => h.of_eq (by simp) (by simp)

theorem State.canonical_disagree {s : State} (h : s.Canonical) (r : RSet) (t : Hart) (a x : Bool) : (s.disagree r t a x).Canonical := by
  unfold disagree
  dsimp only
  split
  · exact canonical_foldl (fun (s : State) (b : Braid) => s.memberTrap b.id t 12 _) (fun _ _ h => canonical_memberTrap h _ _ _ _) _ h
  · exact h

theorem State.canonical_leaveSet {s : State} (h : s.Canonical) (r : RSet) (id : Nat) : (s.leaveSet r id).Canonical :=
  h.of_eq (by simp) (by simp)

theorem State.canonical_signAll {s : State} (h : s.Canonical) (r : RSet) (a : Option Hart) : (s.signAll r a).Canonical := by
  unfold signAll; split <;> exact h

theorem State.canonical_compare {s : State} (h : s.Canonical) (r : RSet) (t : Hart) (a : Option Hart) : (s.compare r t a).Canonical := by
  unfold compare
  have h := canonical_signAll h r a
  generalize s.signAll r a = u at h ⊢
  dsimp only
  split
  · exact h
  · split
    · exact canonical_agree h _ _
    · split
      · refine canonical_agree (?_ : State.Canonical _) _ _
        exact canonical_leaveSet (canonical_memberTrap h _ _ _ _) _ _
      · exact canonical_disagree h _ _ _ _

theorem State.canonical_forceRelease {s : State} (h : s.Canonical) (r : RSet) : (s.forceRelease r).Canonical := by
  unfold forceRelease; split; exacts [canonical_compare h _ _ _, h]

theorem State.canonical_setPoint {s : State} (h : s.Canonical) (rec : List Nat) {k : State → Res}
    (hk : ∀ t : State, t.Canonical → (k t).Canonical) : (s.setPoint rec k).Canonical := by
  unfold setPoint
  dsimp only
  split
  · exact hk _ h
  · split
    · have := hk (s.mapB fun b => b.setAgreed s.hart false) h
      split
      · exact h.of_eq (by simp) (by simp)
      · exact this
    · repeat' split
      all_goals first
        | exact h
        | exact canonical_compare (h.of_eq (by simp) (by simp)) _ _ _
        | exact h.of_eq (by simp) (by simp)

theorem State.canonical_releasePoint {s : State} (h : s.Canonical) (n : Nat) (rec : List Nat) {k : State → Res}
    (hk : ∀ t : State, t.Canonical → (k t).Canonical) : (s.releasePoint n rec k).Canonical := by
  unfold releasePoint
  split
  exacts [hk _ (canonical_release h _), canonical_setPoint h rec hk]

/-! The frame with a scalar or mask destination, and a hart's turn. -/

theorem State.canonical_vToScalar {s : State} (h : s.Canonical) (ok : Bool) (p : Option (BitVec 2)) (k : BitVec 4) {f : State → Mask → State}
    (hf : ∀ m, (f s m).Canonical) : (s.vToScalar ok p k f).Canonical := by
  unfold vToScalar
  dsimp only
  split
  · exact h
  split
  · exact h.of_eq (by simp) (by simp)
  split
  · exact h.of_eq (by simp) (by simp)
  split
  · exact h
  · exact State.Canonical.of_eq (hf (s.effMask k)) (by simp) (by simp)

theorem State.canonical_boundary {s : State} (h : s.Canonical) : ∀ t, s.boundary = some t → t.Canonical := by
  intro t ht
  unfold boundary at ht
  repeat' split at ht
  · cases ht; exact h.of_eq (by simp) (by simp)
  · cases ht; exact h.of_eq (by simp) (by simp)
  · cases hl : s.landingNow with
    | none => rw [hl] at ht; cases ht
    | some n => rw [hl] at ht; cases ht; exact h
  · cases ht

theorem State.canonical_fetch {s : State} (h : s.Canonical) : ∀ r, s.fetch = .ok r → r.2.Canonical := by
  intro r hr
  unfold fetch at hr
  repeat' split at hr
  · cases hr
  · cases hr
  · rename_i e; cases hr; exact canonical_access h _ _ _ _ _ _ _ e

/-- The state that a hart's turn reaches, or in which it executes an instruction. -/
def Attempt.at_ : Attempt → State
  | .state t => t
  | .run _ t => t

theorem State.canonical_stopHere {s : State} (h : s.Canonical) : s.stopHere.Canonical := by
  unfold stopHere; repeat' split
  all_goals first | exact h | exact canonical_forceRelease h _

theorem State.canonical_takeTraps {s : State} (h : s.Canonical) (r : RSet) (t : Hart) : (s.takeTraps r t).Canonical :=
  canonical_foldl (fun (u : State) (b : Braid) => u.atBraid b.id fun v => v.takeTrap t)
    (fun _ _ h => canonical_atBraid h _ fun _ h => h.of_eq (by simp) (by simp)) _ h

theorem State.canonical_trapTurn {s : State} (h : s.Canonical) : s.trapTurn.Canonical := by
  unfold trapTurn
  split
  · exact h.of_eq (by simp) (by simp)
  · rename_i r _
    dsimp only
    split
    · exact h
    have h2 : (s.mapB fun b => { b with atRel := some s.hart, relRec := [0] }).Canonical := h.of_eq (by simp) (by simp)
    revert h2
    generalize (s.mapB fun b => { b with atRel := some s.hart, relRec := [0] }) = u
    intro h2
    repeat' split
    all_goals first
      | exact h2
      | exact canonical_compare h2 _ _ _
      | exact canonical_takeTraps h2 _ _

theorem State.canonical_attempt {s : State} (h : s.Canonical) : s.attempt.at_.Canonical := by
  unfold attempt
  split
  · exact h
  split
  · exact canonical_trapTurn h
  split
  · exact canonical_stopHere h
  split
  · rename_i e; exact canonical_boundary h _ e
  split
  · exact h.of_eq (by simp [Attempt.at_]) (by simp [Attempt.at_])
  · rename_i e
    have := canonical_fetch h _ e
    split
    · exact State.Canonical.of_eq this (by simp [Attempt.at_]) (by simp [Attempt.at_])
    · exact State.Canonical.of_eq this (by simp [Attempt.at_]) (by simp [Attempt.at_])

end Sys2Proof.Machine
end

