-- ==== Sys2Proof/Laws/Progress.lean ====
section
/-! SUPPORT. Where an instruction leaves its hart, as plain record updates: the system handler's counter, the A-hart's own, the
X-hart's with its prefix spent; and how that goes together with writes of registers. -/

namespace Sys2Proof.Machine

theorem State.hart_cases (s : State) : (s.hart = .A ∧ s.sysMode = true) ∨ (s.hart = .A ∧ s.sysMode = false) ∨ s.hart = .X := by
  cases s.hart <;> cases s.sysMode <;> simp

theorem State.goTo_handler {s : State} (h : s.hart = .A) (hm : s.sysMode = true) (v : Word) :
    s.goTo v = { s with b := { s.b with pcH := v, waitA := none, retA := s.b.retA + 1 } } := by
  obtain ⟨b, hart, rest⟩ := s
  cases h
  simp only [State.goTo, State.setPc, State.setPcOf, hm, if_true]; rfl

theorem State.goTo_A {s : State} (h : s.hart = .A) (hm : s.sysMode = false) (v : Word) :
    s.goTo v = { s with b := { s.b with waitA := none, retA := s.b.retA + 1, ctx := { s.b.ctx with pcA := v } } } := by
  obtain ⟨b, hart, rest⟩ := s
  cases h
  simp only [State.goTo, State.setPc, State.setPcOf, hm, if_false, Bool.false_eq_true]; rfl

theorem State.goTo_X {s : State} (h : s.hart = .X) (v : Word) :
    s.goTo v = { s with b := { s.b with
      waitX := none
      retX := s.b.retX + 1
      ctx := { s.b.ctx with pcX := v, xc := { s.b.ctx.xc with pfl := s.b.ctx.xc.pfl &&& 0x7FF } } } } := by
  obtain ⟨b, hart, rest⟩ := s
  cases h
  rfl

theorem and_7FF_bit (p : BitVec 12) : (p &&& 0x7FF).getLsbD 11 = false := by simp

/-- A completed instruction spends the prefix (R64). -/
theorem State.prefixed_goTo (s : State) (v : Word) : (s.goTo v).prefixed = false := by
  rcases hart_cases s with ⟨h, hm⟩ | ⟨h, hm⟩ | h
  · rw [goTo_handler h hm]; simp [State.prefixed, h]
  · rw [goTo_A h hm]; simp [State.prefixed, h]
  · rw [goTo_X h]
    show (s.hart == .X && (s.b.ctx.xc.pfl &&& 0x7FF).getLsbD 11) = false
    rw [and_7FF_bit, Bool.and_false]

theorem State.count_goTo (s : State) (v : Word) : (s.goTo v).b.count s.hart = s.b.count s.hart + 1 := by
  rcases hart_cases s with ⟨h, hm⟩ | ⟨h, hm⟩ | h
  · rw [goTo_handler h hm, h]; rfl
  · rw [goTo_A h hm, h]; rfl
  · rw [goTo_X h, h]; rfl

@[simp] theorem wr_wr {α : Type} (v : Vector α 32) (r : Reg) (x y : α) : wr (wr v r x) r y = wr v r y := by simp [wr]

/-- The bank that a write of an A register reaches (R4, R112, R157). -/
theorem State.setA_main {s : State} {r : Reg} (hr : r ≠ 0) (h : r.toNat < 24 ∨ (s.sysMode = false ∧ s.b.ctx.inLand = false)) (v : Word) :
    s.setA r v = s.mapCtx fun c => { c with a := wr c.a r v } := by
  unfold State.setA
  rw [if_neg hr]
  rcases h with h | ⟨h1, h2⟩ <;> simp [*]
theorem State.setA_system {s : State} {r : Reg} (hr : 24 ≤ r.toNat) (h : s.sysMode = true) (v : Word) :
    s.setA r v = s.mapB fun b => { b with sysb := b.sysb.set (bankIx r).toNat v (bankIx r).isLt } := by
  have h0 : r ≠ 0 := by rintro rfl; simp at hr
  unfold State.setA
  rw [if_neg h0]
  simp [h, Nat.not_lt.mpr hr]
theorem State.setA_shadow {s : State} {r : Reg} (hr : 24 ≤ r.toNat) (h : s.sysMode = false) (hl : s.b.ctx.inLand = true) (v : Word) :
    s.setA r v = s.mapCtx fun c => { c with sh := c.sh.set (bankIx r).toNat v (bankIx r).isLt } := by
  have h0 : r ≠ 0 := by rintro rfl; simp at hr
  unfold State.setA
  rw [if_neg h0]
  simp [h, hl, Nat.not_lt.mpr hr]

theorem State.setA_setA (s : State) (r : Reg) (v w : Word) : (s.setA r v).setA r w = s.setA r w := by
  by_cases hr : r = 0
  · simp [State.setA, hr]
  by_cases h24 : r.toNat < 24
  · rw [setA_main hr (.inl h24), setA_main hr (.inl h24), setA_main hr (.inl h24)]
    simp [State.mapCtx]
  · have h24 : 24 ≤ r.toNat := by omega
    by_cases hm : s.sysMode = true
    · rw [setA_system h24 hm, setA_system h24 hm, setA_system h24 (by exact hm)]
      simp [State.mapB]
    · have hm : s.sysMode = false := by simpa using hm
      by_cases hl : s.b.ctx.inLand = true
      · rw [setA_shadow h24 hm hl, setA_shadow h24 hm hl, setA_shadow h24 (by exact hm) (by exact hl)]
        simp [State.mapCtx]
      · have hl : s.b.ctx.inLand = false := by simpa using hl
        rw [setA_main hr (.inr ⟨hm, hl⟩), setA_main hr (.inr ⟨hm, hl⟩), setA_main hr (.inr ⟨by exact hm, by exact hl⟩)]
        simp [State.mapCtx]

theorem State.setX_setX (s : State) (r : Reg) (v w : Word) : (s.setX r v).setX r w = s.setX r w := by
  by_cases hr : r = 0
  · simp [State.setX, hr]
  · simp only [State.setX, if_neg hr, State.mapCtx, wr_wr]

theorem State.setReg_setReg (s : State) (r : Reg) (v w : Word) : (s.setReg r v).setReg r w = s.setReg r w := by
  cases h : s.hart <;> simp [State.setReg, h, setA_setA, setX_setX]

theorem State.setA_goTo (s : State) (v w : Word) (r : Reg) (h : s.hart = .A) : (s.goTo v).setA r w = (s.setA r w).goTo v := by
  have hh : (s.setA r w).hart = .A := by simpa using h
  by_cases hm : s.sysMode = true
  · have hm' : (s.setA r w).sysMode = true := by simpa [State.sysMode] using hm
    rw [goTo_handler h hm, goTo_handler hh hm']
    unfold State.setA
    repeat' split
    all_goals first | rfl | (exfalso; simp_all [State.sysMode])
  · have hm : s.sysMode = false := by simpa using hm
    have hm' : (s.setA r w).sysMode = false := by simpa [State.sysMode] using hm
    rw [goTo_A h hm, goTo_A hh hm']
    unfold State.setA
    repeat' split
    all_goals first | rfl | (exfalso; simp_all [State.sysMode])

theorem State.setReg_goTo (s : State) (v w : Word) (r : Reg) : (s.goTo v).setReg r w = (s.setReg r w).goTo v := by
  cases h : s.hart
  · simp [State.setReg, h, setA_goTo]
  · have hh : (s.setX r w).hart = .X := by simpa using h
    have e1 : ∀ u : State, u.hart = .X → u.setReg r w = u.setX r w := fun u hu => by simp only [State.setReg, hu]
    rw [e1 _ (by simpa using h), e1 _ h, goTo_X h, goTo_X hh]
    by_cases hr : r = 0
    · simp [State.setX, hr]
    · rw [State.setX, State.setX, if_neg hr, if_neg hr]; rfl

end Sys2Proof.Machine
end

