-- ==== Sys2Proof/Laws/Traps.lean ====
section
/-! SUPPORT. Entry to the system handler as one record update (spec/09 R157, R162), and the fields of the status it leaves. -/

namespace Sys2Proof.Machine

/-- The context of a braid that stops hart `h` for a trap. -/
def Ctx.stopped (c : Ctx) (h : Hart) (epc eei : Word) : Ctx :=
  match h with
  | .A => { c with pcA := epc, ra := { c.ra with eei := eei } }
  | .X => { c with pcX := epc, rx := { c.rx with eei := eei } }

theorem State.enter_outside {s : State} (hm : s.sysMode = false) (h : Hart) (cause : Nat) (epc eei : Word) :
    s.enter h cause epc eei = { s with
      hart := .A
      b := { s.b with
        cause := BitVec.ofNat 8 cause
        epc := epc &&& addrMask
        status := statusAt s.b h
        level := .system
        pcH := s.b.tvec
        entryCtx := some (s.b.ctx.stopped h (epc &&& addrMask) eei)
        waitA := none
        waitX := none
        monitor := false
        memDone := 0
        memHeld := s.b.memDone
        atRel := none
        agreedA := false
        agHeld := s.b.agreedA
        ctx := s.b.ctx.stopped h (epc &&& addrMask) eei } } := by
  unfold State.enter
  rw [if_neg (by simp [hm])]
  cases h
  · simp only [State.setPcOf, hm, State.setHrOf, State.mapCtx, State.mapB, State.onHart, State.hrOf]; rfl
  · rfl

theorem statusAt_fields (b : Braid) (h : Hart) :
    (statusAt b h).extractLsb' 10 2 = (match b.level with | .user => 0 | .system => 1 | .firmware => 2) ∧
    (statusAt b h).getLsbD 9 = (h == .X) ∧ (statusAt b h).getLsbD 8 = b.ctx.inLand ∧ (statusAt b h).getLsbD 7 = false ∧
    (statusAt b h).getLsbD 6 = b.status.getLsbD 7 ∧ (statusAt b h).getLsbD 5 = true ∧ (statusAt b h).extractLsb' 0 5 = 0 := by
  unfold statusAt
  generalize b.ctx.inLand = i
  generalize b.status.getLsbD 7 = e
  generalize b.level = l
  cases h <;> cases i <;> cases e <;> cases l <;> decide

end Sys2Proof.Machine
end

