-- ==== Sys2Proof/Tests/Slice0.lean ====
section
/-! SUPPORT. Tests: what the field checks refuse, words of the spec, single steps with results from the spec, and for every statement
states that meet its hypotheses. -/

namespace Sys2Proof.Tests

open Sys2Proof Sys2Proof.Machine Sys2Proof.Claim

-- One proof after another: the checks by the kernel would else each hold a thread.
set_option Elab.async false

/-! Small states. -/

def task : Task where
  id := 1
  q := 0
  aentry := 0
  xentry := 0
  levels := [⟨10, 3, 2⟩]
  xsize := 8
  prio0 := 1
  boost := 0
  losses := 0
  inherit_ := false
  hostint := true
  check := false
  det := false
  reps := 1
  canon := 0
  ncores := 1
  cword := 0x8000
  domain := 1
  regions := []
  root := 0x10000
  asn := 0
  parent := none
  age := 0
  started := 0
  st := .running
  loops := .replicate 16 .init
  failed := none

/-- A braid on core 0 at user level, hart `h` to move at address 0x1000, and 1 GiB held at address 0 for its core and for the engines. -/
def small (h : Hart) : State :=
  { State.reset with
    modState := 1
    hart := h
    nextId := 5
    age := 5
    tasks := [task]
    tlb := [⟨.l1 0, 0, 0, 2 ^ 30, 0x5F⟩, ⟨.agents, 0, 0, 2 ^ 30, 0x5F⟩]
    b := { Braid.init with
      live := true
      id := 1
      task := 1
      ctx := { Ctx.init with pcA := 0x1000, pcX := 0x1000, xt := .replicate 8 .init } } }

def onB (f : Braid → Braid) (s : State) : State := { s with b := f s.b }
def onC (f : Ctx → Ctx) (s : State) : State := onB (fun b => { b with ctx := f b.ctx }) s
/-- Length and type of the executing hart. -/
def len (n : BitVec 12) (t : Reg) (s : State) : State := withHr s fun r => { r with vl := n, vt := t }
/-- The system handler runs on the A-hart. -/
def handler (s : State) : State := { onB (fun b => { b with level := .system, status := 0x020, pcH := 0x1000 }) s with hart := .A }
/-- The X-hart with four elements of a type. -/
def vecs (t : Reg) : State := len 4 t (small .X)
def entry (x : VReg) : Entry := ⟨x, false, none⟩

/-! Deciding the hypotheses of the statements. -/

def issuesB (who : Harts) (level : Level) (land vec : Bool) (s : State) : Bool :=
  who.allow s.hart && (s.hart != .A || !s.landing || land) && (!s.prefixed || vec) && decide (level.rank ≤ s.b.level.rank)

theorem issues_of {who level land vec s} (h : issuesB who level land vec s = true) : Issues who level land vec s := by
  simp only [issuesB, Bool.and_eq_true, Bool.or_eq_true, decide_eq_true_eq, bne_iff_ne, ne_eq, Bool.not_eq_true'] at h
  refine ⟨h.1.1.1, fun a b => ?_, fun a => ?_, h.2⟩
  · rcases h.1.1.2 with (c | c) | c
    · exact absurd a c
    · simp [b] at c
    · exact c
  · rcases h.1.2 with c | c
    · simp [a] at c
    · exact c

def headB (s : State) : Option (BitVec 2) → Bool
  | none => true
  | some q => match s.b.ctx.lq.get q.toFin with
    | e :: _ => e.part.isNone
    | [] => false

theorem head_of {s : State} {pop : Option (BitVec 2)} (h : headB s pop = true) :
    ∀ q, pop = some q → ∃ e l, s.b.ctx.lq.get q.toFin = e :: l ∧ e.part = none := by
  rintro q rfl
  simp only [headB] at h
  split at h
  · rename_i e l he
    exact ⟨e, l, he, by simpa using h⟩
  · cases h

def readyB (s : State) (d : Option Dst) (pop : Option (BitVec 2)) (k : BitVec 4) : Bool :=
  issuesB .onlyX .user false true s && decide (s.egStop = none) && (List.range 2048).any (active s k) && headB s pop &&
    match d with
    | some (.sq q) => decide (s.begun q ≠ none ∨ (s.b.ctx.sq.get q.toFin).length < 8)
    | _ => true

theorem ready {s d pop k} (h : readyB s d pop k = true) : VecReady s d pop k := by
  simp only [readyB, Bool.and_eq_true, decide_eq_true_eq] at h
  obtain ⟨⟨⟨⟨h1, h2⟩, h3⟩, h4⟩, h5⟩ := h
  refine ⟨issues_of h1, h2, ?_, head_of h4, ?_⟩
  · obtain ⟨e, -, he⟩ := List.any_eq_true.1 h3
    exact ⟨e, he⟩
  · rintro q rfl
    simpa using h5

/-- The access reaches `key`, and the state after its checks meets `p`. -/
def reachB (s : State) (va : Word) (n : Nat) (k : Kind) (key : Nat) (p : State → Bool) : Bool :=
  decide (va.toNat % n = 0 ∧ va.extractLsb' 57 7 = 0 ∧ key % n = 0) && match s.ownCheck va.toNat n k with
    | .ok (x, u) => x == key && p u
    | .error _ => false
theorem reach_of {s va n k key p} (h : reachB s va n k key p = true) : ∃ t, Reaches s va n k key t ∧ p t = true := by
  simp only [reachB, Bool.and_eq_true, decide_eq_true_eq] at h
  obtain ⟨⟨h1, h2, h3⟩, h4⟩ := h
  split at h4
  · rename_i x u he
    simp only [Bool.and_eq_true, beq_iff_eq] at h4
    exact ⟨u, ⟨h1, h2, by rw [he, h4.1], h3⟩, h4.2⟩
  · cases h4

def isErr (e : Except Nat (Nat × State)) (c : Nat) : Bool :=
  match e with
  | .ok _ => false
  | .error d => d == c

theorem err_of {e c} (h : isErr e c = true) : e = .error c := by
  unfold isErr at h
  split at h
  · cases h
  · rw [beq_iff_eq.1 h]

/-! Witnesses: states and operands that meet the hypotheses of each statement, clause by clause. -/

theorem witness_IssueChecksInOrder :
    (needs (.setmt 0) = some (.onlyA, .user, false, false) ∧ Harts.allow .onlyA (small .X).hart = false) ∧
    (needs .nop = some (.both, .user, false, false) ∧ Harts.allow .both (small .A).hart = true ∧
      (onC (fun c => { c with inLand := true }) (small .A)).landing = true) ∧
    (onC (fun c => { c with xc := { c.xc with pfl := 0x800 } }) (small .X)).prefixed = true ∧
    (needs .idle = some (.both, .system, false, false) ∧ (small .A).landing = false ∧ (small .A).prefixed = false ∧
      (small .A).b.level.rank < Level.rank .system) := by decide +kernel

theorem witness_ScalarResults : Issues .both .user true false (small .A) ∧ Issues .both .user true false (small .X) ∧
    (let w : BitVec 32 := 0x0400009A
     w.extractLsb' 26 6 = 0x01 ∧ w.extractLsb' 6 5 ≠ 0 ∧ 26 ≤ (w.extractLsb' 0 6).toNat) ∧
    (let w : BitVec 32 := 0x04000817
     w.extractLsb' 26 6 = 0x01 ∧ 23 ≤ (w.extractLsb' 0 6).toNat ∧ w.extractLsb' 11 5 ≠ 0) ∧
    (let w : BitVec 32 := 0x1800C040
     w.extractLsb' 26 6 = 0x06 ∧ w.extractLsb' 14 2 = 3 ∧ w.extractLsb' 6 8 ≠ 0) :=
  ⟨issues_of (by decide +kernel), issues_of (by decide +kernel), by decide +kernel⟩

/-- x1 to x3 hold 4, 2 and 2^57. -/
def jumps : State := onC (fun c => { c with x := ((c.x.set 1 4).set 2 2).set 3 0x200000000000000 }) (small .X)
theorem witness_BranchesAndJumps :
    Issues .both .user true false jumps ∧ ((jumps.reg 1).extractLsb' 0 2 = 0 ∧ (jumps.reg 1).extractLsb' 57 7 = 0) ∧
    (jumps.reg 2).extractLsb' 0 2 ≠ 0 ∧ ((jumps.reg 3).extractLsb' 0 2 = 0 ∧ (jumps.reg 3).extractLsb' 57 7 ≠ 0) :=
  ⟨issues_of (by decide +kernel), by decide +kernel⟩

theorem witness_RegisterBanks :
    (small .X).hart = .X ∧ ((small .A).hart = .A ∧ (23 : Reg).toNat < 24 ∧ (small .A).sysMode = false ∧ (small .A).b.ctx.inLand = false) ∧
    ((handler (small .A)).hart = .A ∧ 24 ≤ (24 : Reg).toNat ∧ (handler (small .A)).sysMode = true) ∧
    ((onC (fun c => { c with inLand := true }) (small .A)).sysMode = false ∧
      (onC (fun c => { c with inLand := true }) (small .A)).b.ctx.inLand = true) := by decide +kernel

theorem witness_TrapsAndCalls : Issues .both .user false false (small .X) ∧ (small .X).sysMode = false :=
  ⟨issues_of (by decide +kernel), by decide +kernel⟩

theorem witness_DoubleTrapFailsTheTask : (handler (small .A)).sysMode = true ∧
    (task ∈ (handler (small .A)).tasks ∧ task.id = (handler (small .A)).b.task ∧ task.failed = none ∧ task.st ≠ .done) ∧
    ({ small .A with hart := .A, b := (handler (small .A)).b, rest := [(small .X).b] } : State).rest.map (·.task) = [1] := by
  decide +kernel

theorem witness_ReturnFromHandler : Issues .onlyA .system false false (handler (small .A)) ∧ (handler (small .A)).sysMode = true ∧
    (handler (small .A)).thisTask = some task ∧ task.st ≠ .preempting ∧ task.reps < 2 :=
  ⟨issues_of (by decide +kernel), by decide +kernel⟩

/-- a1 and a2 hold 0x200 and 2^30; memory holds 0x80 at 0x200. -/
def atA : State := onC (fun c => { c with a := (c.a.set 1 0x200).set 2 0x40000000 }) { small .A with mem := [(0x200, 0x80)] }

/-- A scalar cache with every line in use. -/
def fullCache : State := onB (fun b => { b with cache := (List.range 1024).map fun i => ⟨100 + i, 0x55, 1, 0⟩ }) atA
theorem notLeaving : ¬ inLeaving fullCache 8 0x200 := by
  rintro ⟨l, h, ht⟩
  have h' : leaving fullCache 8 = some ⟨100, 0x55, 1, 0⟩ := by decide +kernel
  rw [h'] at h
  cases h
  exact absurd ht (by decide)

theorem witness_LoadsReturnTheBytesSeen : (6 : BitVec 3).toNat ≤ 6 ∧ Issues .onlyA .user true false atA ∧ atA.rset = none ∧
    (∃ s0, Reaches atA (atA.aReg 1 + (0x1FFC : BitVec 13).signExtend 64) (bytesFor 6) .load 0x1FC s0 ∧
      (s0.b.buf.isEmpty && !(s0.line 0x1FC).bad.getLsbD (0x1FC % 64 / 8)) = true) ∧ State.Canonical atA ∧
    -- With a full cache the line of its oldest entry leaves, its dirty byte reaching memory.
    (∃ l, leaving fullCache 8 = some l ∧ l.tag = 100 ∧ l.dirty.getLsbD 0 = true ∧ fullCache.poisoned (8 * (6400 / 8)) 8 = false) ∧
    inLeaving fullCache 8 6400 ∧ ¬ inLeaving fullCache 8 0x200 :=
  ⟨by decide, issues_of (by decide +kernel), by decide +kernel,
    reach_of (p := fun u => u.b.buf.isEmpty && !(u.line 0x1FC).bad.getLsbD (0x1FC % 64 / 8)) (by decide +kernel), ⟨by decide +kernel, by decide +kernel⟩,
    ⟨⟨100, 0x55, 1, 0⟩, by decide +kernel, by decide +kernel⟩, ⟨⟨100, 0x55, 1, 0⟩, by decide +kernel, by decide⟩, notLeaving⟩

theorem witness_StoresChangeTheirBytes : (3 : BitVec 3).toNat ≤ 3 ∧ Issues .onlyA .user true false atA ∧ atA.rset = none ∧
    (∃ s0, Reaches atA (atA.aReg 1 + (8 : BitVec 13).signExtend 64) (bytesFor 3) .store 0x208 s0 ∧ s0.b.buf.isEmpty = true) ∧ bytesFor 3 = 8 ∧
    ∃ s0, Reaches atA (atA.aReg 1 + (1 : BitVec 13).signExtend 64) (bytesFor 0) .store 0x201 s0 ∧
      (!(s0.line 0x201).bad.getLsbD (0x201 % 64 / 8)) = true :=
  ⟨by decide, issues_of (by decide +kernel), by decide +kernel, reach_of (p := fun u => u.b.buf.isEmpty) (by decide +kernel), by decide +kernel,
    reach_of (p := fun u => !(u.line 0x201).bad.getLsbD (0x201 % 64 / 8)) (by decide +kernel)⟩

/-- The page of the host's window lies at address 0. -/
def mailbox : State := { atA with tlb := [⟨.l1 0, 0, 0, 0x1000, 0x180000005F⟩] }
theorem witness_MailboxWord : Issues .onlyA .user true false mailbox ∧ mailbox.rset = none ∧
    ∃ s0, Reaches mailbox (mailbox.aReg 0 + (0xFF8 : BitVec 13).signExtend 64) (bytesFor 3) .store 0x1800000FF8 s0 ∧
      (decide ((s0.settleLine 0x1800000FF8).b.cache = []) && !marked (s0.settleLine 0x1800000FF8) 0x1800000FF8) = true :=
  ⟨issues_of (by decide +kernel), by decide +kernel,
    reach_of (p := fun u => decide ((u.settleLine 0x1800000FF8).b.cache = []) && !marked (u.settleLine 0x1800000FF8) 0x1800000FF8)
      (by decide +kernel)⟩

/-- The word at 0x200 is poisoned. -/
def poisoned : State := { atA with poison := [0x40] }
theorem witness_PoisonedWord : poisoned.rset = none ∧
    (∃ s0, Reaches poisoned (poisoned.aReg 1 + (1 : BitVec 13).signExtend 64) (bytesFor 0) .load 0x201 s0 ∧
      (s0.b.buf.isEmpty && marked (s0.settleLine 0x201) 0x201) = true) ∧
    ∃ s0, Reaches poisoned (poisoned.aReg 1 + (4 : BitVec 13).signExtend 64) (bytesFor 2) .store 0x204 s0 ∧
      marked (s0.settleLine 0x204) 0x204 = true :=
  ⟨by decide +kernel, reach_of (p := fun u => u.b.buf.isEmpty && marked (u.settleLine 0x201) 0x201) (by decide +kernel),
    reach_of (p := fun u => marked (u.settleLine 0x204) 0x204) (by decide +kernel)⟩

theorem witness_ScalarAccessTraps : Issues .onlyA .user true false atA ∧ (atA.aReg 1 + (1 : BitVec 13).signExtend 64).toNat % bytesFor 1 ≠ 0 ∧
    (atA.aReg 0 + (0x1000 : BitVec 13).signExtend 64).extractLsb' 57 7 ≠ 0 ∧
    atA.ownCheck (atA.aReg 2 + (0 : BitVec 13).signExtend 64).toNat (bytesFor 3) .load = .error 4 ∧
    atA.ownCheck (atA.aReg 2 + (0 : BitVec 13).signExtend 64).toNat (bytesFor 3) .store = .error 5 :=
  ⟨issues_of (by decide +kernel), by decide +kernel, by decide +kernel, err_of (by decide +kernel), err_of (by decide +kernel)⟩

/-- The X-hart with a token to take and mask 1 all clear; its queues empty; or full. -/
def tokens : State := onC (fun c => { c with tqa := [7] }) (vecs 2)
def fullQueues : State :=
  onC (fun c => { c with tqx := .replicate 32 0, kq := .replicate 16 ⟨0, false⟩, grants := .replicate 4 ⟨.X, 0, 0, 0, 0⟩ }) (vecs 2)
theorem witness_TokenQueues :
    (Issues .both .user false false tokens ∧ Issues .onlyX .user false false tokens ∧ (tokensOut tokens).length < 32 ∧
      tokensIn tokens = [7] ∧ tokens.b.ctx.kq.length < 16) ∧
    (Issues .both .user false false (vecs 2) ∧ tokensIn (vecs 2) = []) ∧
    (Issues .both .user false false fullQueues ∧ Issues .onlyX .user false false fullQueues ∧ 32 ≤ (tokensOut fullQueues).length ∧
      16 ≤ fullQueues.b.ctx.kq.length ∧ First fullQueues ∧ 4 ≤ fullQueues.b.ctx.grants.length) := by
  refine ⟨⟨issues_of (by decide +kernel), issues_of (by decide +kernel), by decide +kernel, by decide +kernel, by decide +kernel⟩,
    ⟨issues_of (by decide +kernel), by decide +kernel⟩,
    ⟨issues_of (by decide +kernel), issues_of (by decide +kernel), by decide +kernel, by decide +kernel, ?_, by decide +kernel⟩⟩
  intro g r h
  have h' : fullQueues.b.ctx.grants = .replicate 4 ⟨.X, 0, 0, 0, 0⟩ := rfl
  rw [h', List.replicate_succ] at h
  cases h
  rfl

/-- The A-hart, a1 = 40, with stream 7 active at ten of its elements, and a grant of the X-hart's before it. -/
def lengths (grants : List Grant) (st : StreamState) (ctr : Nat) : State :=
  onC (fun c => { c with a := (c.a.set 1 40).set 2 3, grants := grants, streams := c.streams.set 7 { Stream.init with st := st, ctr := ctr, ty := 10, n := 100 } })
    (small .A)
theorem witness_VectorLengths :
    (∀ g st n, Issues .both .user false false (lengths g st n) ∧ Issues .onlyA .user false false (lengths g st n) ∧
      (lengths g st n).rset = none) ∧
    (First (lengths [] .active 10) ∧ (lengths [] .active 10).b.ctx.grants.length < 4) ∧
    Second (lengths [⟨.X, 40, 10, 8, 0x800⟩] .active 10) ⟨.X, 40, 10, 8, 0x800⟩ [] ∧
    Second (lengths [⟨.X, 41, 10, 8, 0x800⟩] .active 10) ⟨.X, 41, 10, 8, 0x800⟩ [] ∧
    (((lengths [] .active 10).stream 7).ty = 10 ∧ ((lengths [] .active 10).stream 7).ty ≠ 11) ∧
    1024 / sewOf 10 ≤ ((lengths [] .active 32).stream 7).ctr - ((lengths [] .active 32).stream 7).cursor ∧
    LandedAll ((lengths [] .finished 10).stream 7) ∧
    (((lengths [] .active 10).stream 7).ctr - ((lengths [] .active 10).stream 7).cursor < 1024 / sewOf 10 ∧
      ¬ LandedAll ((lengths [] .active 10).stream 7)) ∧
    Second (lengths [⟨.X, 40, 10, 11, 0x800⟩] .finished 10) ⟨.X, 40, 10, 11, 0x800⟩ [] ∧
    (((lengths [] .active 10).reg 2).toNat ≤ 3 ∧ 3 < ((lengths [] .active 10).reg 1).toNat) ∧
    (First (lengths (.replicate 4 ⟨.A, 0, 0, 0, 0⟩) .active 10) ∧
      4 ≤ (lengths (.replicate 4 ⟨.A, 0, 0, 0, 0⟩) .active 10).b.ctx.grants.length) ∧
    ((40 : Word) = (lengths [] .active 10).reg 1 ∧ (41 : Word) ≠ (lengths [] .active 10).reg 1) := by
  refine ⟨fun g st n => ⟨issues_of rfl, issues_of rfl, rfl⟩, ⟨by simp [First, lengths, onC, onB], by decide +kernel⟩, ⟨rfl, by decide +kernel⟩,
    ⟨rfl, by decide +kernel⟩, by decide +kernel, by decide +kernel, Or.inl rfl, ⟨by decide +kernel, ?_⟩, ⟨rfl, by decide +kernel⟩, by decide +kernel,
    ⟨?_, by decide +kernel⟩, by decide +kernel⟩
  · unfold LandedAll
    decide +kernel
  · intro g r h
    have h' : (lengths (.replicate 4 ⟨.A, 0, 0, 0, 0⟩) .active 10).b.ctx.grants = .replicate 4 ⟨.A, 0, 0, 0, 0⟩ := rfl
    rw [h', List.replicate_succ] at h
    cases h
    rfl

/-! Vector witnesses. `lent` has a queue entry to pop and a pending prefix that lends mask 3 inverted. -/

def withHead (s : State) : State := onC (fun c => { c with lq := c.lq.set 1 [entry 0x0102] }) s
def lent (s : State) : State := onC (fun c => { c with xc := { c.xc with pfl := 0x813 } }) s

theorem witness_IntegerVectorResults : (typeX (vecs 7)).toNat < 8 ∧ VecReady (withHead (vecs 7)) (some (.sq 2)) (popped (.lq 1)) 0 ∧
    VecReady (lent (vecs 7)) (some (.v 31)) none 0 :=
  ⟨by decide +kernel, ready (by decide +kernel), ready (by decide +kernel)⟩

theorem witness_RealVectorResults : (8 ≤ (typeX (vecs 8)).toNat ∧ (typeX (vecs 11)).toNat ≤ 11) ∧
    VecReady (withHead (vecs 8)) (some (.v 1)) (popped (.lq 1)) 0 ∧ VecReady (lent (vecs 11)) (some (.sq 0)) none 0 :=
  ⟨by decide +kernel, ready (by decide +kernel), ready (by decide +kernel)⟩

theorem witness_FusedAndComplexResults :
    (8 ≤ (typeX (vecs 9)).toNat ∧ (typeX (vecs 9)).toNat ≤ 11 ∧ VecReady (withHead (vecs 9)) (some (.v 1)) (popped (.lq 1)) 0 ∧
      VecReady (vecs 9) (some (.v 1)) none 0) ∧
    (typeX (vecs 16) = 16 ∧ VecReady (withHead (vecs 16)) (some (.sq 3)) (popped (.lq 1)) 0 ∧ VecReady (vecs 16) (some (.v 0)) none 0) ∧
    typeX (vecs 17) = 17 ∧ VecReady (withHead (vecs 17)) (some (.v 0)) (popped (.lq 1)) 0 :=
  ⟨⟨by decide +kernel, by decide +kernel, ready (by decide +kernel), ready (by decide +kernel)⟩,
    ⟨by decide +kernel, ready (by decide +kernel), ready (by decide +kernel)⟩, by decide +kernel, ready (by decide +kernel)⟩

/-- Mask 2 has element 1 set. -/
def masked (s : State) : State := onC (fun c => { c with k := c.k.set 2 2 }) s

theorem idle4 {s k} (hn : vlX s ≤ 4) (h : ∀ e < 4, active s k e = false) : ∀ e < 2048, active s k e = false := fun e _ => by
  by_cases he : e < 4
  · exact h e he
  · have : ¬ e < vlX s := by omega
    simp [active, this]

theorem witness_MaskAndScalarResults :
    (((1 : BitVec 4) ≠ 0 ∧ copies (lent (vecs 2)) = false ∧ (5 : BitVec 3).toNat ≤ 5 ∧ VecReady (lent (vecs 2)) none none 0) ∧
      VecReady (withHead (vecs 2)) none (popped (.lq 1)) 0 ∧ (typeX (vecs 2)).toNat < 8 ∧
      (8 ≤ (typeX (vecs 10)).toNat ∧ (typeX (vecs 10)).toNat ≤ 11 ∧ VecReady (withHead (vecs 10)) none (popped (.lq 1)) 0 ∧
        VecReady (vecs 10) none none 0) ∧
      (VecReady (masked (vecs 2)) none none 2 ∧ typeX (masked (vecs 2)) ≠ 14 ∧ typeX (masked (vecs 2)) ≠ 15 ∧
        active (masked (vecs 2)) 2 1 = true ∧ ∀ e < 1, active (masked (vecs 2)) 2 e = false)) ∧
    (VecReady (masked (vecs 2)) none none 0 ∧ copies (masked (vecs 2)) = false ∧ active (masked (vecs 2)) 2 1 = true ∧
      (∀ e < 1, active (masked (vecs 2)) 2 e = false) ∧ (∀ e < 2048, active (masked (vecs 2)) 3 e = false) ∧ sewX (vecs 2) ≤ 64 ∧
      (vlX (vecs 2) ≤ 4 ∧ active (vecs 2) 0 3 = true) ∧
      (0 < vlX (lent (onC (fun c => { c with k := c.k.set 3 1 }) (vecs 2))) ∧
        active (lent (onC (fun c => { c with k := c.k.set 3 1 }) (vecs 2))) 0 0 = false ∧
        VecReady (lent (onC (fun c => { c with k := c.k.set 3 1 }) (vecs 2))) none none 0)) :=
  ⟨⟨⟨by decide, by decide +kernel, by decide, ready (by decide +kernel)⟩, ready (by decide +kernel), by decide +kernel,
      ⟨by decide +kernel, by decide +kernel, ready (by decide +kernel), ready (by decide +kernel)⟩,
      ⟨ready (by decide +kernel), by decide +kernel⟩⟩,
    ready (by decide +kernel), by decide +kernel, by decide +kernel, by decide +kernel, idle4 (by decide +kernel) (by decide +kernel),
    by decide +kernel, by decide +kernel, by decide +kernel, by decide +kernel, ready (by decide +kernel)⟩

theorem witness_MoveAndSelectResults : VecReady (masked (vecs 6)) (some (.v 4)) none 2 ∧ sewX (vecs 6) ≤ 64 ∧ VecReady (withHead (vecs 6)) (some (.sq 0)) (popped (.lq 1)) 0 ∧
    VecReady (vecs 6) (some (.sq 0)) none 0 ∧ typeX (vecs 6) ∈ ([2, 3, 6, 7, 10, 11] : List Reg) :=
  ⟨ready (by decide +kernel), by decide +kernel, ready (by decide +kernel), ready (by decide +kernel), by decide +kernel⟩

theorem witness_PermuteResults : VecReady (masked (vecs 5)) (some (.v 4)) none 2 ∧
    ((typeX (vecs 5)).toNat < 12 ∧ typeX (vecs 5) ≠ 0 ∧ typeX (vecs 5) ≠ 4 ∧ (typeX (vecs 5)).toNat < 8) ∧
    VecReady (withHead (vecs 15)) (some (.sq 0)) (popped (.lq 1)) 0 :=
  ⟨ready (by decide +kernel), by decide +kernel, ready (by decide +kernel)⟩

theorem witness_FoldResults :
    (VecReady (len 5 3 (small .X)) (some (.v 4)) none 0 ∧ LeastPower (len 5 3 (small .X)) 3 ∧ (typeX (len 5 3 (small .X))).toNat < 8) ∧
    (VecReady (len 1 11 (small .X)) (some (.sq 0)) none 0 ∧ LeastPower (len 1 11 (small .X)) 0 ∧ 8 ≤ (typeX (len 1 11 (small .X))).toNat ∧
      (typeX (len 1 11 (small .X))).toNat ≤ 11) ∧
    (VecReady (vecs 16) (some (.v 4)) none 0 ∧ LeastPower (vecs 16) 2 ∧ typeX (vecs 16) = 16) :=
  ⟨⟨ready (by decide +kernel), ⟨by decide +kernel, Or.inr (by decide +kernel)⟩, by decide +kernel⟩,
    ⟨ready (by decide +kernel), ⟨by decide +kernel, Or.inl rfl⟩, by decide +kernel, by decide +kernel⟩,
    ⟨ready (by decide +kernel), ⟨by decide +kernel, Or.inr (by decide +kernel)⟩, by decide +kernel⟩⟩

theorem witness_ConversionResults :
    (VecReady (withHead (vecs 8)) (some (.v 4)) (popped (.lq 1)) 0 ∧ cvtOk (withHead (vecs 8)) 10 = true ∧ 8 ≤ (typeX (vecs 8)).toNat ∧
      (typeX (vecs 8)).toNat ≤ 11) ∧
    ((0 : Reg).toNat < 8 ∧ (typeX (vecs 7)).toNat < 8 ∧ (vecs 7).hart = .X) ∧
    (VecReady (vecs 13) (some (.sq 1)) (popped (.v 2)) 0 ∧ (typeX (vecs 13)).toNat ≤ 13) ∧ VecReady (vecs 11) (some (.v 4)) none 0 :=
  ⟨⟨ready (by decide +kernel), by decide +kernel⟩, by decide +kernel, ⟨ready (by decide +kernel), by decide +kernel⟩,
    ready (by decide +kernel)⟩

/-- A prefix asks for a copy in v9. -/
def copied (s : State) : State := onC (fun c => { c with xc := { c.xc with pfl := 0xD20 } }) s
theorem witness_OptimiserStep : VecReady (copied (vecs 10)) (some (.v 29)) none 0 ∧ typeX (copied (vecs 10)) = 10 ∧ (29 : Reg).toNat ≤ 29 ∧
    copies (copied (vecs 10)) = true ∧ copyTo (copied (vecs 10)) ≠ 29 + 1 ∧ copyTo (copied (vecs 10)) ≠ 29 + 2 :=
  ⟨ready (by decide +kernel), by decide +kernel⟩

/-- sq1 is full. -/
def fullSq (s : State) : State := onC (fun c => { c with sq := c.sq.set 1 (.replicate 8 (entry 0)) }) s
theorem witness_VectorsDroppedOrStopped :
    (shapeOf (withHead (len 0 2 (small .X))) (.vadd (.sq 1) 2 (.lq 1) 0) = some ⟨some (.sq 1), some 1, 0, 0, true, true⟩ ∧
      Issues .onlyX .user false true (withHead (len 0 2 (small .X))) ∧
      (∀ e, active (withHead (len 0 2 (small .X))) 0 e = false) ∧ headB (withHead (len 0 2 (small .X))) (some 1) = true ∧
      ((withHead (len 0 2 (small .X))).b.ctx.sq.get (1 : BitVec 2).toFin).length < 8) ∧
    (shapeOf (vecs 10) (.vadd (.v 1) 2 (.v 3) 0) = some ⟨some (.v 1), none, 0, 0, false, true⟩ ∧ Issues .onlyX .user false true (vecs 10)) ∧
    (shapeOf (copied (vecs 2)) (.kpop 1 2) = some ⟨none, none, 0, 0, true, false⟩ ∧ copies (copied (vecs 2)) = true ∧
      Issues .onlyX .user false true (copied (vecs 2))) ∧
    ((vecs 2).b.ctx.lq.get (0 : BitVec 2).toFin = [] ∧ goesAhead (vecs 2) ⟨some (.v 1), some 0, 0, 0, true, true⟩) ∧
    (goesAhead (fullSq (vecs 2)) ⟨some (.sq 1), none, 0, 0, true, true⟩ ∧ (fullSq (vecs 2)).begun 1 = none ∧
      8 ≤ ((fullSq (vecs 2)).b.ctx.sq.get (1 : BitVec 2).toFin).length) := by
  have h0 : vlX (withHead (len 0 2 (small .X))) = 0 := by decide +kernel
  exact ⟨⟨rfl, issues_of (by decide +kernel), fun e => by unfold active; rw [h0]; simp, by decide +kernel, by decide +kernel⟩,
    ⟨rfl, issues_of (by decide +kernel)⟩, ⟨rfl, by decide +kernel, issues_of (by decide +kernel)⟩,
    ⟨by decide +kernel, rfl, fun h => by cases h⟩, ⟨⟨rfl, fun h => by cases h⟩, by decide +kernel, by decide +kernel⟩⟩

/-- A prefix lends k3. -/
def lends (s : State) : State := onC (fun c => { c with xc := { c.xc with pfl := 0x803 } }) s
theorem witness_ExampleStops :
    (exampleShape (vecs 2) (.xloss (.lq 0) 0) = some ⟨none, some 0, 0, 0, false, true⟩ ∧
      exampleShape (withHead (len 0 10 (small .X))) (.xloss (.lq 1) 0) = some ⟨none, some 1, 0, 0, true, true⟩ ∧
      Issues .onlyX .user false true (vecs 2) ∧ Issues .onlyX .user false true (withHead (len 0 10 (small .X))) ∧
      (∀ e, active (withHead (len 0 10 (small .X))) 0 e = false) ∧ headB (withHead (len 0 10 (small .X))) (some 1) = true ∧
      (exampleShape (vecs 10) (.xnacc 0 (.lq 0) 0) = some ⟨none, some 0, 0, 1, true, true⟩ ∧ (vecs 10).b.ctx.lq.get (0 : BitVec 2).toFin = []) ∧
      (exampleShape (fullSq (vecs 10)) (.xnorm (.sq 1) 0) = some ⟨some (.sq 1), none, 0, 1, true, true⟩ ∧ (fullSq (vecs 10)).begun 1 = none ∧
        8 ≤ ((fullSq (vecs 10)).b.ctx.sq.get (1 : BitVec 2).toFin).length)) ∧
    ((gateShape (vecs 11) (.v 0) (.v 1) 0).fits = false ∧ (gateShape (vecs 10) (.sq 1) (.lq 0) 0).fits = true ∧
      ((lends (vecs 10)).prefixed = true ∧ (lends (vecs 10)).b.ctx.xc.pfl.getLsbD 4 = false ∧
        (lends (vecs 10)).b.ctx.xc.pfl.extractLsb' 0 4 ≠ 0) ∧
      ((lent (vecs 10)).prefixed = true ∧ (lent (vecs 10)).b.ctx.xc.pfl.getLsbD 4 = true) ∧
      vlX (withHead (len 0 10 (small .X))) = 0) := by
  have h0 : vlX (withHead (len 0 10 (small .X))) = 0 := by decide +kernel
  exact ⟨⟨rfl, rfl, issues_of (by decide +kernel), issues_of (by decide +kernel), fun e => by unfold active; rw [h0]; simp, by decide +kernel,
    ⟨rfl, by decide +kernel⟩, rfl, by decide +kernel, by decide +kernel⟩, by decide +kernel, by decide +kernel, by decide +kernel, by decide +kernel, h0⟩

/-- Forty i32 elements, a stop after one EG of 32. -/
def stopped : State := { len 40 2 (small .X) with egStop := some 1 }
theorem witness_StoppedAndResumed : shapeOf stopped (.vadd (.v 1) 2 (.v 3) 0) = some ⟨some (.v 1), none, 0, 0, true, true⟩ ∧
    Issues .onlyX .user false true stopped ∧ active stopped 0 39 = true ∧ headThere stopped ⟨some (.v 1), none, 0, 0, true, true⟩ ∧
    roomThere stopped ⟨some (.v 1), none, 0, 0, true, true⟩ ∧ stopped.egStop = some 1 ∧
    stopped.b.ctx.rx.es.toNat + 1 * (1024 / sewX stopped) < vlX stopped ∧
    (popped (.v 3) = none ∧ cvtOk stopped 10 = true ∧ headThere stopped ⟨some (.v 1), popped (.v 3), 0, 1, cvtOk stopped 10, true⟩) ∧
    (let s := { stopped with b := { stopped.b with ctx := { stopped.b.ctx with rx := { stopped.b.ctx.rx with vt := 10 } } } }
     shapeOf s (.vclamp (.v 1) (.v 3) 0) = some ⟨some (.v 1), none, 0, 0, true, false⟩ ∧ Issues .onlyX .user false true s ∧
       active s 0 39 = true) :=
  ⟨rfl, issues_of (by decide +kernel), by decide +kernel, (fun _ h => by cases h), (fun _ h => by cases h), rfl, by decide +kernel,
    ⟨rfl, by decide +kernel, (fun _ h => by cases h)⟩, rfl, issues_of (by decide +kernel), by decide +kernel⟩

/-! Vector memory, the example axis, the matrix arrays. -/

def freshB (s : State) : Bool :=
  issuesB .onlyA .user false false s && decide ((s.rset = none ∧ s.b.buf = []) ∧ (s.b.ctx.ra.es = 0 ∧ s.b.memDone = 0) ∧ s.egStop = none)

theorem fresh_of {s} (h : freshB s = true) : FreshA s := by
  simp only [freshB, Bool.and_eq_true, decide_eq_true_eq] at h
  exact ⟨issues_of h.1, h.2.1, h.2.2.1, h.2.2.2⟩

def isRight {ε α : Type} : Except ε α → Bool
  | .ok _ => true
  | .error _ => false
theorem right_of {ε α : Type} {e : Except ε α} (h : isRight e = true) : ∃ a, e = .ok a := by
  cases e with
  | ok a => exact ⟨a, rfl⟩
  | error c => cases h
theorem left_of {ε α : Type} {e : Except ε α} (h : isRight e = false) : ∃ c, e = .error c := by
  cases e with
  | ok a => cases h
  | error c => exact ⟨c, rfl⟩

def sqB (s : State) : Option (BitVec 2) → Bool
  | none => true
  | some q => match headSq s q with
    | some e => e.part.isNone
    | none => false
theorem sq_of {s : State} {q : BitVec 2} (h : sqB s (some q) = true) : ∃ e, headSq s q = some e ∧ e.part = none := by
  simp only [sqB] at h
  split at h
  · rename_i e he
    exact ⟨e, he, by simpa using h⟩
  · cases h
def headsB (s : State) (m : Bool) (data index : Option (BitVec 2)) : Bool :=
  (!m || !s.b.ctx.kq.isEmpty) && sqB s data && sqB s index
theorem heads_of {s m data index} (h : headsB s m data index = true) : HeadsThere s m data index := by
  simp only [headsB, Bool.and_eq_true] at h
  refine ⟨fun hm hk => ?_, fun q hq => ?_⟩
  · rw [hm, hk] at h
    simp at h
  · rcases hq with rfl | rfl
    · exact sq_of h.1.2
    · exact sq_of h.2

def keepsB (s : State) (m : Bool) (data index : Option (BitVec 2)) : Bool :=
  (List.range 2048).any (activeA s m) && (!m || (match s.b.ctx.kq.head? with | some k => !k.flagged | none => true)) &&
    [data, index].all fun o => match o with
      | none => true
      | some q => match headSq s q with
        | some e => !e.flagged
        | none => true
theorem keeps_of {s m data index} (h : keepsB s m data index = true) : ¬ DropsA s m data index := by
  simp only [keepsB, Bool.and_eq_true, List.all_cons, List.all_nil] at h
  obtain ⟨⟨h1, h2⟩, h3, h4, -⟩ := h
  rintro (hd | ⟨rfl, k, hk, hf⟩ | ⟨q, e, hq, he, hf⟩)
  · obtain ⟨e, -, hx⟩ := List.any_eq_true.1 h1
    rw [hd e] at hx
    cases hx
  · rw [hk] at h2
    simp [hf] at h2
  · rcases hq with rfl | rfl
    · simp [he, hf] at h3
    · simp [he, hf] at h4

/-- Elements from the length on are not active, so that a short scan will do. -/
theorem short {s m} (n : Nat) {addr : Nat → Word} (h : vlA s ≤ n) (hn : n ≤ 2048) :
    activeAt s m addr = ((List.range n).filter (activeA s m)).map fun e => (e, addr e) := by
  have hz : ∀ e, n ≤ e → activeA s m e = false := fun e he => by
    have : ¬ e < vlA s := by omega
    simp [activeA, this]
  have : (List.range 2048).filter (activeA s m) = (List.range n).filter (activeA s m) := by
    rw [show 2048 = n + (2048 - n) by omega, List.range_add, List.filter_append]
    suffices h : ((List.range (2048 - n)).map (n + ·)).filter (activeA s m) = [] by rw [h, List.append_nil]
    rw [List.filter_eq_nil_iff]
    intro e he
    obtain ⟨x, -, rfl⟩ := List.mem_map.1 he
    simp [hz]
  rw [activeAt, this]

/-- Two i32 elements; a1 = 0x200, a2 = 2^30 where nothing is mapped, a3 = 8, a4 = 0x300; a mask in kq, data in sq0, indices 2 and 1 in sq1. -/
def memory (space : BitVec 2) (mask : Mask) : State :=
  onC (fun c => { c with
    a := (((c.a.set 1 0x200).set 2 0x40000000).set 3 8).set 4 0x300, kq := [⟨mask, false⟩]
    sq := (c.sq.set 0 [entry 0x0000000700000005]).set 1 [entry 0x0000000100000002], ac := { c.ac with mt := space } }) (len 2 2 (small .A))
/-- A group of two members; this module is the first. -/
def group : Group := ⟨false, false, 0x9000, [0, 1]⟩
def fabric (s : State) : State :=
  onC (fun c => { c with grp := some group, ac := { c.ac with cgrp := 0x40, cstr := 0x1000 } }) { s with lmember := 0 }
/-- Sixteen elements under a tile of side 4. -/
def tiles : State := onC (fun c => { c with ac := { c.ac with zl := 0x42 } }) (len 16 2 (small .A))

theorem room_lq {s : State} {q} (h : s.b.ctx.lq.get q.toFin = []) : RoomLq s q := by
  rw [RoomLq, h]
  exact ⟨by decide, by simp⟩

theorem witness_VectorLoads :
    (FreshA (memory 0 3) ∧ RoomLq (memory 0 3) 0 ∧ HeadsThere (memory 0 3) true none (some 1) ∧ ¬ DropsA (memory 0 3) true none (some 1) ∧
      (memory 0 3).b.ctx.ac.mt ≠ 3 ∧ (∃ r, gathered (memory 0 3) .load (activeAt (memory 0 3) true (indexedA (memory 0 3) 1 6 1)) = .ok r) ∧
      (6 : BitVec 3) ≠ 7) ∧
    (FreshA tiles ∧ tiledOk tiles = true ∧ HeadsThere tiles false none none ∧ ¬ DropsA tiles false none none ∧
      ∃ r, gathered tiles .load (activeAt tiles false (tiledA tiles 1)) = .ok r) ∧
    (FreshA (fabric (memory 3 3)) ∧ (fabric (memory 3 3)).b.ctx.fabric = some group ∧
      ∀ x ∈ activeAt (fabric (memory 3 3)) true (unitA (fabric (memory 3 3)) 1), x.2.toNat % bytesA (fabric (memory 3 3)) = 0 ∧
        x.2.extractLsb' 57 7 = 0) :=
  ⟨⟨fresh_of (by decide +kernel), room_lq (by decide +kernel), heads_of (by decide +kernel), keeps_of (by decide +kernel), by decide +kernel,
      right_of (by rw [short 2 (by decide +kernel) (by decide)]; decide +kernel), by decide⟩,
    ⟨fresh_of (by decide +kernel), by decide +kernel, heads_of (by decide +kernel), keeps_of (by decide +kernel),
      right_of (by rw [short 16 (by decide +kernel) (by decide)]; decide +kernel)⟩,
    fresh_of (by decide +kernel), by decide +kernel, by rw [short 2 (by decide +kernel) (by decide)]; decide +kernel⟩

/-- A turn that lets vector stores perform later; and the braid's channel of plane 0 with an element on it. -/
def later : State := { memory 0 3 with lazy := true }
def noRoom : State :=
  { fabric (memory 3 3) with ports := 1, arrivals := [⟨(fabric (memory 3 3)).elem group 0x1000 0 2 0x100 4 0, some 1⟩] }
/-- Every EG of a store by a1 goes to the fabric. -/
def sends (s : State) : Bool := isRight (fabricRun group (putsOf s true 0 false (unitA s 1)) s (List.range ((vlA s + egA s - 1) / egA s)))

theorem witness_VectorStores :
    (FreshA (memory 0 3) ∧ (memory 0 3).poison = [] ∧ HeadsThere (memory 0 3) true (some 0) (some 1) ∧
      ¬ DropsA (memory 0 3) true (some 0) (some 1) ∧
      ∃ r, scattered (0, 0, 0) false (memory 0 3) (putsOf (memory 0 3) true 0 false (indexedA (memory 0 3) 1 0 1)) = .ok r) ∧
    (FreshA later ∧ later.lazy = true ∧ later.b.ctx.ac.mt = 0 ∧
      ∃ r, scattered (0, 0, 0) false later (putsOf later true 0 false (unitA later 1)) = .ok r) ∧
    ((fabric (memory 3 3)).b.ctx.fabric = some group ∧ FabricFits (fabric (memory 3 3)) group ∧
      sends (fabric (memory 3 3)) = true ∧ sends noRoom = false) ∧
    ((5 : BitVec 3).toNat ≤ 5 ∧ (∃ s0, Reaches (memory 1 3) ((memory 1 3).aReg 4) 8 .store 0x300 s0 ∧
        isRight (scattered (0x300, 0x300, 5) false s0 (putsOf (memory 1 3) true 0 true (unitA (memory 1 3) 1))) = true) ∧
      (memory 1 3).b.cache = []) :=
  ⟨⟨fresh_of (by decide +kernel), by decide +kernel, heads_of (by decide +kernel), keeps_of (by decide +kernel), right_of (by decide +kernel)⟩,
    ⟨fresh_of (by decide +kernel), rfl, by decide +kernel, right_of (by decide +kernel)⟩,
    ⟨by decide +kernel, by unfold FabricFits; decide +kernel, by decide +kernel, by decide +kernel⟩, by decide,
    reach_of (p := fun u => isRight (scattered (0x300, 0x300, 5) false u (putsOf (memory 1 3) true 0 true (unitA (memory 1 3) 1)))) (by decide +kernel),
    by decide +kernel⟩

/-- A plain store of the braid to 0x200 waits in the fabric. -/
def behind : State :=
  { memory 0 3 with arrivals := [⟨{ (memory 0 3).elem group 0x1000 0 2 0x200 4 0 with op := 0 }, some 1⟩] }
theorem witness_LoadsBehindStores :
    heldBehind noRoom group 0x200 = true ∧ heldBehind (fabric (memory 3 3)) group 0x200 = false ∧ NoneWaiting (memory 0 3) ∧
    (isRight (behind.check behind.ownXlate behind.b.task 0x200 4 .store false) = true ∧ behind.arrivals.map (·.by_) = [some behind.b.id] ∧
      behind.arrivals.all (fun x => decide (x.e.op = 0)) = true) := by
  refine ⟨by decide +kernel, by decide +kernel, (fun x h => by cases h), by decide +kernel⟩

theorem drops_of {s m data index} (h : (List.range (vlA s)).any (activeA s m) = false) : DropsA s m data index := by
  refine Or.inl fun e => ?_
  rw [List.any_eq_false] at h
  by_cases he : e < vlA s
  · simpa using h e (List.mem_range.2 he)
  · simp [activeA, he]

theorem witness_VectorMemoryStops :
    (tiledOk (memory 0 3) = false ∧ RoomLq (memory 0 0) 0 ∧ HeadsThere (memory 0 0) true none none ∧ DropsA (memory 0 0) true none none) ∧
    (FreshA tiles ∧ tiles.b.ctx.kq = []) ∧
    (¬ DropsA (memory 0 3) true none none ∧
      ∃ r, gathered (memory 0 3) .load (activeAt (memory 0 3) true (stridedA (memory 0 3) 1 2)) = .error r) ∧
    (HeadsThere (memory 0 0) true (some 0) (some 1) ∧ DropsA (memory 0 0) true (some 0) (some 1)) ∧
    (HeadsThere (memory 0 3) true (some 0) none ∧ ¬ DropsA (memory 0 3) true (some 0) none ∧
      ∃ r, scattered (0, 0, 0) false (memory 0 3) (putsOf (memory 0 3) true 0 false (stridedA (memory 0 3) 1 2)) = .error r) ∧
    ((memory 3 3).b.ctx.ac.mt = 3 ∧ (memory 3 3).b.ctx.fabric = none ∧ FreshA (memory 3 3) ∧ RoomLq (memory 3 3) 0 ∧
      HeadsThere (memory 3 3) true none none ∧ ¬ DropsA (memory 3 3) true none none) ∧
    ((memory 0 3).aReg 3 = 8 ∧ ((onC (fun c => { c with a := c.a.set 4 0x304 }) (memory 0 3)).aReg 4).toNat % 8 ≠ 0) :=
  ⟨⟨by decide +kernel, room_lq (by decide +kernel), heads_of (by decide +kernel), drops_of (by decide +kernel)⟩,
    ⟨fresh_of (by decide +kernel), by decide +kernel⟩, ⟨keeps_of (by decide +kernel), left_of (by rw [short 2 (by decide +kernel) (by decide)]; decide +kernel)⟩,
    ⟨heads_of (by decide +kernel), drops_of (by decide +kernel)⟩,
    ⟨heads_of (by decide +kernel), keeps_of (by decide +kernel), left_of (by decide +kernel)⟩,
    ⟨by decide +kernel, by decide +kernel, fresh_of (by decide +kernel), room_lq (by decide +kernel), heads_of (by decide +kernel),
      keeps_of (by decide +kernel)⟩, by decide +kernel⟩

/-- x1 = 3, x2 = 5, x3 = 256, x4 = 255. -/
def examples (t : Reg) : State := onC (fun c => { c with x := (((c.x.set 1 3).set 2 5).set 3 256).set 4 255 }) (withHead (vecs t))

theorem inTable_of {s} (h : decide (0 < s.b.ctx.xt.length ∧ xbaseOf s + vlX s ≤ s.b.ctx.xt.length) = true) : InTable s := by
  simpa [InTable] using h

theorem witness_ExampleResults :
    (VecReady (examples 8) none (popped (.lq 1)) 0 ∧ InTable (examples 8) ∧ typeX (examples 8) ∈ ([8, 9, 10] : List Reg) ∧
      VecReady (examples 11) none none 0 ∧ InTable (examples 11) ∧ (8 ≤ (typeX (examples 11)).toNat ∧ (typeX (examples 11)).toNat ≤ 11) ∧
      (VecReady (examples 11) none (popped (.lq 1)) 0 ∧ LeastPower (examples 11) 2 ∧
        xbaseOf (examples 11) + ((examples 11).xReg 2).toNat < (examples 11).b.ctx.xt.length) ∧
      (Issues .onlyX .user false true (examples 2) ∧ (examples 2).prefixed = false ∧ ((examples 2).xReg 4).toNat ≤ 255 ∧
        255 < ((examples 2).xReg 3).toNat ∧ (examples 2).b.ctx.xt ≠ [] ∧
        ((examples 2).xReg 1).toNat + ((examples 2).xReg 2).toNat ≤ (examples 2).b.ctx.xt.length ∧
        (examples 2).b.ctx.xt.length < ((examples 2).xReg 1).toNat + ((examples 2).xReg 3).toNat) ∧
      (Issues .onlyX .user false true (lent (examples 2)) ∧ (lent (examples 2)).prefixed = true ∧ ((lent (examples 2)).xReg 4).toNat ≤ 255 ∧
        (lent (examples 2)).b.ctx.xt ≠ [] ∧
        ((lent (examples 2)).xReg 1).toNat + ((lent (examples 2)).xReg 2).toNat ≤ (lent (examples 2)).b.ctx.xt.length) ∧
      (len 9 10 (small .X)).b.ctx.xt.length < xbaseOf (len 9 10 (small .X)) + vlX (len 9 10 (small .X))) ∧
    (VecReady (examples 10) (some (.sq 0)) none 0 ∧ InTable (examples 10) ∧ typeX (examples 10) = 10 ∧
      (VecReady (examples 1) (some (.v 3)) none 0 ∧ InTable (examples 1) ∧ typeX (examples 1) ∈ ([1, 2, 3, 5, 6, 7] : List Reg) ∧
        (5 : Reg).toNat ≤ 5) ∧
      ((∃ e < 2048, e < vlX (examples 10) ∧ maskBit (examples 10) 0 e = true) ∧
        headThere (examples 10) ⟨some (.sq 0), popped (.lq 1), 0, 1, true, true⟩ ∧ (examples 10).prefixed = false) ∧
      (let s := onC (fun c => { c with xc := { c.xc with pfl := 0x803 } }) (examples 10)
       s.prefixed = true ∧ s.b.ctx.xc.pfl.getLsbD 4 = false ∧ s.b.ctx.xc.pfl.extractLsb' 0 4 ≠ (0 : BitVec 4))) :=
  ⟨⟨ready (by decide +kernel), inTable_of (by decide +kernel), by decide +kernel, ready (by decide +kernel), inTable_of (by decide +kernel),
      by decide +kernel, ⟨ready (by decide +kernel), ⟨by decide +kernel, Or.inr (by decide +kernel)⟩, by decide +kernel⟩,
      ⟨issues_of (by decide +kernel), by decide +kernel⟩, ⟨issues_of (by decide +kernel), by decide +kernel⟩, by decide +kernel⟩,
    ready (by decide +kernel), inTable_of (by decide +kernel), by decide +kernel,
    ⟨ready (by decide +kernel), inTable_of (by decide +kernel), by decide +kernel, by decide⟩,
    ⟨⟨0, by decide +kernel⟩, head_of (by decide +kernel), by decide +kernel⟩, by decide +kernel⟩

/-- Slices held, a length and a type, a shadow plane, x1 = 4 and x2 = 1. -/
def slices (held : BitVec 3) (n : BitVec 12) (t : Reg) (shadow : Plane) : State :=
  onC (fun c => { c with x := (c.x.set 1 4).set 2 1, xc := { c.xc with mgrant := held }, mx := { c.mx with shadow := shadow } }) (len n t (small .X))

theorem witness_MatrixPlanes :
    Issues .onlyX .user false false (slices 1 64 8 .init) ∧
    (Issues .onlyX .user false false (slices 0 64 10 .init) ∧ (slices 0 64 10 .init).rset = none ∧
      1 ≤ ((slices 0 64 10 .init).xReg 1).toNat ∧ ((slices 0 64 10 .init).xReg 1).toNat ≤ 4 ∧ heldSlices (slices 0 64 10 .init) = 0) ∧
    ((slices 1 64 10 .init).xReg 0).toNat = 0 ∧ (planeType (typeX (slices 1 64 15 .init)) ∧ vlX (slices 1 64 15 .init) % 64 = 0) ∧
    (heldSlices (slices 1 64 8 .init) ≠ 0 ∧ (slices 1 64 8 .init).b.ctx.mx.shadow.rows = [] ∧
      (slices 1 64 8 .init).b.ctx.mx.shadow.rows.length + vlX (slices 1 64 8 .init) / 64 ≤ rowsFor (typeX (slices 1 64 8 .init)) * 1 ∧
      SourceThere (slices 1 64 8 .init) (.v 2)) ∧
    (rowsFor (typeX (slices 1 128 14 ⟨14, [0]⟩)) * 1 < (slices 1 128 14 ⟨14, [0]⟩).b.ctx.mx.shadow.rows.length + 128 / 64) ∧
    (vlX (slices 1 0 8 .init) = 0 ∧ heldSlices (slices 1 0 8 .init) ≠ 0 ∧ (slices 1 0 8 .init).b.ctx.mx.shadow.rows = [] ∧
      planeType (typeX (slices 1 0 8 .init)) ∧ heldSlices (slices 0 0 8 .init) = 0) ∧
    ((slices 1 64 8 ⟨9, [0]⟩).b.ctx.mx.shadow.rows ≠ [] ∧ (slices 1 64 8 ⟨9, [0]⟩).b.ctx.mx.shadow.ty ≠ typeX (slices 1 64 8 ⟨9, [0]⟩)) ∧
    (4 : Reg).toNat ≤ 4 :=
  ⟨issues_of (by decide +kernel), ⟨issues_of (by decide +kernel), by decide +kernel⟩, by decide +kernel,
    ⟨by unfold planeType; decide +kernel, by decide +kernel⟩, ⟨by decide +kernel, by decide +kernel, by decide +kernel, (fun _ h => by cases h)⟩,
    by decide +kernel, ⟨by decide +kernel, by decide +kernel, by decide +kernel, by unfold planeType; decide +kernel, by decide +kernel⟩,
    by decide +kernel, by decide⟩

/-- An active plane of two rows, one slice, sixteen-bit elements; x1 rows. -/
def product (rows : Word) (n : BitVec 12) (t : Reg) (p : Plane) (a : Acc) : State :=
  onC (fun c => { c with x := c.x.set 1 rows, xc := { c.xc with mgrant := 1 }, mx := { c.mx with active := p, acc0 := a } }) (len n t (small .X))

theorem witness_MatrixProducts :
    (let s := product 64 128 8 ⟨8, [1, 2]⟩ .init
     Issues .onlyX .user false false s ∧ heldSlices s ≠ 0 ∧ vlX s ≠ 0 ∧ (s.xReg 1).toNat ≤ 64 ∧ (Claim.accOf s 0).sc + 64 ≤ accRows (Claim.accOf s 0) ∧
       vlX s = 64 * s.b.ctx.mx.active.rows.length ∧ (s.b.ctx.mx.active.ty = 11 ↔ (Claim.accOf s 0).f64 = true) ∧ SourceThere s (.v 3) ∧
       typeX s = s.b.ctx.mx.active.ty) ∧
    (let s := product 2 4 12 ⟨13, [1, 2]⟩ ⟨false, 0, 62, 0⟩
     Issues .onlyX .user false false s ∧ typeX s ∈ ([12, 13] : List Reg) ∧ s.b.ctx.mx.active.ty ∈ ([12, 13] : List Reg) ∧
       (Claim.accOf s 0).sc + 2 ≤ accRows (Claim.accOf s 0)) ∧
    (let s := product 2 4 11 ⟨11, [1, 2]⟩ ⟨true, 0, 31, 0⟩
     Issues .onlyX .user false false s ∧ accRows (Claim.accOf s 0) < (Claim.accOf s 0).sc + (s.xReg 1).toNat) ∧
    (let s := product 1 64 13 ⟨13, []⟩ ⟨true, 0, 0, 31⟩
     Issues .onlyX .user false false s ∧ vlX s = 1 * 64 ∧ (Claim.accOf s 0).dc + 1 ≤ accRows (Claim.accOf s 0) ∧
       roomThere s ⟨some (.sq 1), none, 0, 1, true, false⟩) :=
  ⟨⟨issues_of (by decide +kernel), by decide +kernel, by decide +kernel, by decide +kernel, by decide +kernel, by decide +kernel,
      by decide +kernel, (fun _ h => by cases h), by decide +kernel⟩,
    ⟨issues_of (by decide +kernel), by decide +kernel⟩, ⟨issues_of (by decide +kernel), by decide +kernel⟩,
    ⟨issues_of (by decide +kernel), by decide +kernel, by decide +kernel, fun q h => by cases h; exact Or.inr (by decide +kernel)⟩⟩

theorem witness_AccumulationRoundsOnce : Fmt.f32.decode 0x3F800000 = .fin false 0x800000 (-23) ∧
    ∀ p ∈ [((FVal.fin true 3 0), false)], ∃ a b c, p.1 = FVal.fin a b c :=
  ⟨by decide +kernel, fun p h => by cases List.mem_singleton.1 h; exact ⟨_, _, _, rfl⟩⟩

/-- One slice, f32 weights 1.0 in v1 and -1.0 in v2, an open table; and a batch to sample with sixteen rows given. -/
def weights (open_ : Bool) : State :=
  onB (fun b => { b with tab := ⟨[], [], [], false, open_⟩ })
    (onC (fun c => { c with v := (c.v.set 1 0x3F8000003F800000).set 2 0xBF800000, xc := { c.xc with mgrant := 1 } }) (len 2 10 (small .X)))
def batch : State :=
  onB (fun b => { b with tab := { weights := [0x3F800000], thr := [0], alias_ := [0], valid := true, open_ := false } })
    (onC (fun c => { c with
      x := c.x.set 1 16, lq := (c.lq.set 0 [entry 1]).set 1 [entry 2]
      xc := { c.xc with mgrant := 1, mz := 0x3FF0000000000000, mvar := 0x3FF0000000000000 } }) (len 1024 8 (small .X)))

theorem witness_SampledProducts :
    (Issues .onlyX .user false false (weights false) ∧ (weights false).b.tab.open_ = false) ∧
    (typeX (weights true) = 10 ∧ (weights true).b.tab.open_ = true ∧ heldSlices (weights true) ≠ 0 ∧ vlX (weights true) ≠ 0 ∧
      (weights true).b.tab.weights.length + vlX (weights true) ≤ 16384 * heldSlices (weights true) ∧ SourceThere (weights true) (.v 1) ∧
      vlX (weights true) ≤ 512) ∧
    (((List.range 2).map fun e => elem (sourceBits (weights true) (.v 2)) 32 e).any refusedWeight = true ∧
      ((List.range 2).map fun e => elem (sourceBits (weights true) (.v 1)) 32 e).any refusedWeight = false ∧
      (buildTable ((List.range 2).map fun e => elem (sourceBits (weights true) (.v 1)) 32 e)).isSome = true) ∧
    (Issues .onlyX .user false false batch ∧ batch.b.ctx.mx.batch = none ∧ maySample batch 0 ∧ heldSlices batch ≠ 0 ∧
      samplingEnds batch (batch.xReg 0) = some 0 ∧ batch.b.ctx.tqx.length < 32 ∧ samplingEnds batch (batch.xReg 1) = none ∧ vlX batch = 1024 ∧
      batch.b.ctx.lq.get (0 : BitVec 2).toFin = [entry 1] ∧ batch.b.ctx.lq.get (1 : BitVec 2).toFin = [entry 2] ∧
      (batch.b.ctx.sq.get (2 : BitVec 2).toFin).length ≤ 6) :=
  ⟨⟨issues_of (by decide +kernel), by decide +kernel⟩,
    ⟨by decide +kernel, by decide +kernel, by decide +kernel, by decide +kernel, by decide +kernel, (fun _ h => by cases h), by decide +kernel⟩,
    by decide +kernel, issues_of (by decide +kernel), by decide +kernel, by unfold maySample; decide +kernel, by decide +kernel⟩

/-! Atomics, windows, ordering, streams, engines, tasks, control registers, contexts. -/

theorem some_of {α : Type} {o : Option α} (h : o.isSome = true) : ∃ a, o = some a := Option.isSome_iff_exists.1 h

def determinate (s : State) : State := { s with tasks := [{ task with det := true, canon := 1 }] }

theorem witness_AtomicResults :
    (Issues .onlyA .user false false (memory 0 3) ∧ (memory 0 3).rset = none ∧ (memory 0 3).det = false ∧
      (∃ t, Reaches (memory 0 3) ((memory 0 3).aReg 1) 4 .atomic 0x200 t ∧ (!(t.cacheEvict 0x200).poisoned 0x200 4) = true) ∧
      ((memory 0 3).b.cache = [] ∧ (memory 0 3).b.out = [] ∧ ∀ c ∈ (memory 0 3).rest, c.out = []) ∧
      (∃ t, Reaches (memory 0 3) ((memory 0 3).aReg 4) 8 .atomic 0x300 t ∧ (!(t.cacheEvict 0x300).poisoned 0x300 8) = true) ∧
      ∃ t, Reaches { memory 0 3 with poison := [0x40] } ((memory 0 3).aReg 1) 4 .atomic 0x200 t ∧ (t.cacheEvict 0x200).poisoned 0x200 4 = true) ∧
    ((onC (fun c => { c with a := c.a.set 1 2 }) (memory 0 3)).aReg 1).toNat % 4 ≠ 0 ∧
    (((memory 0 3).aReg 2).toNat % 8 = 0 ∧ ((memory 0 3).aReg 2).extractLsb' 57 7 = 0 ∧
      (memory 0 3).own ((memory 0 3).aReg 2).toNat 8 .atomic = .error 5) ∧
    (determinate (memory 0 3)).det = true :=
  ⟨⟨issues_of (by decide +kernel), by decide +kernel, by decide +kernel, reach_of (p := fun t => !(t.cacheEvict 0x200).poisoned 0x200 4) (by decide +kernel),
      by decide +kernel, reach_of (p := fun t => !(t.cacheEvict 0x300).poisoned 0x300 8) (by decide +kernel),
      reach_of (p := fun t => (t.cacheEvict 0x200).poisoned 0x200 4) (by decide +kernel)⟩, by decide +kernel, ⟨by decide +kernel, by decide +kernel, err_of (by decide +kernel)⟩, by decide +kernel⟩

/-- As `memory`, with indices that name one element twice. -/
def clash : State := onC (fun c => { c with sq := c.sq.set 1 [entry 0x0000000100000001] }) (memory 0 3)
theorem witness_VectorAtomicResults :
    (FreshA (memory 0 3) ∧ (0 : BitVec 2) ≠ 1 ∧ (memory 0 3).b.ctx.ac.mt ≠ 3 ∧ opTypes 0 (typeA (memory 0 3)) ∧
      ¬ opTypes 1 (typeA (memory 0 3)) ∧ (memory 3 3).b.ctx.ac.mt = 3 ∧ HeadsThere (memory 0 3) true (some 0) (some 1) ∧
      ¬ DropsA (memory 0 3) true (some 0) (some 1) ∧
      (∃ r, gathered (performed (memory 0 3)) .atomic (activeAt (memory 0 3) true (atomicAddr (memory 0 3) 1 1)) = .ok r) ∧
      ((activeAt (memory 0 3) true (atomicAddr (memory 0 3) 1 1)).map (·.2)).Nodup ∧
      ∃ r, updated (fun e x => stepOf (memory 0 3) 0 e x (dataA (memory 0 3) 0 e)) (performed (memory 0 3))
        (activeAt (memory 0 3) true (atomicAddr (memory 0 3) 1 1)) = some r) ∧
    (HeadsThere (memory 0 0) true (some 0) (some 1) ∧ DropsA (memory 0 0) true (some 0) (some 1)) ∧
    (FreshA clash ∧ activeAt clash true (atomicAddr clash 1 1) = [(0, 0x204)] ++ (1, 0x204) :: [] ∧
      ∃ r, gathered (performed clash) .atomic (activeAt clash true (atomicAddr clash 1 1)) = .ok r) ∧
    (let s := determinate (onC (fun c => { c with ra := { c.ra with vt := 10 } }) (memory 0 3))
     FreshA s ∧ opTypes 1 (typeA s) ∧ s.det = true) :=
  ⟨⟨fresh_of (by decide +kernel), by decide, by decide +kernel, by unfold opTypes; decide +kernel, by unfold opTypes; decide +kernel,
      by decide +kernel, heads_of (by decide +kernel), keeps_of (by decide +kernel),
      right_of (by rw [short 2 (by decide +kernel) (by decide)]; decide +kernel),
      by rw [short 2 (by decide +kernel) (by decide)]; decide +kernel,
      some_of (by rw [short 2 (by decide +kernel) (by decide)]; decide +kernel)⟩,
    ⟨heads_of (by decide +kernel), drops_of (by decide +kernel)⟩,
    ⟨fresh_of (by decide +kernel), by rw [short 2 (by decide +kernel) (by decide)]; decide +kernel,
      right_of (by rw [short 2 (by decide +kernel) (by decide)]; decide +kernel)⟩,
    fresh_of (by decide +kernel), by unfold opTypes; decide +kernel, by decide +kernel⟩

theorem below {s m} {n : Nat} {p : Nat → Prop} (hn : vlA s ≤ n) (h : ∀ e < n, activeA s m e = true → p e) (e : Nat)
    (ha : activeA s m e = true) : p e := by
  refine h e ?_ ha
  simp only [activeA, Bool.and_eq_true, decide_eq_true_eq] at ha
  omega

/-- a5 asks for a window of 8 bytes at pool offset 0x10000, a6 for one that ends one byte past the last place, a7 for none. -/
def windows (w : Option Window) : State :=
  onC (fun c => { c with a := ((c.a.set 5 0x1000000008).set 6 0xFFF8800008).set 7 0x1000000004, wins := c.wins.set 2 w }) (memory 0 3)
def window : Window := ⟨0x200, 16, 0x10000, 0, 2⟩
theorem witness_WindowResults :
    (FreshA (windows none) ∧ ((windows none).aReg 5).extractLsb' 17 3 = 0 ∧ ((windows none).aReg 5).extractLsb' 40 24 = 0 ∧
      (3 : BitVec 3).toNat ≤ 3 ∧ windowOf (windows none) 2 = none ∧ opTypes 3 (typeA (windows none)) ∧
      (((windows none).aReg 5).extractLsb' 0 17).toNat = 8 ∧ (((windows none).aReg 5).extractLsb' 20 20).toNat = 0x10000 ∧
      ((windows none).aReg 1).toNat % 8 = 0) ∧
    2 ^ 20 < (((windows none).aReg 6).extractLsb' 20 20).toNat + 16 * (((windows none).aReg 6).extractLsb' 0 17).toNat ∧
    (((windows none).aReg 7).extractLsb' 0 17).toNat < 8 ∧
    (FreshA (windows (some window)) ∧ windowOf (windows (some window)) 2 = some window ∧ window.op.toNat ≤ 3 ∧
      opTypes window.op.toNat window.ty ∧ (windows (some window)).poison = [] ∧ window.ty = typeA (windows (some window)) ∧
      HeadsThere (windows (some window)) true (some 0) (some 1) ∧ ¬ DropsA (windows (some window)) true (some 0) (some 1) ∧
      (∀ e, activeA (windows (some window)) true e = true →
        (elem (indexA (windows (some window)) (some 1)) (sewOf (typeA (windows (some window)))) e).toNat * bytesA (windows (some window)) < window.len) ∧
      (∀ e < window.len / (sewOf window.ty / 8), (window.base + BitVec.ofNat 64 (e * (sewOf window.ty / 8))).extractLsb' 57 7 = 0 ∧
        isRight ((performed (windows (some window))).ownCheck (window.base + BitVec.ofNat 64 (e * (sewOf window.ty / 8))).toNat (sewOf window.ty / 8)
          .atomic) = true) ∧
      ∃ r, mergedInto (performed (windows (some window))) window (stepOf (windows (some window)) window.op.toNat)
        (List.range (window.len / (sewOf window.ty / 8))) = some r) :=
  ⟨⟨fresh_of (by decide +kernel), by decide +kernel, by decide +kernel, by decide, by decide +kernel, by unfold opTypes; decide +kernel,
      by decide +kernel⟩, by decide +kernel, by decide +kernel,
    fresh_of (by decide +kernel), by decide +kernel, by decide, by unfold opTypes; decide +kernel, by decide +kernel, by decide +kernel,
    heads_of (by decide +kernel), keeps_of (by decide +kernel), below (n := 2) (by decide +kernel) (by decide +kernel),
    by decide +kernel, some_of (by decide +kernel)⟩

/-- Loop 15 of the task, bound; x1 = 20, x2 = 2^48, x3 = 1. -/
def loops (p : Loop) : State :=
  onB (fun b => { b with binds := 0x8000 }) (onC (fun c => { c with x := ((c.x.set 1 20).set 2 0x1000000000000).set 3 1 })
    { small .X with tasks := [{ task with loops := task.loops.set 15 p }] })
/-- Eight pending ranges, none joining the next. -/
def eight : Loop := ⟨1, (List.range 8).map fun i => (100 + 4 * i, 102 + 4 * i)⟩
theorem hasLoop (p : Loop) : HasLoop (loops p) 15 p := ⟨{ task with loops := task.loops.set 15 p }, rfl, rfl⟩
theorem witness_AlmanacFrontiers :
    (Issues .both .user false false (loops eight) ∧ (loops eight).rset = none ∧ (15 : Reg).toNat < 16 ∧
      (loops eight).b.binds.getLsbD 15 = true ∧ (loops eight).b.binds.getLsbD 14 = false ∧
      2 ^ 48 < ((loops eight).reg 2).toNat + ((loops eight).reg 3).toNat) ∧
    (HasLoop (loops eight) 15 eight ∧ LoopOk eight ∧ eight.f < ((loops eight).reg 1).toNat ∧ eight.pend.length = 8 ∧
      ∀ r ∈ eight.pend, r.2 < 20 ∨ 20 + 1 < r.1) ∧
    (HasLoop (loops ⟨20, []⟩) 15 ⟨20, []⟩ ∧ ((loops ⟨20, []⟩).reg 1).toNat ≤ 20 ∧ LoopOk ⟨20, []⟩ ∧ ((loops ⟨20, []⟩).reg 0).toNat = 0) :=
  ⟨⟨issues_of (by decide +kernel), by decide +kernel⟩, ⟨hasLoop _, ⟨by decide, by decide, by decide⟩, by decide +kernel, by decide, by decide⟩,
    hasLoop _, by decide +kernel, ⟨by decide, by decide, by decide⟩, by decide +kernel⟩

/-- Barrier 79 counts three; x1 = 79, x2 its token, x3 = 80, x4 a token of another phase. -/
def barriers (x : Barrier) : State :=
  onC (fun c => { c with x := (((c.x.set 1 79).set 2 0x4F05).set 3 80).set 4 0x4FFE }) { small .X with barriers := (small .X).barriers.set 271 x }
/-- The A-hart waits at it too. -/
def blocked : State := onB (fun b => { b with waitA := some (.barrier 7 0x4F05) }) (barriers ⟨3, 5, 0⟩)
def monitored (irq : Bool) (m : Memory) : State := onB (fun b => { b with irq32 := irq }) { memory 0 3 with mem := m }
/-- Sixty-four other braids hold the die's monitors. -/
def taken64 : State := { memory 0 3 with rest := (List.range 64).map fun i => { Braid.init with id := 9 + i, monitor := true } }
theorem noneBlocked {s place} (h : s.rest = []) : ∀ c ∈ s.rest, ∀ hh, ¬ BlockedAt s c hh place := by simp [h]
theorem witness_BarriersAndMonitors :
    (Issues .both .user false false (barriers ⟨3, 5, 2⟩) ∧ (barriers ⟨3, 5, 2⟩).rset = none ∧ ((barriers ⟨3, 5, 2⟩).reg 1).toNat = 79 ∧
      (barrierOf (barriers ⟨3, 5, 2⟩) 79).count = 3 ∧ 79 < ((barriers ⟨3, 5, 2⟩).reg 3).toNat ∧ (barrierOf (small .X) 79).count = 0 ∧
      ((barriers ⟨3, 5, 2⟩).reg 2).extractLsb' 32 32 = 0 ∧ (barrierOf (barriers ⟨3, 6, 2⟩) 79).phase = (0x4F05 : Word).setWidth 8 + 1 ∧
      (barrierOf (barriers ⟨3, 5, 2⟩) 79).phase ≠ (0x4FFE : Word).setWidth 8 + 1) ∧
    ((blocked.braids.map (·.id)).Nodup ∧ (∀ c ∈ blocked.rest, ∀ h, ¬ BlockedAt blocked c h (barrierPlace blocked 79)) ∧
      blocked.waitOf blocked.hart = none ∧ blocked.waitOf (otherHart blocked.hart) = some (.barrier 7 0x4F05) ∧
      barrierPlace blocked ((0x4F05 : Word).extractLsb' 8 8).toNat = barrierPlace blocked 79) ∧
    (Issues .onlyA .user false false (memory 0 3) ∧ (∃ t, Reaches (memory 0 3) ((memory 0 3).aReg 1) 8 .load 0x200 t ∧
      (!t.poisoned 0x200 8) = true) ∧ (memory 0 3).mem.read 0x200 8 = ((memory 0 3).aReg 0).toNat ∧ (memory 0 3).b.irq32 = false) ∧
    ((onB (fun b => { b with monitor := true }) (monitored true [])).b.monitor = true ∧ (monitored true []).b.irq32 = true) ∧
    monitorsTaken taken64 ∧ (¬ monitorsTaken (monitored true []) ∧ (monitored true []).b.irq32 = true ∧
      (monitored true []).b.status.getLsbD 7 = true) ∧ (monitored false [(0x200, 1)]).mem.read 0x200 8 ≠ 0 ∧
    (memory 0 3).own ((memory 0 3).aReg 2).toNat 8 .load = .error 4 :=
  ⟨⟨issues_of (by decide +kernel), by decide +kernel⟩,
    ⟨by decide +kernel, noneBlocked (by decide +kernel), by decide +kernel, by decide +kernel, by decide +kernel⟩,
    ⟨issues_of (by decide +kernel), reach_of (p := fun t => !t.poisoned 0x200 8) (by decide +kernel), by decide +kernel⟩,
    by decide +kernel, by unfold monitorsTaken; decide +kernel,
    ⟨by unfold monitorsTaken; decide +kernel, by decide +kernel, by decide +kernel⟩, by decide +kernel, err_of (by decide +kernel)⟩

/-- A line at 0x200 whose first byte the A-hart stored; a1 = 0x200, a2 = 2^39 − 128, a3 = 128. -/
def cached (level : Level) : State :=
  onB (fun b => { b with level := level, cache := [⟨8, 0x55, 1, 0⟩] })
    (onC (fun c => { c with a := (((c.a.set 1 0x200).set 2 0x7FFFFFFF80).set 3 128).set 4 0x10000 }) (small .A))
/-- An item that has not performed, and another braid of the die whose release has ordered one for the die. -/
def item (space : BitVec 2) (va : Word) : BufItem where
  space := space
  va := va
  key := va.toNat
  size := 8
  data := 7
  op := 0
  ty := 7
  grp := none
  stride := 0
  ticketed := false
  home := true
  level := 0
def ordered : State :=
  { cached .user with rest := [{ Braid.init with id := 2, live := true, core := 1, out := [{ item 0 0x200 with level := 4 }] }] }
theorem canonicalSmall {s} (h : s.mem.wf = true ∧ s.dram.wf = true) : State.Canonical s := h
theorem witness_FencesAndMaintenance :
    (Issues .both .user false false (cached .user) ∧ (cached .user).rset = none ∧ (cached .user).hart = .A ∧
      ((cached .user).b.cache.map Line.tag).Nodup ∧ (cached .user).poison = [] ∧ EnginesDone (small .X) ∧
      ¬ EnginesDone (lengths [] .active 10)) ∧
    ((∀ i ∈ (cached .user).b.buf, i.space ≠ 3) ∧ (∃ i ∈ (onB (fun b => { b with buf := [item 3 0x200] }) (cached .user)).b.buf, i.space = 3) ∧
      ((ordered.braids.map (·.id)).Nodup ∧ (∃ c ∈ ordered.rest, ∃ i ∈ c.out, within (i.level - 1) c.core ordered.b.core = true) ∧
        ∀ c ∈ (cached .user).rest, c.out = []) ∧ (cached .system).b.buf = [] ∧
      (onB (fun b => { b with buf := [item 0 0x200] }) (cached .system)).b.buf ≠ [] ∧ (cached .system).rset = none ∧ (cached .system).xres = []) ∧
    (Issues .onlyA .system false false (cached .system) ∧ ((cached .system).aReg 0).toNat < 2 ^ 16 ∧
      ((cached .system).aReg 1).extractLsb' 57 7 = 0 ∧ 2 ^ 16 ≤ ((cached .system).aReg 4).toNat) ∧
    (Issues .onlyA .firmware false false (cached .firmware) ∧ DieLines ((cached .firmware).aReg 1) ((cached .firmware).aReg 3) ∧
      DieRange ((cached .firmware).aReg 1) ((cached .firmware).aReg 3) ∧ State.Canonical (cached .firmware) ∧
      DieLines ((cached .firmware).aReg 2) ((cached .firmware).aReg 3) ∧ ¬ DieRange ((cached .firmware).aReg 2) ((cached .firmware).aReg 3)) ∧
    ((cached .user).cached 7 = none ∧ (cached .user).b.live = true ∧ (cached .user).cached 8 = some ⟨8, 0x55, 1, 0⟩) :=
  ⟨⟨issues_of (by decide +kernel), by decide +kernel, by decide +kernel, by decide +kernel, by decide +kernel, (fun h => by cases h),
      fun h => (h rfl).2 7 rfl⟩,
    ⟨by decide +kernel, by decide +kernel, ⟨by decide +kernel, by decide +kernel, by decide +kernel⟩, by decide +kernel, by decide +kernel⟩,
    ⟨issues_of (by decide +kernel), by decide +kernel⟩,
    ⟨issues_of (by decide +kernel), by unfold DieLines; decide +kernel, by unfold DieRange; decide +kernel, canonicalSmall (by decide +kernel),
      by unfold DieLines; decide +kernel, by unfold DieRange; decide +kernel⟩, by decide +kernel⟩

/-! Streams, cards, tasks, control registers, contexts. -/

/-- A stream 7 of i32 to open: a1 = 0x200 to a3 = 0x400, a4 = 2^57 − 8, a5 = 1; four elements, and the stream as given. -/
def streams (t : Stream) : State :=
  onC (fun c => { c with
    a := ((((c.a.set 1 0x200).set 3 0x400).set 4 0x1FFFFFFFFFFFFF8).set 5 1).set 6 0x1F0, streams := c.streams.set 7 t }) (len 4 2 (small .A))
def running (st : StreamState) (trigs : List Trigger) : Stream := { Stream.init with st := st, n := 100, ctr := 10, ty := 2, trigs := trigs }
/-- A fill of eight bytes at 0x3000, its card at 0x400. -/
def fillCard : Memory := [(0x400, 1), (0x409, 0x30), (0x418, 8), (0x420, 0x5A)]
def withCardAt (s : State) : State := { s with mem := fillCard }

def noneDueB (s : State) (n : BitVec 3) : Bool := (s.stream n).trigs.all fun g => decide ((s.stream n).ctr < g.thr)
theorem noneDue_of {s n} (h : noneDueB s n = true) : NoneDue s n := fun g hg => by
  simpa using List.all_eq_true.1 h g hg

def cardB (s : State) (va : Word) : Bool :=
  match loads s va 8 8 with
  | some (card, _) => cardOk 0 card && (cardAddrs 0 card).all fun a => decide (a < 2 ^ 57)
  | none => false
theorem card_of {s va} (h : cardB s va = true) : ∃ card u, CardRead s 0 va card [] u := by
  unfold cardB at h
  split at h
  · rename_i card u he
    simp only [Bool.and_eq_true] at h
    exact ⟨card, u, u, he, h.1, fun a ha => by simpa using List.all_eq_true.1 h.2 a ha, fun _ => ⟨rfl, rfl⟩, fun h => by cases h⟩
  · cases h

theorem witness_StreamInstructions :
    (Issues .onlyA .user true false (streams .init) ∧ (streams .init).rset = none ∧ (7 : Reg).toNat < 8 ∧
      ((streams .init).stream 7).st ≠ .active ∧ ((streams .init).aReg 1).toNat % 4 = 0 ∧ ((streams .init).aReg 3).toNat % 4 = 0 ∧
      EndFits 0 0x200 16 ∧ EndFits 1 0x400 16 ∧ NoneDue (streams .init) 7) ∧
    ¬ EndFits 0 ((streams .init).aReg 4).toNat 16 ∧ ((streams .init).aReg 5).toNat % 4 ≠ 0 ∧ ¬ FabricOpen (streams .init) ∧
    FabricOpen (fabric (streams .init)) ∧ ((streams (running .faulted [])).stream 7).st = .faulted ∧
    (NoneDue (streams (running .active [⟨11, 3⟩])) 7 ∧ ((streams (running .active [⟨11, 3⟩])).stream 7).st = .active) ∧
    (((streams (running .active [])).stream 7).ctr < min ((streams (running .active [])).aReg 1).toNat ((streams (running .active [])).stream 7).n) ∧
    (((streams (running .active [])).aReg 6).toNat % 64 ≠ 0 ∧ ((streams (running .active [])).aReg 3).toNat % 64 = 0) ∧
    ((∃ card u, CardRead (withCardAt (streams (running .active []))) 0 0x400 card [] u) ∧ (streams (running .active [])).b.buf = [] ∧
      ((streams (running .active [])).stream 7).trigs.length < 4 ∧ 4 ≤ (running .active (.replicate 4 ⟨11, 3⟩)).trigs.length ∧
      (running .cancelled []).st = .cancelled) :=
  ⟨⟨issues_of (by decide +kernel), by decide +kernel, by decide, by decide +kernel, by decide +kernel, by decide +kernel,
      Or.inr (by decide), ⟨by decide, by decide⟩, noneDue_of (by decide +kernel)⟩,
    (fun h => by rcases h with h | h <;> revert h <;> decide +kernel), by decide +kernel, (fun h => absurd h.1 (by decide +kernel)),
    ⟨by decide +kernel, by decide +kernel, by decide +kernel⟩, by decide +kernel, ⟨noneDue_of (by decide +kernel), by decide +kernel⟩,
    by decide +kernel, by decide +kernel, card_of (by decide +kernel), by decide +kernel, by decide +kernel, by decide, by decide⟩

/-- A header of one qubit of c64 at 0x4000, and a map image of three at 0x4100; a gate card at 0x4200 for the first. a1 names the cards, a2
the header's address 0x4000, a3 the image. -/
def engines (card : Word) : State :=
  onB (fun b => { b with jobsIssued := 70 }) (onC (fun c => { c with a := (((c.a.set 1 card).set 2 0x4000).set 3 0x4100).set 4 70 })
    { small .A with mem := [(0x400, 1), (0x409, 0x30), (0x418, 8), (0x4000, 1), (0x4001, 16), (0x4042, 1), (0x4100, 3), (0x4101, 16),
      (0x4109, 1), (0x410A, 2), (0x4142, 1), (0x4202, 1), (0x4209, 0x40), (0x4211, 0x50)] })
def cardB1 (s : State) (va : Word) : Bool :=
  match loads s va 8 8 with
  | some (card, u) => cardOk 1 card && ((cardAddrs 1 card).all fun a => decide (a < 2 ^ 57)) && match loads u (BitVec.ofNat 64 (cardBase card)) 8 16 with
    | some (hd, t) => Header.ok hd 0 && qubitsOk card (.of hd) && t.groupOk (.of hd)
    | none => false
  | none => false
theorem card1_of {s va} (h : cardB1 s va = true) : ∃ card hd t, CardRead s 1 va card hd t := by
  unfold cardB1 at h
  split at h
  · rename_i card u he
    simp only [Bool.and_eq_true] at h
    obtain ⟨⟨h1, h2⟩, h3⟩ := h
    split at h3
    · rename_i hd t hh
      simp only [Bool.and_eq_true] at h3
      exact ⟨card, hd, t, u, he, h1, fun a ha => by simpa using List.all_eq_true.1 h2 a ha, (fun h => by cases h),
        fun _ => ⟨hh, h3.1.1, h3.1.2, h3.2⟩⟩
    · cases h3
  · cases h
def job (id num : Nat) (st : JobState) : Job where
  id := id
  braid := 1
  task := 1
  num := num
  cls := 0
  card := (([1, 0, 0, 0, 0, 0, 0, 0, 0, 0x30] ++ .replicate 14 0) ++ [8]) ++ .replicate 39 0
  image := none
  hdrAddr := 0
  st := st
  cause := 0
  root := 0
  asn := 0
  grp := none
  srcStream := none
  regions := []
  age := id
  mbits := 0

theorem witness_EngineInstructions :
    (Issues .onlyA .user false false (engines 0x400) ∧ (engines 0x400).rset = none ∧ (engines 0x400).b.buf = [] ∧
      ((engines 0x400).aReg 1).toNat % 64 = 0 ∧ ((engines 0x420).aReg 1).toNat % 64 ≠ 0) ∧
    (∃ r, loads (engines 0x4000) ((engines 0x4000).aReg 1) 8 8 = some r ∧ cardOk 0 r.1 = false) ∧
    (∃ card u, CardRead (engines 0x400) 0 ((engines 0x400).aReg 1) card [] u) ∧
    (∃ card hd t, CardRead (engines 0x4200) 1 ((engines 0x4200).aReg 1) card hd t) ∧ ¬ JobsFull (engines 0x400) ∧
    JobsFull { engines 0x400 with jobs := (List.range 64).map fun i => job i (i + 1) .waiting } ∧
    (((engines 0x400).aReg 2).toNat % 4096 = 0 ∧ ((engines 0x400).aReg 1).toNat % 4096 ≠ 0 ∧ ((engines 0x400).aReg 3).toNat % 64 = 0) ∧
    (∃ r, loads (engines 0x400) ((engines 0x400).aReg 3) 8 16 = some r ∧ Header.ok r.1 3 = true ∧ r.2.groupOk (.of r.1) = true) ∧
    (∃ r, loads (engines 0x400) ((engines 0x400).aReg 2) 8 16 = some r ∧ Header.ok r.1 3 = false) ∧
    ((engines 0x400).b.jobsIssued < ((engines 0x400).aReg 1).toNat ∧ 6 + 63 < (engines 0x400).b.jobsIssued ∧
      (engines 0x400).b.jobsIssued ≤ ((engines 0x400).aReg 4).toNat + 63 ∧
      ([job 3 70 .running].find? fun j => decide (j.braid = 1 ∧ j.num = 70)) = some (job 3 70 .running) ∧
      (let s := { engines 0x400 with jobs := [job 3 70 .completed] }
       (s.jobs.find? fun j => s.together j.braid s.b && j.num == 70) = some (job 3 70 .completed))) := by
  have look : ∀ {s : State} {va : Word} {z n : Nat} {p : List Byte × State → Bool},
      (match loads s va z n with | some r => p r | none => false) = true → ∃ r, loads s va z n = some r ∧ p r = true := by
    intro s va z n p h
    split at h
    · exact ⟨_, by assumption, h⟩
    · cases h
  refine ⟨⟨issues_of (by decide +kernel), by decide +kernel⟩, ?_, card_of (by decide +kernel), card1_of (by decide +kernel),
    by unfold JobsFull; decide +kernel, by unfold JobsFull; decide +kernel, by decide +kernel, ?_, ?_, by decide +kernel⟩
  · obtain ⟨r, h1, h2⟩ := look (s := engines 0x4000) (va := (engines 0x4000).aReg 1) (z := 8) (n := 8) (p := fun r => !cardOk 0 r.1) (by decide +kernel)
    exact ⟨r, h1, by simpa using h2⟩
  · obtain ⟨r, h1, h2⟩ := look (s := engines 0x400) (va := (engines 0x400).aReg 3) (z := 8) (n := 16)
      (p := fun r => Header.ok r.1 3 && r.2.groupOk (.of r.1)) (by decide +kernel)
    exact ⟨r, h1, by simpa using h2⟩
  · obtain ⟨r, h1, h2⟩ := look (s := engines 0x400) (va := (engines 0x400).aReg 2) (z := 8) (n := 16) (p := fun r => !Header.ok r.1 3) (by decide +kernel)
    exact ⟨r, h1, by simpa using h2⟩

/-- a1 = 0x400 and a2 = 63; a queue of 256 cards; the other hart ended. -/
def launches (cards : Nat) (endX : Bool) : State :=
  onC (fun c => { c with a := ((c.a.set 1 0x400).set 2 63).set 3 0x480, endX := endX })
    { small .A with cards := .replicate cards ⟨63, 0, 0, 0, none, false, 0⟩ }
theorem streamsDone_of {s : State} (h : (∀ n : BitVec 3, (s.stream n).st ≠ .active ∧ (s.stream n).st ≠ .faulted)) : StreamsDone s := fun _ => h
theorem witness_TaskInstructions :
    (Issues .onlyA .user false false (launches 0 false) ∧ (launches 0 false).rset = none ∧ ((launches 0 false).aReg 1).toNat % 256 = 0 ∧
      ¬ QueueFull (launches 0 false) 63 ∧ QueueFull (launches 256 false) 63 ∧ ((launches 0 false).aReg 3).toNat % 256 ≠ 0) ∧
    (Issues .both .user false false (small .X) ∧ (small .X).thisTask = some task ∧ (11 : Reg).toNat < 12 ∧
      (dealt task (small .X).b.idx).1 + taken (small .X) < (dealt task (small .X).b.idx).2 ∧
      (dealt task 0).2 ≤ (dealt task 0).1 + taken (onC (fun c => { c with curX := 4 }) (small .X))) ∧
    ¬ StreamsDone (lengths [] .active 10) ∧
    (StreamsDone (launches 0 true) ∧ (∀ n, NoneDue (launches 0 true) n) ∧ (launches 0 true).ended (otherHart (launches 0 true).hart) = true ∧
      (∀ c ∈ (launches 0 true).rest, c.left = false) ∧ (launches 0 true).b.left = false) ∧
    (StreamsDone (launches 0 false) ∧ (launches 0 false).ended (otherHart (launches 0 false).hart) = false) :=
  ⟨⟨issues_of (by decide +kernel), by decide +kernel, by decide +kernel, by unfold QueueFull; decide +kernel, by unfold QueueFull; decide +kernel,
      by decide +kernel⟩, ⟨issues_of (by decide +kernel), by decide +kernel⟩, (fun h => (h rfl 7).1 rfl),
    ⟨streamsDone_of (by decide +kernel), fun n => noneDue_of (by revert n; decide +kernel), by decide +kernel, by decide +kernel, by decide +kernel⟩,
    streamsDone_of (by decide +kernel), by decide +kernel⟩

/-- A dual set of braids 1 and 2, led by the first, with five releases behind it. -/
def dual : RSet where
  task := 1
  idx := 0
  members := [(1, 0), (2, 1)]
  leader := 0
  rel := 5
  degraded := false
  failed := []
  logA := []
  logX := []
  pairs := []
  trims := []
  logF := []
  stop := none
  count0 := 2
  deg0 := false

theorem witness_SmallStateInstructions :
    (Issues .onlyA .user true false (onC (fun c => { c with inLand := true }) (small .A)) ∧ (7 : Reg).toNat < 8 ∧
      (onC (fun c => { c with inLand := true }) (small .A)).landing = true) ∧
    (Issues .onlyA .user true false (small .A) ∧ (small .A).landing = false) ∧
    (Issues .onlyX .user false false (small .X) ∧ Issues .both .user false false (small .X) ∧ (small .X).rset = none) ∧
    (Issues .both .system false false (handler (small .A)) ∧ (handler (small .A)).rset = none ∧ (handler (small .A)).b.irq32 = false ∧
      (handler (small .A)).b.irq34 = false ∧ (handler (small .A)).b.irq35 = false ∧
      (onB (fun b => { b with irq34 := true }) (handler (small .A))).b.irq34 = true) ∧
    (let s := { handler (small .A) with sets := [dual] }
     Issues .both .system false false s ∧ s.rset = some dual) :=
  ⟨⟨issues_of (by decide +kernel), by decide, by decide +kernel⟩, ⟨issues_of (by decide +kernel), by decide +kernel⟩,
    ⟨issues_of (by decide +kernel), issues_of (by decide +kernel), by decide +kernel⟩, ⟨issues_of (by decide +kernel), by decide +kernel⟩,
    issues_of (by decide +kernel), by decide +kernel⟩

/-- Register `n` is named for a read or a write, and meets `p`. -/
def named (s : State) (n : BitVec 12) (w : Bool) (p : CtlReg → Hart → Bool) : Bool :=
  match ctlAccess s n w with
  | .ok (c, h) => p c h
  | .error _ => false
theorem named_of {s n w p} (h : named s n w p = true) : ∃ c g, ctlAccess s n w = .ok (c, g) ∧ p c g = true := by
  unfold named at h
  split at h
  · rename_i c g he
    exact ⟨c, g, he, h⟩
  · cases h
def stops (s : State) (n : BitVec 12) (w : Bool) (e : Nat × Word) : Bool :=
  match ctlAccess s n w with
  | .ok _ => false
  | .error x => x == e
theorem stops_of {s n w e} (h : stops s n w e = true) : ctlAccess s n w = .error e := by
  unfold stops at h
  split at h
  · cases h
  · rename_i x he
    rw [he, beq_iff_eq.1 h]
/-- a1 = 0x400, where a record's bound and a group's descriptor of members 0 and 1 lie in turn. -/
def records (m : Memory) : State := onC (fun c => { c with a := c.a.set 1 0x400 }) { small .A with mem := m, lmember := 1 }
theorem witness_ControlRegisters :
    (Issues .both .user false false (records []) ∧ ctlAccess (records []) 0x007 false = .error (1, 0) ∧
      ctlAccess (records []) 0x000 true = .error (2, 0) ∧ ctlAccess (records []) 0x060 true = .error (1, 0)) ∧
    (∃ c h, ctlAccess (records []) 0x060 false = .ok (c, h) ∧ (c.scope == .core && (records []).rset.isNone) = true) ∧
    (∃ c h, ctlAccess (handler (small .A)) 0x801 true = .ok (c, h) ∧ decide (c.n = 0x001 ∧ h = .X ∧ c.n ≠ 0x014 ∧ c.n ≠ 0x030) = true) ∧
    (refused 0x001 18 ∧ ¬ refused 0x001 17 ∧ refused 0x074 0xC00 ∧ ¬ refused 0x032 0x100000) ∧
    (∃ c h, ctlAccess (records [(0x400, 5)]) 0x014 true = .ok (c, h) ∧ decide (c.n = 0x014 ∧ (records []).reg 1 ≠ 0) = true) ∧
    ((records []).rset = none ∧ (records []).b.buf = [] ∧ (loads (records [(0x400, 5)]) 0x400 4 1).isSome = true) ∧
    (match loads (records [(0x400, 2), (0x441, 1)]) 0x400 8 8 with
      | some (hd, u) => groupHeaderOk hd && match loads u (0x400 + 64) 1 (fieldAt hd 0 2) with
        | some (ms, _) => decide ((Group.ofBytes hd ms).members.Nodup ∧ 1 ∈ (Group.ofBytes hd ms).members)
        | none => false
      | none => false) = true :=
  ⟨⟨issues_of (by decide +kernel), stops_of (by decide +kernel), stops_of (by decide +kernel), stops_of (by decide +kernel)⟩,
    named_of (p := fun c _ => c.scope == .core && (records []).rset.isNone) (by decide +kernel),
    named_of (p := fun c h => decide (c.n = 0x001 ∧ h = .X ∧ c.n ≠ 0x014 ∧ c.n ≠ 0x030)) (by decide +kernel), ⟨by unfold refused; decide +kernel, by unfold refused; decide +kernel, by unfold refused; decide +kernel, by unfold refused; decide +kernel⟩,
    named_of (p := fun c _ => decide (c.n = 0x014 ∧ (records []).reg 1 ≠ 0)) (by decide +kernel), by decide +kernel, by decide +kernel⟩

/-- What lies in the first GiB of a small state is held, in the core's translations and in those of the engines. -/
theorem held {s : State} {x : Xlate} {va n : Nat}
    (ht : s.tlb = [⟨.l1 0, 0, 0, 2 ^ 30, 0x5F⟩, ⟨.agents, 0, 0, 2 ^ 30, 0x5F⟩]) (hq : x.core = some 0 ∨ x.core = none) (ha : x.asn = 0)
    (hn : va + n ≤ 2 ^ 30) (hp : s.poison = []) : Held s x va va n := by
  refine ⟨by omega, hp, fun off h => ?_, ⟨match x.core with | some c => .l1 c | none => .agents, 0, 0, 2 ^ 30, 0x5F⟩, (by decide : (0x5F : Word).getLsbD 1 = true),
    (by decide : (0x5F : Word).getLsbD 2 = true), fun _ => (by decide : (0x5F : Word).getLsbD 4 = true), fun off h => ⟨?_, ?_⟩⟩
  · unfold windowBase
    omega
  · have h1 : va + off < 2 ^ 30 := by omega
    have d1 : (TlbSite.l1 0 == TlbSite.agents) = false := rfl
    rcases hq with hq | hq <;>
      simp [State.tlbFind, State.tlbHit, ht, hq, ha, List.find?, d1, Nat.lt_of_lt_of_eq h1 (by decide : 2 ^ 30 = 1073741824)]
  · have h0 : pteTier (0x5F : Word).toNat = 0 := by decide
    have h1 : ptePa (0x5F : Word).toNat = 0 := by decide
    have h2 : Config.tier0Bytes = 96 * 2 ^ 30 := rfl
    simp only [keyOf, h0, h1, h2]
    rw [Nat.zero_add, Nat.mod_eq_of_lt (by omega : va + off < 2 ^ 30)]
    simp only [Nat.zero_ne_one, if_false]
    rw [if_pos (by omega)]

/-- In the handler, with the area at 0x200000. -/
def saving : State := onC (fun c => { c with a := c.a.set 1 0x200000 }) (handler (small .A))
theorem areaHeld : AreaHeld saving 0x200000 0x200000 :=
  ⟨by decide, held rfl (Or.inl (by decide +kernel)) (by decide +kernel) (by decide) rfl, by decide +kernel⟩
theorem fits : FitsArea (interrupted saving) := by
  refine ⟨by decide +kernel, by decide +kernel, by decide +kernel, by decide +kernel, by decide +kernel, by decide +kernel, by decide +kernel, ?_, ?_⟩
  · rintro p (rfl | rfl) <;> decide +kernel
  · intro b h
    cases h
theorem witness_ContextSwitch :
    (Issues .onlyA .system false false saving ∧ saving.sysMode = true ∧ (saving.aReg 1).toNat = 0x200000 ∧ AreaHeld saving 0x200000 0x200000 ∧
      State.Canonical saving ∧ FitsArea (interrupted saving) ∧ (∀ r, saving.b.hwm.get r ≤ 16)) ∧
    ((onB (fun b => { b with level := .system }) (small .A)).sysMode = false ∧ ((memory 0 3).aReg 1).toNat % 0x10000 ≠ 0 ∧
      (flushed (handler (memory 0 3))).access (handler (memory 0 3)).ownXlate 0 0x40000000 8 .load true = .error 4 ∧
      (flushed (handler (memory 0 3))).access (handler (memory 0 3)).ownXlate 0 0x40000000 8 .store true = .error 5) ∧
    areaBad (areaWord (flushed saving) 0x200000) = true ∧
    (let s := { saving with mem := [(0x200851, 8), (0x200A50, 4)] }
     areaBad (areaWord (flushed s) 0x200000) = false ∧ areaWord (flushed s) 0x200000 0xA50 ≤ s.b.ctx.xc.mgrant.toNat + openLoad s) ∧
    (let other : Braid := { Braid.init with live := true, id := 2, ctx := { Ctx.init with xc := { XRegs.init with mgrant := 1 } } }
     let s := { saving with mem := [(0x200851, 8), (0x200A50, 4)], rest := [other] }
     areaBad (areaWord (flushed s) 0x200000) = false ∧ s.b.ctx.xc.mgrant.toNat + openLoad s < areaWord (flushed s) 0x200000 0xA50) :=
  ⟨⟨issues_of (by decide +kernel), by decide +kernel, by decide +kernel, areaHeld, canonicalSmall (by decide +kernel), fits, by decide +kernel⟩,
    ⟨by decide +kernel, by decide +kernel, err_of (by decide +kernel), err_of (by decide +kernel)⟩, by decide +kernel, by decide +kernel, by decide +kernel⟩

/-! Events. -/

theorem witness_EventsReachTheirBraid : BraidEvent 1 (.idleWake 1 .X) ∧ (small .A).focus 9 = none ∧ ((small .A).focus 1).isSome = true :=
  ⟨by simp [BraidEvent], by decide +kernel, by decide +kernel⟩

/-- The hart waits; its registers and memory as in `memory`. -/
def waiting (h : Hart) (w : Wait) : State :=
  onB (fun b => match h with | .A => { b with waitA := some w } | .X => { b with waitX := some w }) { memory 0 3 with hart := h }
theorem acting_of {s : State} {b : Nat} {h : Hart} (p : decide (s.b.id = b ∧ s.b.live = true ∧ s.hart = h ∧ s.heldBack = false) = true) :
    Acting s b h := by
  simpa [Acting] using p
theorem witness_WaitsEnd :
    ((waiting .A (.word 4 0x200 0)).boundary = none ∧ (waiting .A .idle).boundary = none ∧ (waiting .X (.pop (.lq 0))).boundary = none ∧
      ((onB (fun b => { b with irq32 := true }) (waiting .A .idle)).boundary).isSome = true ∧
      (let s := onB (fun b => { b with irq32 := true, monitor := true, status := 0x080, ctx := { b.ctx with endA := true } }) (waiting .A (.word 4 0x200 0))
       s.boundary = none ∧ s.b.monitor = true ∧ s.b.irq32 = true ∧ s.b.status.getLsbD 7 = true)) ∧
    (Acting (waiting .A (.word 4 0x200 0)) 1 .A ∧ Ends 1 .A (.mwaitWake 1) (fun w => ∃ d v o, w = .word d v o) ∧
      (∀ w, (waiting .A .idle).waitOf .A = some w → ¬ ∃ d v o, w = .word d v o)) ∧
    ((waiting .A (.word 4 0x200 0)).rset = none ∧
      (∃ t, Reaches (waiting .A (.word 4 0x200 0)) 0x200 8 .load 0x200 t ∧ (!t.poisoned 0x200 8) = true) ∧
      (¬ monitorsTaken (waiting .A (.word 4 0x200 0)) ∧ (waiting .A (.word 4 0x200 0)).mem.read 0x200 8 = 0 ∧
        (waiting .A (.word 4 0x200 1)).mem.read 0x200 8 ≠ 1 ∧ (waiting .A (.word 4 0x200 0)).b.irq32 = false) ∧
      (monitorsTaken (onB (fun b => { b with waitA := some (.word 4 0x200 0) }) taken64))) ∧
    (Acting blocked 1 .X ∧ Acting { blocked with hart := .A } 1 .A ∧ blocked.waitOf .A = some (.barrier 7 0x4F05) ∧
      (barrierOf blocked 79).count ≠ 0 ∧ (barrierOf blocked 79).phase = (0x4F05 : Word).setWidth 8) ∧
    (let s := onB (fun b => { b with waitX := some (.almanac 15 2) }) (loops eight)
     Acting s 1 .X ∧ HasLoop s 15 eight ∧ eight.f < 2) ∧
    (let s := onB (fun b => { b with waitA := some (.stream 4 7 50) }) (streams (running .active []))
     Acting s 1 .A ∧ (s.stream 7).ctr < min 50 (s.stream 7).n) ∧
    (let s := onB (fun b => { b with waitA := some (.trim 4 40 7 10) }) (lengths [] .active 32)
     Acting s 1 .A ∧ First s ∧ s.b.ctx.grants.length < 4 ∧ (s.stream 7).ty = 10 ∧ 1024 / sewOf 10 ≤ (s.stream 7).ctr - (s.stream 7).cursor) ∧
    (Acting (waiting .A .drain) 1 .A ∧ StreamsDone (waiting .A .drain) ∧ (∀ n, NoneDue (waiting .A .drain) n) ∧
      (waiting .A .drain).ended (otherHart .A) = false) ∧
    (Acting (waiting .X .engines) 1 .X ∧ EnginesDone (waiting .X .engines) ∧ Acting (waiting .A .idle) 1 .A) ∧
    (let s := onB (fun b => { b with waitX := some (.post 15 20 1) }) (loops eight)
     Acting s 1 .X ∧ HasLoop s 15 eight ∧ eight.f < 20 ∧ 8 ≤ eight.pend.length) ∧
    (popBlocked (waiting .X (.pop (.lq 0))) (.lq 0) ∧ ¬ pushBlocked (waiting .X (.push .kq)) .kq ∧
      (waiting .A (.push .grant)).b.ctx.grants.length < 4 ∧ ¬ JobsFull (waiting .A .jobs) ∧
      ((waiting .A (.trigs 7)).stream 7).trigs.length < 4 ∧ 4 ≤ (waiting .A (.reattach 4)).b.ctx.xc.mgrant.toNat + openLoad (waiting .A (.reattach 4)) ∧
      4 ≤ openMatt (waiting .X (.slices 3 4)) ∧ openMatt (waiting .X (.slices 3 5)) < 5) :=
  ⟨by decide +kernel, ⟨acting_of (by decide +kernel), by simp [Ends], fun w h => by cases h; simp⟩,
    ⟨by decide +kernel, reach_of (p := fun t => !t.poisoned 0x200 8) (by decide +kernel),
      ⟨by unfold monitorsTaken; decide +kernel, by decide +kernel⟩, by unfold monitorsTaken; decide +kernel⟩,
    ⟨acting_of (by decide +kernel), acting_of (by decide +kernel), by decide +kernel⟩,
    ⟨acting_of (by decide +kernel), hasLoop _, by decide⟩, ⟨acting_of (by decide +kernel), by decide +kernel⟩,
    ⟨acting_of (by decide +kernel), (fun g r h => by cases h), by decide +kernel⟩,
    ⟨acting_of (by decide +kernel), streamsDone_of (by decide +kernel), fun n => noneDue_of (by revert n; decide +kernel), by decide +kernel⟩,
    ⟨acting_of (by decide +kernel), (fun h => by cases h), acting_of (by decide +kernel)⟩,
    ⟨acting_of (by decide +kernel), hasLoop _, by decide, by decide⟩,
    (fun e r h => by cases h), by unfold pushBlocked; decide +kernel, by decide +kernel, by unfold JobsFull; decide +kernel, by decide +kernel,
    by decide +kernel, by decide +kernel, by decide +kernel⟩

/-- Both harts wait at empty queues; or the X-hart alone with the A-hart ended. -/
def dead (endA : Bool) : State :=
  onB (fun b => { b with waitA := some (.pop .tqx), waitX := some (.pop .tqa), ctx := { b.ctx with endA := endA } }) (small .A)
def faulted : Stream := { running .faulted [] with fault := some 5 }
theorem witness_BoundaryEvents :
    (Acting (dead false) 1 .A ∧ (dead false).rset = none ∧ NoTrapWaits (dead false).b ∧ (dead false).sysMode = false ∧
      Stuck (dead false) .A ∧ Stuck (dead false) .X) ∧
    (Acting { dead true with hart := .X } 1 .X ∧ Stuck (dead true) .X ∧ (dead true).b.ctx.endA = true) ∧
    (Acting (streams faulted) 1 .A ∧ (streams faulted).sysMode = false ∧ Undelivered (streams faulted) 7 5) ∧
    (let s := onB (fun b => { b with irq32 := true, irq34 := true }) (small .A)
     Acting s 1 .A ∧ CanInterrupt s ∧ firstIrq s = 32 ∧ ∀ d va old, s.b.waitA ≠ some (.word d va old)) ∧
    (let s := onB (fun b => { b with irq32 := true }) (waiting .A (.word 4 0x200 0))
     Acting s 1 .A ∧ CanInterrupt s ∧ firstIrq s = 32 ∧ s.b.waitA = some (.word 4 0x200 0) ∧ s.b.ctx.endA = false) ∧
    (let s := onC (fun c => { c with landPend := 0x88, ac := { c.ac with lvec := 0x800 } }) (small .A)
     Acting s 1 .A ∧ CanLand s ∧ FirstLanding s 3 ∧ ¬ CanInterrupt s) ∧
    (let s := onB (fun b => { b with irq34 := true, waitA := some .idle }) (small .A)
     Acting s 1 .A ∧ CanInterrupt s ∧ s.b.waitX ≠ some .idle ∧ s.b.ctx.endA = false ∧ ∀ n c, ¬ Undelivered s n c) ∧
    (¬ CanLand (handler (small .A)) ∧ (handler (small .A)).b.endS = false ∧ (small .A).b.ctx.endA = false ∧
      { small .A with turns := [.hart 1 .A none false] }.turns = .hart 1 .A none false :: []) := by
  refine ⟨⟨acting_of (by decide +kernel), by decide +kernel, by decide +kernel, by decide +kernel, ⟨.tqx, Or.inl ⟨rfl, rfl⟩⟩, ⟨.tqa, Or.inl ⟨rfl, rfl⟩⟩⟩,
    ⟨acting_of (by decide +kernel), ⟨.tqa, Or.inl ⟨rfl, rfl⟩⟩, rfl⟩, ⟨acting_of (by decide +kernel), by decide +kernel, by unfold Undelivered; decide +kernel⟩,
    ⟨acting_of (by decide +kernel), by unfold CanInterrupt; decide +kernel, by decide +kernel, fun _ _ _ h => by cases h⟩,
    ⟨acting_of (by decide +kernel), by unfold CanInterrupt; decide +kernel, by decide +kernel⟩,
    ⟨acting_of (by decide +kernel), by unfold CanLand; decide +kernel, by unfold FirstLanding; decide +kernel, by unfold CanInterrupt; decide +kernel⟩,
    ⟨acting_of (by decide +kernel), by unfold CanInterrupt; decide +kernel, by decide +kernel, by decide +kernel, fun n c h => ?_⟩,
    by unfold CanLand; decide +kernel, by decide +kernel, by decide +kernel, rfl⟩
  exact absurd h.1 ((by decide +kernel : ∀ n : Fin 8, ((small .A).b.ctx.streams.get n).st ≠ .faulted) n.toFin)

theorem witness_HostAccesses :
    ((small .A).sets = [] ∧ (small .A).modState = 1 ∧ State.reset.modState = 0 ∧ { small .A with modState := 2 }.modState ≠ 0 ∧
      (0x200 % 8 = 0 ∧ 0x200 ≤ 0x200 ∧ 0x2018 % 8 = 0 ∧ 0x2018 ≤ 0x3FF8 ∧ 0x3FF8 < 0x4000)) ∧
    ((0x8000000000000000 : Word).getLsbD 63 = true ∧ ¬ PushRefused (small .A) 63 (0x300 &&& 0x01FFFFFFFFFFFFFF) ∧
      PushRefused (small .A) 63 (0x308 &&& 0x01FFFFFFFFFFFFFF)) ∧
    (Rung (small .A) 0 (small .A).b ∧ NoneThere (small .A) 639 ∧ (640 : Word).toNat = 640) ∧
    (0x17F8 % 8 = 0 ∧ 0x1000 ≤ 0x17F8 ∧ 0x17F8 < 0x1800) ∧ 2 ^ 36 < 0xFFFFFFFF8 + 16 ∧
    (isRight ((small .A).access ⟨none, 0, 0, false⟩ 0 ((small .A).apBase.toNat + 0x208) 8 .store false) = true ∧
      (small .A).access ⟨none, 0, 0, false⟩ 0 ((small .A).apBase.toNat + 0x40000000) 8 .load false = .error 4) ∧
    ((4 : Nat) ≠ 8 ∧ 8 * (63 : BitVec 6).toNat = 0x1F8) := by
  refine ⟨by decide +kernel, ⟨by decide, by unfold PushRefused QueueFull; decide +kernel, by unfold PushRefused QueueFull; decide +kernel⟩,
    ⟨⟨by decide +kernel, ⟨rfl, rfl, fun k h => ?_⟩, fun d hd _ hne => ?_⟩, fun d hd _ hc => ?_, by decide⟩, by decide, by decide,
    ⟨by decide +kernel, err_of (by decide +kernel)⟩, by decide⟩
  · cases Option.some.inj ((by decide +kernel : (small .A).task? (small .A).b.task = some task).symm.trans h)
    decide
  · exact absurd (List.mem_singleton.1 hd ▸ rfl) hne
  · cases List.mem_singleton.1 hd
    exact absurd hc (by decide +kernel)

theorem witness_StartsAndFailures :
    (State.Canonical (small .A) ∧ State.reset.mustCold = true ∧ { small .A with mustCold := false }.mustCold = false) ∧
    (RemapGood [41] State.reset.remap ∧ ¬ RemapGood [0] State.reset.remap) ∧ ((159 : Nat) ∉ (small .A).outQuads ∧ (small .A).sets = [] ∧
      (5 : BitVec 16).toNat < 6 ∧ (1 : Nat) ≠ (small .A).b.core ∧ (small .A).b.id = 1 ∧ CanMove (atHart (small .A) .X)) := by
  refine ⟨⟨canonicalSmall (by decide +kernel), by decide +kernel⟩, ⟨⟨by decide +kernel, by decide +kernel, fun q p h => ?_⟩, fun h => (h.2.2 0 0 (by decide +kernel)).2 (by decide)⟩,
    by decide +kernel, by decide +kernel, by decide, by decide, by decide +kernel, by unfold CanMove; decide +kernel⟩
  simp only [State.reset, List.getElem?_map, Option.map_eq_some_iff] at h
  obtain ⟨a, ha, rfl⟩ := h
  have := List.getElem?_range (n := 160) (i := q)
  rw [List.getElem?_eq_some_iff] at ha
  obtain ⟨hq, rfl⟩ := ha
  simp only [List.length_range] at hq
  rw [List.getElem_range, List.mem_singleton]
  omega

/-- The module with a card of 256 bytes for host pushes at address 0x400: one core, nothing else; the launch queue heads it. -/
def queued (ncores : Byte) : State :=
  { small .A with
    mem := [(0x450, ncores), (0x454, 1)], cards := [⟨3, 0x400, 0, 0, none, true, 4⟩] }
/-- A second task that waits, of priority 5. -/
def waiter (n : Nat) : Task := { task with id := 2, st := .waiting, prio0 := 5, age := 3, ncores := n }
def withWaiter (n : Nat) : State := { small .A with tasks := [task, waiter n] }

/-- Four braids stand on core 0, so that a task of 640 braids has no room. -/
def crowded : State := { withWaiter 640 with rest := [10, 11, 12].map fun i => { (small .A).b with id := i } }

theorem headCard_of {s : State} {q : Nat} {c : CardRef}
    (h : decide ((∀ k ∈ s.tasks, k.q = q → k.st ≠ .waiting) ∧ s.cards.find? (·.q == q) = some c) = true) : HeadCard s q c := by
  simpa [HeadCard] using h
theorem chosen_of {s : State} {k : Task} (h : decide (s.modState = 1 ∧ canGo s k = true ∧
    ∀ u ∈ s.tasks, prioOf k < prioOf u ∨ (prioOf u = prioOf k ∧ u.age < k.age) → canGo s u = false) = true) : IsChosen s k := by
  have := of_decide_eq_true h
  exact this

theorem placed_of {s : State} {k : Task} {c : Nat} (hn : k.ncores = 1) (hr : k.reps = 1) (hk : k.levels = [⟨10, 3, 2⟩])
    (h : c < 640 ∧ c / 4 ∉ s.outQuads ∧ (s.braids.filter fun b => b.live && b.core == c).length < 4) : Placed s k [c] := by
  refine ⟨by simp [hn, hr], by simp, by simpa using h, fun x hx r hr' y hy => ?_, fun hl => ?_⟩
  · rw [hr] at hr'
    omega
  · rw [hk] at hl
    simp at hl

theorem witness_DispatcherEvents :
    ((∀ c, ¬ HeadCard (small .A) 3 c) ∧ HeadCard (queued 1) 3 ⟨3, 0x400, 0, 0, none, true, 4⟩ ∧
      (∃ r, (cardGone (queued 1) ⟨3, 0x400, 0, 0, none, true, 4⟩).cardBytes ⟨none, 0, 0, false⟩ 0x400 32 = some r ∧
        r.2.length = 256 ∧ 1 ≤ (taskOf (queued 1) ⟨3, 0x400, 0, 0, none, true, 4⟩ r.2).ncores) ∧
      (∃ r, (cardGone (queued 0) ⟨3, 0x400, 0, 0, none, true, 4⟩).cardBytes ⟨none, 0, 0, false⟩ 0x400 32 = some r ∧
        (taskOf (queued 0) ⟨3, 0x400, 0, 0, none, true, 4⟩ r.2).ncores = 0) ∧
      (cardGone (queued 1) ⟨3, 0x40000000, 0, 0, none, true, 4⟩).cardBytes ⟨none, 0, 0, false⟩ 0x40000000 32 = none) ∧
    ((small .A).tasks.find? (·.id == 7) = none ∧ (small .A).tasks.find? (·.id == 1) = some task) ∧
    ((waiter 1).st = .waiting ∧ IsChosen (withWaiter 1) (waiter 1) ∧ noPlace (withWaiter 1) (waiter 1) = false ∧
      (waiter 1).ncores % groupsOf (waiter 1) = 0 ∧ Placed (withWaiter 1) (waiter 1) [639]) ∧
    (IsChosen { withWaiter 640 with outQuads := [159] } (waiter 640) ∧ noPlace { withWaiter 640 with outQuads := [159] } (waiter 640) = true) ∧
    (crowded.modState = 1 ∧ isReady crowded (waiter 640) = true ∧ crowded.hasRoom [] (waiter 640) = false ∧ Eligible crowded (waiter 640) [task] ∧
      crowded.hasRoom (idsOf [task]) (waiter 640) = true ∧ crowded.sets = []) ∧
    (let back : Task := { task with st := .preempted }
     let s : State := { small .A with tasks := [back], b := { (small .A).b with live := false, left := true } }
     IsChosen s back ∧ s.gang 1 = [s.b] ∧ s.pend34 = [] ∧ s.b.savedAt = none ∧
     AreaHeld { s with b := { s.b with level := .system } } 0x200000 0x200000) ∧
    (let s : State := { small .A with b := { (small .A).b with live := false } }
     IsOver s task ∧ ¬ IsOver (small .A) task) := by
  have look : ∀ {o : Option (State × List Byte)} {p : State × List Byte → Bool},
      (match o with | some r => p r | none => false) = true → ∃ r, o = some r ∧ p r = true := by
    intro o p h
    split at h
    · exact ⟨_, rfl, h⟩
    · cases h
  refine ⟨⟨fun c h => ?_, headCard_of (by decide +kernel), ?_, ?_, by decide +kernel⟩, by decide +kernel,
    ⟨rfl, chosen_of (by decide +kernel), by decide +kernel, by decide +kernel, placed_of rfl rfl rfl (by decide +kernel)⟩,
    ⟨chosen_of (by decide +kernel), by decide +kernel⟩,
    ⟨by decide +kernel, by decide +kernel, by decide +kernel, ⟨?_, by simp⟩, by decide +kernel⟩,
    ⟨chosen_of (by decide +kernel), by decide +kernel, by decide +kernel, rfl, by decide,
      held rfl (Or.inl (by decide +kernel)) (by decide +kernel) (by decide) rfl, by decide +kernel⟩,
    ⟨by decide, by decide, fun b hb _ => ?_, fun j h => ?_, ?_, fun c h => ?_⟩, fun h => ?_⟩
  · exact absurd h.2 (by simp [small, State.reset])
  · obtain ⟨r, h1, h2⟩ := look (o := (cardGone (queued 1) ⟨3, 0x400, 0, 0, none, true, 4⟩).cardBytes ⟨none, 0, 0, false⟩ 0x400 32)
      (p := fun r => decide (r.2.length = 256 ∧ 1 ≤ (taskOf (queued 1) ⟨3, 0x400, 0, 0, none, true, 4⟩ r.2).ncores)) (by decide +kernel)
    exact ⟨r, h1, by simpa using h2⟩
  · obtain ⟨r, h1, h2⟩ := look (o := (cardGone (queued 0) ⟨3, 0x400, 0, 0, none, true, 4⟩).cardBytes ⟨none, 0, 0, false⟩ 0x400 32)
      (p := fun r => decide ((taskOf (queued 0) ⟨3, 0x400, 0, 0, none, true, 4⟩ r.2).ncores = 0)) (by decide +kernel)
    exact ⟨r, h1, by simpa using h2⟩
  · rw [show (crowded.tasks.filter fun u => u.st == .running && decide (u.prio0 < prioOf (waiter 640))) = [task] from by decide +kernel]
  · cases List.mem_singleton.1 hb
    decide
  · cases h
  · decide +kernel
  · cases h
  · exact absurd (h.2.2.1 (small .A).b (List.mem_singleton.2 rfl) rfl).1 (by decide)

/-- A job to run: a fill of eight bytes at 0x3000; a map of the image; a gate on a state at 0x4000. -/
def jobsOf (j : Job) : State := { small .A with jobs := [j] }
def qubits (op k : Byte) : Job := { job 3 1 .waiting with
  cls := 1, card := ([op, 0, k, 0] ++ .replicate 12 0) ++ ([0x00, 0x60] ++ .replicate 7 0) ++ (1 :: .replicate 38 0), hdrAddr := 0x10000 }
/-- Two qubits of c64 at 0x10000, all bits local, exchanged by the map. -/
def header : List Byte := ([2, 16, 0, 0, 0, 0, 0, 0, 1, 0] ++ .replicate 54 0) ++ ([0, 0, 1] ++ .replicate 61 0)
def withState (j : Job) : State := { jobsOf j with mem := [(0x10000, 2), (0x10001, 16), (0x10008, 1), (0x10042, 1), (0x11002, 0x80), (0x11003, 0x3F)] }
theorem jobHolds {s : State} {j : Job} {va n : Nat} (ht : s.tlb = (small .A).tlb) (hk : s.tasks = (small .A).tasks) (hp : s.poison = [])
    (ha : j.asn = 0) (hv : va % 8 = 0) (hn : va + n ≤ 2 ^ 30) : JobHolds s j va va n := by
  refine ⟨hv, hv, held ht (Or.inr rfl) ha hn hp, fun k h => ?_⟩
  rw [hk] at h
  rcases (List.mem_singleton.1 (List.mem_of_find?_eq_some h)) with rfl
  rfl
theorem jobAt (j : Job) (h : j.id = 3) : JobAt (jobsOf j) 3 j := by simp [JobAt, jobsOf, h]
theorem witness_EngineJobs :
    ((∀ j, ¬ JobAt (small .A) 3 j) ∧ JobAt (jobsOf (job 3 1 .waiting)) 3 (job 3 1 .waiting)) ∧
    (startsNow (jobsOf (job 3 1 .waiting)) (job 3 1 .waiting) = true ∧ (∀ i ∈ (jobsOf (job 3 1 .waiting)).jobs, ¬ i.age < 3) ∧
      fieldAt (job 3 1 .waiting).card 0 1 = 1 ∧ fieldAt (job 3 1 .waiting).card 8 8 = 0x3000 ∧ fieldAt (job 3 1 .waiting).card 24 8 = 8 ∧
      JobHolds (jobsOf (job 3 1 .waiting)) (job 3 1 .waiting) 0x3000 0x3000 8 ∧ Apart 0x5000 8 0x3000 8) ∧
    JobHolds (jobsOf { job 3 1 .waiting with cls := 1, image := some header, hdrAddr := 0x10000 })
      { job 3 1 .waiting with cls := 1, image := some header, hdrAddr := 0x10000 } 0x10000 0x10000 128 ∧
    (startsNow (withState (qubits 0 1)) (qubits 0 1) = true ∧ LocalState (withState (qubits 0 1)) 0x10000 header 2 16 [1, 0] ∧
      (qubits 0 1).grp = none ∧ (withState (qubits 0 1)).startMbits (qubits 0 1) = 0 ∧ qubitsOk (qubits 0 1).card (.of header) = true ∧ qubitsOk (qubits 1 2).card (.of header) = true ∧
      qubitsOk (qubits 2 0).card (.of header) = true ∧ JobHolds (withState (qubits 0 1)) (qubits 0 1) 0x10000 0x10000 (4096 + 2 ^ 2 * ampSize 16) ∧
      (∀ off < 4096 + 2 ^ 2 * ampSize 16, dieOfKey (0x10000 + off) = 0) ∧ fieldAt (qubits 0 1).card 16 8 = 0x6000 ∧
      JobHolds (withState (qubits 0 1)) (qubits 0 1) 0x6000 0x6000 (4 ^ 1 * ampSize 16) ∧
      Apart 0x10000 (4096 + 2 ^ 2 * ampSize 16) 0x6000 (4 ^ 1 * ampSize 16)) ∧
    (let j : Job := { qubits 0 1 with st := .running }
     JobAt (jobsOf j) 3 j ∧ j.cause = 0 ∧ j.cls ≠ 0 ∧ JobHolds (jobsOf j) j 0x10000 0x10000 128) ∧
    (let j : Job := { qubits 0 1 with st := .running, hdrAddr := 0x40000000 }
     JobAt (jobsOf j) 3 j ∧ j.hdrAddr.toNat % 8 = 0 ∧ j.hdrAddr.toNat + 88 ≤ 2 ^ 57 ∧
     (jobsOf j).access ⟨none, j.root.toNat, j.asn, true⟩ j.task (j.hdrAddr.toNat + 80) 8 .load false = .error 4) ∧
    ({ job 3 1 .running with cause := 5 } : Job).cause ≠ 0 := by
  refine ⟨⟨(fun j h => by cases h), jobAt (job 3 1 .waiting) rfl⟩, ⟨by decide +kernel, by decide +kernel, by decide +kernel, by decide +kernel, by decide +kernel,
      jobHolds rfl rfl rfl rfl (by decide) (by decide), Or.inr (by decide)⟩, jobHolds rfl rfl rfl rfl (by decide) (by decide),
    ⟨by decide +kernel, ⟨by decide +kernel, by decide +kernel, by decide +kernel, by decide +kernel, by decide +kernel⟩, rfl, by decide +kernel,
      by decide +kernel, by decide +kernel, by decide +kernel, jobHolds rfl rfl rfl rfl (by decide) (by decide), ?_, by decide +kernel,
      jobHolds rfl rfl rfl rfl (by decide) (by decide), Or.inr (by decide)⟩,
    ⟨jobAt { qubits 0 1 with st := .running } rfl, rfl, by decide, jobHolds rfl rfl rfl rfl (by decide) (by decide)⟩, ⟨jobAt { qubits 0 1 with st := .running, hdrAddr := 0x40000000 } rfl, by decide +kernel, by decide +kernel, err_of (by decide +kernel)⟩,
    by decide⟩
  intro off h
  rw [show ampSize 16 = 8 from rfl] at h
  rw [dieOfKey, if_pos (by omega)]
  omega

def endB (s : State) (space : BitVec 2) (va n : Nat) (k : Kind) : Bool := isRight (endAt s space va n k)
theorem fetched {s t va n} (h1 : elsewhere s t t.sx va = false) (h2 : endB s t.sx va n .load = true) : ∀ c, ¬ Fetches s t va n (.error c) := by
  intro c h
  simp only [Fetches, h1, Bool.false_eq_true, if_false] at h
  obtain ⟨⟨key, u⟩, he⟩ := right_of h2
  rw [he] at h
  cases h
theorem unfetched {s t va n} (h1 : elsewhere s t t.sx va = false) (h2 : endB s t.sx va n .load = false) : ∃ c, Fetches s t va n (.error c) := by
  obtain ⟨c, he⟩ := left_of h2
  exact ⟨c, by simp [Fetches, h1, he]⟩
theorem written {s t va n v} (h1 : elsewhere s t t.sy va = false) (h2 : endB s t.sy va n .store = true) : ∀ c, ¬ Writes s t va n v (.error c) := by
  intro c h
  simp only [Writes, h1, Bool.false_eq_true, if_false] at h
  obtain ⟨⟨key, u⟩, he⟩ := right_of h2
  rw [he] at h
  cases h
theorem unwritten {s t va n v} (h1 : elsewhere s t t.sy va = false) (h2 : endB s t.sy va n .store = false) : ∃ c, Writes s t va n v (.error c) := by
  obtain ⟨c, he⟩ := left_of h2
  exact ⟨c, by simp [Writes, h1, he]⟩

def moving (src dst : Word) : Stream := { running .active [⟨10, 3⟩, ⟨11, 4⟩] with src := src, dst := dst }
theorem witness_StreamEvents :
    ((streams (moving 0x200 0x400)).b.id = 1 ∧ (streams (moving 0x200 0x400)).rset = none ∧ (streams (moving 0x200 0x400)).b.live = true ∧
      ((streams (moving 0x200 0x400)).stream 7).st = .active ∧ ((streams .init).stream 7).st ≠ .active) ∧
    (∀ c, ¬ Fetches (streams (moving 0x200 0x400)) (moving 0x200 0x400) 0x228 4 (.error c)) ∧
    (∀ v c, ¬ Writes (streams (moving 0x200 0x400)) (moving 0x200 0x400) 0x428 4 v (.error c)) ∧
    (∀ v, ∃ c, Writes (streams (moving 0x200 0x40000000)) (moving 0x200 0x40000000) 0x40000028 4 v (.error c)) ∧
    (∃ c, Fetches (streams (moving 0x40000000 0x400)) (moving 0x40000000 0x400) 0x40000028 4 (.error c)) :=
  ⟨by decide +kernel, fetched (by decide +kernel) (by decide +kernel), fun v => written (by decide +kernel) (by decide +kernel),
    fun v => unwritten (by decide +kernel) (by decide +kernel), unfetched (by decide +kernel) (by decide +kernel)⟩

/-- An f32 sum from member 1 for the chunk at 0x2000 of 128 bytes, its record at 0x9000; this module is member 0. -/
def element (va : Word) (op : BitVec 3) : FabElem where
  rank := 1
  op := op
  ty := 10
  size := 4
  va := va
  data := 0x3F800000
  stride := 128
  arr := false
  w64 := false
  status := 0x9000
  members := [0, 1]
  root := 0
  asn := 0
/-- The element's chunk, open, with nothing given. -/
def chunk (q : Nat) : Chunk where
  q := q
  die := 0
  op := 1
  ty := 10
  stride := 128
  arr := false
  w64 := false
  status := 0x9000
  members := [0, 1]
  root := 0
  asn := 0
  slots := []
  order := []
  isOpen := true
  rounds := 0
  dead := false
/-- Port 0 works, and the braid has the element's group latched. -/
def fabricSmall (chunks : List Chunk) (arrivals : List Arrival) : State :=
  onC (fun c => { c with grp := some ⟨false, false, 0x9000, [0, 1]⟩ })
    { small .A with lmember := 0, ports := 1, chunks := chunks, arrivals := arrivals }
def opensB (s : State) (die : Nat) (e : FabElem) : Bool :=
  (s.chunks.find? (chunkFor e)).any (·.isOpen) ||
  decide ((s.chunks.filter fun d => d.isOpen && d.die == die && d.members == e.members && d.status == e.status).length < 16)
theorem opens_iff {s die e} : Opens s die e ↔ opensB s die e = true := by
  simp only [Opens, opensB, Bool.or_eq_true, Option.any_eq_true, decide_eq_true_eq]
def lostB (s : State) (e : FabElem) : Bool := s.lost.any fun m => e.members.contains m.toNat
theorem lost_iff {s e} : GroupLost s e ↔ lostB s e = true := by simp [GroupLost, lostB]
/-- The element lies here, at `key`, without a change of the state; its chunk is dead or not, its group lost or not, with room or not. -/
def homeB (s : State) (e : FabElem) (key : Nat) (dead lost opens : Bool) : Bool :=
  (match homeReach s e with | .ok (k, t) => decide (k = key ∧ t.tlb = s.tlb) | .error _ => false) &&
  (chunkOf s (dieOfKey key) e).dead == dead && lostB s e == lost && opensB s (dieOfKey key) e == opens
/-- What `homeB` says. -/
def Home (s : State) (e : FabElem) (key : Nat) (dead lost opens : Bool) : Prop :=
  homeReach s e = .ok (key, s) ∧ (chunkOf s (dieOfKey key) e).dead = dead ∧ (GroupLost s e ↔ lost = true) ∧
    (Opens s (dieOfKey key) e ↔ opens = true)
theorem home_of {s e key dead lost opens} (h : homeB s e key dead lost opens = true) : Home s e key dead lost opens := by
  simp only [homeB, Bool.and_eq_true, beq_iff_eq] at h
  obtain ⟨⟨⟨h1, h2⟩, h3⟩, h4⟩ := h
  refine ⟨?_, h2, by rw [lost_iff, h3], by rw [opens_iff, h4]⟩
  split at h1
  · rename_i k t he
    obtain ⟨rfl, ht⟩ := of_decide_eq_true h1
    have := State.access_tlb _ he
    rw [← ht] at this
    rw [he, ← this]
  · cases h1
theorem noRoom_of {s e key} (he : e.op ≠ 0) (h : Home s e key false false false) : NoRoom s (dieOfKey key) e :=
  ⟨he, h.2.1, fun g => Bool.false_ne_true (h.2.2.1.1 g), fun o => Bool.false_ne_true (h.2.2.2.1 o)⟩
theorem recordHeld {s : State} {c : Chunk} {sk : Nat} (ht : s.tlb = (small .A).tlb) (hk : s.tasks = [task]) (hp : s.poison = []) (ha : c.asn = 0)
    (hd : c.status.toNat + 64 * (c.q / c.members.length) = sk) (hn : sk + 40 ≤ 2 ^ 30) : RecordHeld s c sk := by
  subst hd
  refine ⟨held ht (Or.inr rfl) ha hn hp, fun k h => ?_⟩
  rw [hk] at h
  cases List.mem_singleton.1 h
  decide
theorem homeHeld {s : State} {c : Chunk} {dk : Nat} (ht : s.tlb = (small .A).tlb) (hp : s.poison = []) (ha : c.asn = 0)
    (hd : c.q * c.stride = dk) (hn : c.q * c.stride + c.stride ≤ 2 ^ 30) : HomeHeld s c dk :=
  hd ▸ held ht (Or.inr rfl) ha hn hp
/-- Sixteen other chunks of the group are open on die 0. -/
def full16 : List Chunk := (List.range 16).map fun i => chunk (100 + i)
/-- A chunk of one element, to which member 0 has contributed, and the element of member 1 that fills it. -/
def tiny : Chunk := { chunk 2048 with stride := 4, slots := [(0, 0, 0x3F800000, 4)], order := [0] }
def last : FabElem := { element 0x2000 1 with stride := 4 }
theorem homeFirst : Home (fabricSmall [] []) (element 0x2000 0) 0x2000 false false true := home_of (by decide +kernel)
theorem homeDead : Home (fabricSmall [{ chunk 64 with isOpen := false, dead := true }] []) (element 0x2000 1) 0x2000 true false true :=
  home_of (by decide +kernel)
theorem homeLost : Home { fabricSmall [] [] with lost := [1] } (element 0x2000 1) 0x2000 false true true := home_of (by decide +kernel)
theorem homeOpen : Home { fabricSmall [chunk 64] [⟨element 0x2000 1, none⟩] with arrivals := [] } (element 0x2000 1) 0x2000 false false true :=
  home_of (by decide +kernel)
theorem homeFull : Home (fabricSmall full16 []) (element 0x2000 1) 0x2000 false false false := home_of (by decide +kernel)
theorem homeFull' :
    Home (fabricSmall full16 [⟨element 0x2000 1, none⟩]) (element 0x2000 1) 0x2000 false false false := home_of (by decide +kernel)
theorem homeLast : Home (fabricSmall [tiny] []) last 0x2000 false false true := home_of (by decide +kernel)
theorem witness_FabricElements :
    (FromOther (fabricSmall [] []) (element 0x2000 1) ∧ (fabricSmall [] []).ports ≠ 0 ∧ ¬ FromOther (fabricSmall [] []) (element 0x2080 1)) ∧
    (homeReach (fabricSmall [] []) (element 0x40000000 1) = .error 5 ∧ homeCheck (fabricSmall [] []) (element 0x40000000 1) .load = .error 4 ∧
      isRight (homeCheck (fabricSmall [] []) (element 0x2000 1) .load) = true ∧ (element 0x2000 0).op = 0) ∧
    (channelWaits (fabricSmall [] []) [⟨element 0x2000 1, none⟩] (element 0x2004 1) = true ∧
      ∀ c : List Chunk, ¬ channelWaits (fabricSmall c []) (fabricSmall c []).arrivals (element 0x2004 1) = true) ∧
    (Home (fabricSmall [] []) (element 0x2000 0) 0x2000 false false true ∧
      Home (fabricSmall [{ chunk 64 with isOpen := false, dead := true }] []) (element 0x2000 1) 0x2000 true false true ∧
      (Home (fabricSmall full16 []) (element 0x2000 1) 0x2000 false false false ∧ NoRoom (fabricSmall full16 []) (dieOfKey 0x2000) (element 0x2000 1))) :=
  ⟨⟨by unfold FromOther; decide +kernel, by decide +kernel, by unfold FromOther; decide +kernel⟩,
    ⟨err_of (by decide +kernel), err_of (by decide +kernel), by decide +kernel, rfl⟩,
    ⟨by decide +kernel, fun _ h => Bool.false_ne_true h⟩,
    ⟨homeFirst, homeDead, ⟨homeFull, noRoom_of (by decide) homeFull⟩⟩⟩

theorem witness_FabricChunks :
    (Home { fabricSmall [] [] with lost := [1] } (element 0x2000 1) 0x2000 false true true ∧
      RecordHeld { fabricSmall [] [] with lost := [1] } (withSlot (chunk 64) (element 0x2000 1)) 0x9800 ∧
      chunkOf { fabricSmall [] [] with lost := [1] } 0 (element 0x2000 1) = chunk 64 ∧ (element 0x2000 1).op ≠ 0) ∧
    (Home (fabricSmall [tiny] []) last 0x2000 false false true ∧ chunkOf (fabricSmall [tiny] []) 0 last = tiny ∧
      isFull (withSlot tiny last) = true ∧ RecordHeld (fabricSmall [tiny] []) (withSlot tiny last) 0x19000 ∧
      HomeHeld (fabricSmall [tiny] []) (withSlot tiny last) 0x2000 ∧
      (∀ r < 2, givenBy (withSlot tiny last) 0 r ≠ none) ∧ isFull (withSlot (chunk 64) (element 0x2000 1)) = false) :=
  ⟨⟨homeLost, recordHeld rfl rfl rfl rfl (by decide +kernel) (by decide), by decide +kernel, by decide⟩,
    homeLast, by decide +kernel, by decide +kernel, recordHeld rfl rfl rfl rfl (by decide +kernel) (by decide),
    homeHeld rfl rfl rfl (by decide +kernel) (by decide +kernel), by decide +kernel, by decide +kernel⟩

theorem witness_FabricWaits :
    (∀ a ∈ (fabricSmall full16 [⟨element 0x2000 1, none⟩]).arrivals, a.by_ = none ∧ ∃ key t,
      homeReach (fabricSmall full16 [⟨element 0x2000 1, none⟩]) a.e = .ok (key, t) ∧ NoRoom t (dieOfKey key) a.e) ∧
    (Home { fabricSmall [chunk 64] [⟨element 0x2000 1, none⟩] with arrivals := [] } (element 0x2000 1) 0x2000 false false true ∧
      homeReach (fabricSmall [] [⟨element 0x40000000 1, none⟩]) (element 0x40000000 1) = .error 5) ∧
    (let s := fabricSmall [] [⟨element 0x40000000 1, some 1⟩]
     s.arrivals = ⟨element 0x40000000 1, some s.b.id⟩ :: [] ∧
       s.access ⟨some s.b.core, 0, 0, s.b.level == .user⟩ s.b.task 0x40000000 4 .store false = .error 5) := by
  refine ⟨fun a ha => ?_, ⟨homeOpen, err_of (by decide +kernel)⟩, rfl, err_of (by decide +kernel)⟩
  cases List.mem_singleton.1 ha
  exact ⟨rfl, _, _, homeFull'.1, noRoom_of (by decide) homeFull'⟩

theorem witness_FabricLoss :
    ((∀ c ∈ (fabricSmall [chunk 64] []).chunks, c.isOpen = true → (5 : BitVec 8).toNat ∉ c.members) ∧
      (∀ a ∈ (fabricSmall [chunk 64] []).arrivals, (5 : BitVec 8).toNat ∉ a.e.members)) ∧
    ((fabricSmall [chunk 64] []).chunks = [chunk 64] ∧ (chunk 64).isOpen = true ∧ (1 : BitVec 8).toNat ∈ (chunk 64).members ∧
      RecordHeld (fabricSmall [chunk 64] []) (chunk 64) 0x9800) :=
  ⟨⟨by decide +kernel, by decide +kernel⟩, rfl, rfl, by decide, recordHeld rfl rfl rfl rfl (by decide +kernel) (by decide)⟩

/-- Two replicas of one braid, whose X-hart's signatures are as given, each with a checkpoint and one store in its buffer. -/
def replica (id rep : Nat) (sig : Word) : Braid :=
  { (atA.b) with
    id := id, rep := rep, core := 160 * rep, crcX := sig, chk := atA.b.checkpoint.chk, buf := [item 0 0x300] }
def replicas (sig : Word) (again full : Bool) : State :=
  let wait (b : Braid) : Braid := if full then { b with waitA := some .forced } else b
  { atA with
    b := wait (replica 1 0 0), rest := [wait (replica 2 1 sig)]
    sets := [{ dual with rel := 0, failed := if again then [(.A, placeA (replica 1 0 0))] else [] }] }
/-- The second has come to its release; and the first with it. -/
def releasing : State := { replicas 0 false false with rest := [{ replica 2 1 0 with atRel := some .A, waitA := some .release }] }
def released : State := { releasing with b := { releasing.b with atRel := some .A, relRec := [], waitA := some .release } }
/-- A third replica, whose signature differs. -/
def triple : State :=
  { replicas 0 false false with
    rest := [replica 2 1 0, replica 3 2 9], sets := [{ dual with members := [(1, 0), (2, 1), (3, 2)] }] }
def thirds : RSet := { dual with members := [(1, 0), (2, 1), (3, 2)] }
/-- Both wait in a trap of cause 7, the second having come to it. -/
def trapping : State :=
  { replicas 0 false false with
    b := { replica 1 0 0 with waitA := some (.trap 7 0 false) }
    rest := [{ replica 2 1 0 with waitA := some (.trap 7 0 false), atRel := some .A }] }
def duals : RSet := { dual with rel := 0 }
theorem witness_ReplicaReleases :
    ((3 : BitVec 3).toNat ≤ 3 ∧ Issues .onlyA .user true false (replicas 0 false false) ∧ (replicas 0 false false).replicated = true ∧
      (∃ s0, Reaches (replicas 0 false false) ((replicas 0 false false).aReg 1 + (8 : BitVec 13).signExtend 64) (bytesFor 3) .store 0x208 s0 ∧
        (!s0.partPoisoned 0x208 8) = true) ∧ (replicas 0 false false).bufferFull (bytesFor 3) = false) ∧
    (releasing.rset = some duals ∧ releasing.hart = .A ∧ Issues .both .user false false releasing ∧ releasing.b.agreedA = false ∧
      (∀ c ∈ membersOf releasing duals, c.atRel = none ∨ c.atRel = some .A) ∧ AllReleasing (membersOf released duals) ∧
      released.b ∈ membersOf released duals ∧ released.b.rep = duals.leader ∧ ((membersOf released duals).map (·.id)).Nodup ∧
      (∀ c ∈ membersOf released duals, (c.rep = duals.leader → c = released.b) ∧ c.relRec = [] ∧ signatures c = signatures released.b ∧
        ∀ x ∈ c.buf, x.space = 0 ∧ x.home = true) ∧
      ¬ AllReleasing (membersOf { released with rest := (replicas 0 false false).rest } duals)) ∧
    ((small .A).rset = none ∧ (small .A).b.live = true) ∧
    (AtOnePoint (membersOf (replicas 0 false false) duals) ∧ BuffersFull (membersOf (replicas 0 false true) duals) ∧
      Furthest placeA (membersOf (replicas 0 false false) duals) (placeA (replica 1 0 0)) ∧
      Furthest placeX (membersOf (replicas 0 false false) duals) (placeX (replica 1 0 0)) ∧
      membersOf (replicas 0 false false) duals = [replica 1 0 0, replica 2 1 0] ∧
      (replica 1 0 0).id ≠ (replica 2 1 0).id ∧ (∀ x ∈ (replica 1 0 0).buf ++ (replica 2 1 0).buf, x.space = 0 ∧ x.home = true) ∧
      State.Canonical (replicas 0 false false) ∧ signatures (replica 1 0 0) = signatures (replica 2 1 0) ∧
      signatures (replica 1 0 0) ≠ signatures (replica 2 1 9) ∧ (replica 1 0 0).chk ≠ none ∧ (replica 2 1 9).chk ≠ none ∧
      (replica 1 0 0).rep = dual.leader ∧ (replica 2 1 0).rep ≠ dual.leader) ∧
    (¬ BuffersFull (membersOf (replicas 0 false false) dual) ∧
      ¬ AtOnePoint (membersOf { replicas 0 false false with rest := [{ replica 2 1 0 with retA := 1 }] } dual) ∧
      (replicas 9 true false).rset = some { duals with failed := [(.A, placeA (replica 1 0 0))] } ∧ duals.failed = [] ∧
      (∀ k ∈ (replicas 9 true false).tasks, k.id = dual.task → k.failed = none)) ∧
    (triple.rset = some thirds ∧ membersOf triple thirds = [replica 1 0 0, replica 2 1 0, replica 3 2 9] ∧ AtOnePoint (membersOf triple thirds) ∧
      [replica 1 0 0, replica 2 1 0, replica 3 2 9].Perm [replica 3 2 9, replica 1 0 0, replica 2 1 0] ∧
      thirds.members = [replica 1 0 0, replica 2 1 0, replica 3 2 9].map (fun c => (c.id, c.rep)) ∧ (triple.braids.map (·.id)).Nodup ∧
      ([replica 1 0 0, replica 2 1 0, replica 3 2 9].map Braid.rep).Nodup ∧ (replica 3 2 9).rep < 3 ∧
      (∀ e ∈ (replica 3 2 9).buf, e.space = 0 ∧ e.home = true) ∧
      signatures (replica 1 0 0) = signatures (replica 2 1 0) ∧ signatures (replica 3 2 9) ≠ signatures (replica 1 0 0) ∧
      (replica 3 2 9).status.getLsbD 5 = false) ∧
    (trapping.rset = some duals ∧ trapping.b.live = true ∧ duals.stop = none ∧ (trapping.braids.map (·.id)).Nodup ∧
      trapWaits (trapping.waitOf trapping.hart) = true ∧
      (∀ c ∈ membersOf trapping duals, c.status.getLsbD 5 = false ∧ trapWaits c.waitA = true ∧
        (c.id = trapping.b.id ∨ c.atRel = some trapping.hart) ∧ (c.atRel = none ∨ c.atRel = some trapping.hart)) ∧
      (∀ c ∈ membersOf trapping duals, ∀ d ∈ membersOf trapping duals, placeX c = placeX d) ∧
      ∀ c ∈ membersOf trapping duals, c.waitA = some (.trap 7 0 false)) := by
  refine ⟨⟨by decide, issues_of (by decide +kernel), by decide +kernel, reach_of (p := fun u => !u.partPoisoned 0x208 8) (by decide +kernel),
      by decide +kernel⟩, ⟨by decide +kernel, by decide +kernel, issues_of (by decide +kernel), by decide +kernel⟩, by decide +kernel,
    ⟨by decide +kernel, by decide +kernel, by decide +kernel, by decide +kernel, by decide +kernel, by decide +kernel, by decide +kernel,
      canonicalSmall (by decide +kernel), rfl, by decide +kernel⟩, by decide +kernel,
    ⟨by decide +kernel, by decide +kernel, by decide +kernel, ?_, by decide +kernel⟩, by decide +kernel⟩
  exact (List.perm_append_comm (l₁ := [replica 1 0 0, replica 2 1 0]) (l₂ := [replica 3 2 9]))

theorem witness_TrapsInSets :
    (Issues .both .user false false (replicas 0 false false) ∧ (replicas 0 false false).sysMode = false ∧ (replicas 0 false false).rset ≠ none) ∧
    (trapping.waitOf .A = some (.trap 7 0 false) ∧ trapping.sysMode = false ∧
      (onB (fun b => { b with waitX := some (.trap 16 5 true) }) (small .X)).waitOf .X = some (.trap 16 5 true)) ∧
    (let s := { handler (small .A) with sets := [dual] }
     Issues .onlyA .system false false s ∧ s.sysMode = true ∧ s.rset ≠ none) :=
  ⟨⟨issues_of (by decide +kernel), by decide +kernel⟩, by decide +kernel, issues_of (by decide +kernel), by decide +kernel⟩

/-! Steps and words. -/

/-- A `nop` at the hart's address. -/
def nops (h : Hart) : State := { small h with mem := [(0x1000, 4), (0x1003, 0xC0)] }
theorem quiet_of {s : State} (h : decide ((s.rset = none ∧ NoTrapWaits s.b) ∧ (∀ n, (s.stream n).st ≠ .faulted) ∧
    ¬ (s.b.status.getLsbD 7 = true ∧ (s.b.irq32 = true ∨ s.b.irq34 = true ∨ s.b.irq35 = true)) ∧ s.b.ctx.landPend = 0) = true) : Quiet s := by
  simp only [decide_eq_true_eq] at h
  exact ⟨h.1.1, h.1.2, fun _ _ n c hu => h.2.1 n hu.1, fun _ hc => h.2.2.1 hc, fun _ _ => h.2.2.2⟩
theorem witness_StepRunsDecodedInstruction :
    (((ticked { nops .A with turns := [.hart 1 .A none false] } []).focus 1).isSome = true ∧
      CanMove (nops .A) ∧ Quiet (nops .A) ∧ (nops .A).heldBack = false ∧ (nops .A).modState ≠ 0 ∧ (nops .A).turns = []) ∧
    ((∃ key t, (nops .A).access (nops .A).ownXlate (nops .A).b.task (nops .A).pc.toNat 4 .fetch true = .ok (key, t) ∧
        decode (BitVec.ofNat 32 (t.mem.read key 4)) = .ok .nop) ∧ (nops .A).pc.extractLsb' 57 7 = 0) ∧
    ((ticked { nops .A with turns := [.hart 9 .A none false] } []).focus 9 = none ∧ State.reset.turns = [] ∧ State.reset.modState = 0) ∧
    ¬ CanMove (handler (small .A) |> fun s => { s with hart := .X }) ∧ (Instr.powerLoss).isEvent = true := by
  refine ⟨⟨by decide +kernel, by unfold CanMove; decide +kernel, quiet_of (by decide +kernel), by decide +kernel, by decide +kernel, by decide +kernel⟩,
    ⟨?_, by decide +kernel⟩, by decide +kernel, by unfold CanMove; decide +kernel, rfl⟩
  have h : (match (nops .A).access (nops .A).ownXlate (nops .A).b.task (nops .A).pc.toNat 4 .fetch true with
    | .ok (key, t) => BitVec.ofNat 32 (t.mem.read key 4) == 0xC0000004
    | .error _ => false) = true := by decide +kernel
  split at h
  · rename_i key t he
    refine ⟨key, t, he, ?_⟩
    rw [beq_iff_eq.1 h]
    rfl
  · cases h

/-- Braid 1 handles a trap of cause 7; one vector store of it, and one result of a chunk, have not performed. -/
def hidden (t : Turn) : State :=
  onB (fun b => { b with cause := 7, out := [item 0 0x300] }) { handler (small .A) with turns := [t], xres := [(0x400, 4, 9)] }
theorem witness_HiddenTurns : (hidden (.tlbEvict 0)).turns = .tlbEvict 0 :: [] ∧
    (hidden (.cacheDrop 1 8)).turns = .cacheDrop (small .A).b.id 8 :: [] ∧ State.Canonical (small .A) ∧
    ((hidden (.perform 1)).turns = .perform (hidden (.perform 1)).b.id :: [] ∧ (small .A).b.out = [] ∧
      (hidden (.perform 1)).b.out = [item 0 0x300] ∧ (item 0 0x300).home = true ∧ ∀ c ∈ (hidden (.perform 1)).rest, c.id ≠ 1) ∧
    ((small .A).xres = [] ∧ (hidden .chunkWrite).xres = [(0x400, 4, 9)]) ∧
    ((hidden (.bootBraid 640 0x1000)).turns = .bootBraid 640 0x1000 :: [] ∧
      ∀ b ∈ (hidden (.bootBraid 640 0x1000)).braids, b.live = true → b.core ≠ 640) ∧
    (let s := hidden (.sysEnd 1 true)
     s.turns = .sysEnd s.b.id true :: [] ∧ s.b.live = true ∧ s.sysMode = true ∧ s.b.cause.toNat < 32 ∧ task ∈ s.tasks ∧ task.id = s.b.task ∧
       task.failed = none ∧ task.st ≠ .done) :=
  ⟨rfl, rfl, canonicalSmall (by decide +kernel), ⟨rfl, rfl, rfl, by decide +kernel, by decide +kernel⟩, ⟨rfl, rfl⟩, ⟨rfl, by decide +kernel⟩,
    rfl, rfl, by decide +kernel, by decide +kernel, by decide +kernel, by decide +kernel, rfl, by decide +kernel⟩

theorem witness_EncodedWordsDecode : (Instr.addi 31 0 0xFFFF).wf = true ∧ (Instr.addi 31 0 0xFFFF).isEvent = false ∧ Instr.powerLoss.isEvent = true := by
  decide
theorem witness_DecodedWordsAreTheirOwn : decode 0x4C1F0000 = .ok (.jr 31) := rfl

theorem witness_StepKeepsMemoryCanonical : State.Canonical (nops .A) ∧ ∃ t, step (nops .A) = .next t := by
  refine ⟨canonicalSmall (by decide +kernel), ?_⟩
  have h : (match step (nops .A) with | .next _ => true | _ => false) = true := by decide +kernel
  split at h
  · exact ⟨_, by assumption⟩
  · cases h

/-! Terms that the field limits refuse. -/

theorem test_illFormed_memory : (Instr.ld 0 0 7 0).wf = false ∧ (Instr.st 0 0 4 0).wf = false ∧ (Instr.setvl 0 0 18).wf = false ∧
    (Instr.setvls 0 0 8 0).wf = false ∧ (Instr.setvls 0 0 0 18).wf = false ∧ (Instr.vldx 0 0 0 false 7).wf = false ∧
    (Instr.vstx 0 0 1 false 7).wf = false ∧ (Instr.vstx 1 0 1 false 0).wf = false ∧ (Instr.vstn 0 0 0 false 6).wf = false := by decide

theorem test_illFormed_vectors : (Instr.vcmp 0 0 (.v 0) 0).wf = false ∧ (Instr.vcmp 1 0 (.v 0) 6).wf = false ∧
    (Instr.vcmpVs 0 0 0 0).wf = false ∧ (Instr.vfcmp 1 0 (.v 0) 7).wf = false ∧ (Instr.vfcmpVs 0 0 0 0).wf = false ∧
    (Instr.kand 0 1 1).wf = false ∧ (Instr.kor 0 1 1).wf = false ∧ (Instr.kxor 0 1 1).wf = false ∧ (Instr.knot 0 1).wf = false ∧
    (Instr.kmv 0 1).wf = false ∧ (Instr.kset 0 1).wf = false ∧ (Instr.vmatch 0 1 0).wf = false ∧ (Instr.vcvt (.v 0) 18 (.v 0) 0).wf = false ∧
    (Instr.vopt 30 0 0).wf = false ∧ (Instr.xcomp (.v 0) 0 6 0).wf = false ∧ (Instr.mstat 0 5).wf = false := by decide

theorem test_illFormed_atomics : (Instr.amoAdd 0 0 0 ⟨false, true, 6, false⟩).wf = false ∧ (Instr.amoFadd 0 0 0 ⟨false, false, 1, false⟩).wf = false ∧
    (Instr.amoMax 0 0 0 false ⟨false, true, 7, false⟩).wf = false ∧ (Instr.amoMin 0 0 0 true ⟨false, false, 2, false⟩).wf = false ∧
    (Instr.amoMaxn 0 0 0 ⟨false, true, 6, false⟩).wf = false ∧ (Instr.amoMinn 0 0 0 ⟨false, true, 6, false⟩).wf = false ∧
    (Instr.amoXchg 0 0 0 ⟨false, true, 6, false⟩).wf = false ∧ (Instr.amoCas 0 0 0 ⟨false, true, 6, false⟩).wf = false ∧
    (Instr.amoAnd 0 0 0 ⟨false, true, 6, false⟩).wf = false ∧ (Instr.amoOr 0 0 0 ⟨false, true, 6, false⟩).wf = false ∧
    (Instr.amoMaxrs 0 0 0 false ⟨false, true, 6, false⟩).wf = false ∧ (Instr.vamoAdd 2 0 2 false).wf = false ∧
    (Instr.vamoFadd 2 0 2 false).wf = false ∧ (Instr.vamoMax 2 0 2 false).wf = false ∧ (Instr.vamoMin 2 0 2 false).wf = false ∧
    (Instr.awin 0 0 4 0).wf = false ∧ (Instr.aacc 3 3 false 0).wf = false := by decide

theorem test_illFormed_system : (Instr.post 0 0 16).wf = false ∧ (Instr.wait 0 16).wf = false ∧ (Instr.lpbind 16).wf = false ∧
    (Instr.fenceAcq 6).wf = false ∧ (Instr.fenceRel 6).wf = false ∧ (Instr.fenceFull 6).wf = false ∧ (Instr.sopen 8 0 0 0 0).wf = false ∧
    (Instr.sopenR 8).wf = false ∧ (Instr.sclose 8).wf = false ∧ (Instr.swait 0 0 8).wf = false ∧ (Instr.savail 0 8).wf = false ∧
    (Instr.scancel 8).wf = false ∧ (Instr.strig 8 0 0 false).wf = false ∧ (Instr.tid 0 12).wf = false ∧ (Instr.uien 8).wf = false ∧
    (Instr.uienOff 8).wf = false ∧ (Instr.pfx 0 false 1 false).wf = false ∧ (Instr.crr 0 0x007).wf = false ∧ (Instr.crw 0 0x802).wf = false ∧
    (Instr.crs 0 0x007).wf = false ∧ (Instr.crc 0 0x007).wf = false := by decide

theorem test_illFormed_events : (Instr.hostLaunchPush 0 0x8000000000000000).wf = false ∧ (Instr.launchWindowErrClear 0 0).wf = false ∧
    (Instr.quadFailure 160).wf = false ∧ (Instr.powerTrim (.core 640) 16).wf = false ∧ (Instr.powerTrim (.core 0) 3).wf = false ∧
    (Instr.powerTrim (.quad 160) 4).wf = false ∧ (Instr.powerTrim (.quad 0) 5).wf = false := by decide

/-! Words of the spec, by family, and the instructions they stand for. -/

/-- `bne a2, a0, loop` (R282), `blt a5, a0, acarry`, `shli a6, a5, 2`, `jr a31`, the tokens, `setvl a5, a4, f32`. -/
theorem test_words_scalar : decode 0x3040FFFC = .ok (.bne 2 0 0xFFFC) ∧ decode 0x34A0000F = .ok (.blt 5 0 0x000F) ∧
    decode 0x18C50002 = .ok (.shli 6 5 2) ∧ decode 0x4C1F0000 = .ok (.jr 31) ∧ decode 0x50040000 = .ok (.tsend 4) ∧
    decode 0x50800001 = .ok (.trecv 4) ∧ decode 0x50020002 = .ok (.ksend 2) ∧ decode 0x5CA40280 = .ok (.setvl 5 4 10) := by
  refine ⟨rfl, rfl, rfl, rfl, rfl, rfl, rfl, rfl⟩

theorem test_words_vectorMemory : decode 0x60410802 = .ok (.vldx 2 1 1 false 0) ∧ decode 0x602308C2 = .ok (.vldx 1 3 1 false 6) ∧
    decode 0x60020003 = .ok (.vldz 0 2 false) ∧ decode 0x64030000 = .ok (.vst 0 3 false) ∧ decode 0x64044863 = .ok (.vstn 0 4 9 false 3) := by
  refine ⟨rfl, rfl, rfl, rfl, rfl⟩

/-- `vfadd v1, v2, v3, k3`, `vfma v2, v1, x6`, `vfcmp.gt k2, v1, x0` (R283) and words of the reference. -/
theorem test_words_vectors : decode 0x6C221980 = .ok (.vfadd (.v 1) 2 (.v 3) 3) ∧ decode 0x6C413019 = .ok (.vfmaVs 2 1 6 0) ∧
    decode 0x70410211 = .ok (.vfcmpVs 2 1 0 4) ∧ decode 0x7C4A0800 = .ok (.vcvt (.v 2) 10 (.v 1) 0) ∧
    decode 0x7C612012 = .ok (.vsclVs (.v 3) 1 4 0) ∧ decode 0x74611002 = .ok (.vperm (.v 3) 1 (.v 2) 0) ∧
    decode 0x74640007 = .ok (.vmatch 3 4 0) ∧ decode 0x7420482A = .ok (.vmv (.sq 1) (.v 9)) ∧ decode 0x7420004A = .ok (.vmv (.v 1) (.lq 0)) ∧
    decode 0x742100A6 = .ok (.vnz (.sq 1) 1 1) ∧ decode 0x75627009 = .ok (.vext 11 2 14) ∧ decode 0x7CA10003 = .ok (.vamax (.v 5) 1 0) ∧
    decode 0x74C0010B = .ok (.vrand (.v 6) 2) ∧ decode 0x81420180 = .ok (.vopt 10 2 3) := by
  refine ⟨rfl, rfl, rfl, rfl, rfl, rfl, rfl, rfl, rfl, rfl, rfl, rfl, rfl, rfl⟩

theorem test_words_examplesAndMatrices : decode 0x84A03105 = .ok (.xgate (.v 5) (.v 6) 2) ∧ decode 0x84011008 = .ok (.xclr 1 2) ∧
    decode 0x84E11003 = .ok (.xgram 7 1 (.v 2) 0) ∧ decode 0x84240002 = .ok (.xnaccSingle 4 0) ∧ decode 0x84290826 = .ok (.xcomp (.sq 1) 9 1 0) ∧
    decode 0x88A40000 = .ok (.matt 5 4) ∧ decode 0x88000042 = .ok (.mlds (.lq 0)) ∧ decode 0x88291886 = .ok (.mdrn 1 9 (.v 3) true) ∧
    decode 0x8C0001C0 = .ok (.albld (.lq 0) true true) ∧ decode 0x8C093081 = .ok (.msamp 0 9 1 2 1) ∧ decode 0x8D410002 = .ok (.mstat 10 1) := by
  refine ⟨rfl, rfl, rfl, rfl, rfl, rfl, rfl, rfl, rfl, rfl, rfl⟩

theorem test_words_atomicsAndOrder : decode 0x90A431E8 = .ok (.amoCas 5 4 6 ⟨true, false, 4, false⟩) ∧
    decode 0x94040C00 = .ok (.vamoAdd 0 4 1 true) ∧ decode 0x980428A0 = .ok (.awin 4 5 1 1) ∧ decode 0x9C042880 = .ok (.post 4 5 2) ∧
    decode 0x9DEE0003 = .ok (.barr 15 14) ∧ decode 0x9E0F0004 = .ok (.bwait 16 15) ∧ decode 0x9C011005 = .ok (.binit 1 2) ∧
    decode 0x9D070006 = .ok (.mwait 8 7 0) ∧ decode 0xA00000C2 = .ok (.fenceAcq 3) ∧ decode 0xA0000103 = .ok (.fenceRel 4) ∧
    decode 0xA0000000 = .ok .fenceSv := by
  refine ⟨rfl, rfl, rfl, rfl, rfl, rfl, rfl, rfl, rfl, rfl, rfl⟩

theorem test_words_system : decode 0xA4011080 = .ok (.sopen 0 1 2 0 1) ∧ decode 0xA8A60040 = .ok (.ejob 5 6 true) ∧
    decode 0xA8E50001 = .ok (.estat 7 5) ∧ decode 0xA8A11002 = .ok (.aemap 5 1 2) ∧ decode 0xACA00004 = .ok (.strip 5) ∧
    decode 0xAC000001 = .ok .tdone ∧ decode 0xB0A00000 = .ok (.repq 5) ∧ decode 0xB0600001 = .ok (.rsig 3) ∧ decode 0xB4000000 = .ok (.uien 0) ∧
    decode 0xB8A98000 = .ok (.pfx 2 true 9 true) ∧ decode 0xBCE0E601 = .ok (.crw 7 0x073) ∧ decode 0xC0000140 = .ok (.sys 5) ∧
    decode 0xC0000002 = .ok (.brk 0) ∧ decode 0xC4050040 = .ok (.ctxsaveLeave 5) ∧ decode 0xC4050001 = .ok (.ctxload 5) ∧
    decode 0xC4053003 = .ok (.dcwb 5 6) ∧ decode 0xC4053004 = .ok (.dcinv 5 6) := by
  refine ⟨rfl, rfl, rfl, rfl, rfl, rfl, rfl, rfl, rfl, rfl, rfl, rfl, rfl, rfl, rfl, rfl, rfl⟩

/-- Written out from R283: major 0x1A, vd, va, vb, k, qb, qd, fn; under fn[4] the last source is an x register. -/
theorem test_words_fields : decode (0b011010#6 ++ 0b00101#5 ++ 0b00110#5 ++ 0b00111#5 ++ 0b1000#4 ++ 0b0#1 ++ 0b0#1 ++ 0b00000#5) = .ok (.vadd (.v 5) 6 (.v 7) 8) ∧
    decode (0b011010#6 ++ 0b00101#5 ++ 0b00110#5 ++ 0b00111#5 ++ 0b1000#4 ++ 0b0#1 ++ 0b0#1 ++ 0b10000#5) = .ok (.vaddVs (.v 5) 6 7 8) := by
  refine ⟨rfl, rfl⟩

/-! Single steps, with the results that the spec works out. -/

def after (i : Instr) (s : State) : State :=
  match exec i s with
  | .next t => t
  | _ => State.reset
/-- Elements 0 to n − 1 of a register of the X-hart. -/
def els (w n : Nat) (t : State) (r : Reg) : List Nat := (List.range n).map fun e => (elem (vec t r) w e).toNat
def packed (w : Nat) (l : List Nat) : VReg := BitVec.ofNat 16384 (l.foldr (fun x v => x + 2 ^ w * v) 0)
def withV (l : List (Reg × VReg)) (s : State) : State :=
  onC (fun c => { c with v := l.foldl (fun v p => v.set p.1.toNat p.2 p.1.isLt) c.v }) s
def withX (l : List (Reg × Word)) (s : State) : State :=
  onC (fun c => { c with x := l.foldl (fun v p => v.set p.1.toNat p.2 p.1.isLt) c.x }) s
def withK (l : List (BitVec 4 × Mask)) (s : State) : State :=
  onC (fun c => { c with k := l.foldl (fun v p => v.set p.1.toNat p.2 p.1.isLt) c.k }) s

/-- R298's example. -/
theorem test_products : let s := withX [(1, 0x8000000000000000), (2, 2)] (small .X)
    (after (.mulh 3 1 2) s).xReg 3 = 0xFFFFFFFFFFFFFFFF ∧ (after (.mulhn 3 1 2) s).xReg 3 = 1 ∧ (after (.mul 3 1 2) s).xReg 3 = 0 := by
  decide +kernel

/-- R314's example: a byte 0x80 at the address. -/
theorem test_loads : (after (.ld 3 1 0 0) atA).aReg 3 = 0xFFFFFFFFFFFFFF80 ∧ (after (.ld 3 1 4 0) atA).aReg 3 = 0x80 := by decide +kernel

/-- R329's example. -/
theorem test_smallIntegers : let s := withV [(1, 0x80), (2, 0x03)] (len 1 0 (small .X))
    els 8 1 (after (.vmulh (.v 3) 1 (.v 2) 0) s) 3 = [0xFE] ∧
    els 8 1 (after (.vmulh (.v 3) 1 (.v 2) 0) (withV [(1, 0x80), (2, 0x03)] (len 1 4 (small .X)))) 3 = [0x01] ∧
    els 8 1 (after (.vsar (.v 3) 1 (.v 4) 0) (withV [(4, 9)] s)) 3 = [0xC0] ∧ els 8 1 (after (.vabs (.v 3) (.v 1) 0) s) 3 = [0x80] := by
  decide +kernel

/-- R338's examples: 1.0 and 2^−24 under f32; 1 + 2i times 3 + 4i under c64. -/
theorem test_vtsum : els 32 1 (after (.vtsum (.v 3) 1 (.v 2) 0) (withV [(1, 0x3F800000), (2, 0x33800000)] (len 1 10 (small .X)))) 3 = [0x33800000] := by
  decide +kernel
theorem test_complexProduct :
    els 32 2 (after (.vfmul (.v 3) 1 (.v 2) 0) (withV [(1, 0x400000003F800000), (2, 0x4080000040400000)] (len 1 16 (small .X)))) 3 =
      [0xC0A00000, 0x41200000] := by decide +kernel

/-- R311's example. -/
theorem test_masks : let s := withK [(1, 0x289), (2, 0x218), (3, 0x208), (5, 0x3FF)] (len 10 2 (small .X))
    (after (.kand 3 1 2) s).b.ctx.k.get (3 : BitVec 4).toFin = 0x208 ∧ (after (.kxor 3 1 2) s).b.ctx.k.get (3 : BitVec 4).toFin = 0x091 ∧
    (after (.kpop 9 3) s).xReg 9 = 2 ∧ (after (.kfirst 9 3) s).xReg 9 = 3 ∧
    (after (.knot 5 1) (onC (fun c => { c with xc := { c.xc with pfl := 0x802 } }) s)).b.ctx.k.get (5 : BitVec 4).toFin = 0x1F7 := by
  decide +kernel

/-- R332's example, and those of `vperm` and `vslidedn`. -/
theorem test_compress : let s := withK [(3, 0x32)] (withV [(1, packed 32 [10, 11, 12, 13, 14, 15, 16, 17]), (2, packed 32 [11, 14, 15])] (len 8 2 (small .X)))
    els 32 3 (after (.vcompress (.v 2) 1 3) s) 2 = [11, 14, 15] ∧ els 32 6 (after (.vexpand (.v 4) 2 3) s) 4 = [0, 11, 0, 0, 14, 15] ∧
    els 32 6 (after (.viota (.v 5) 3) s) 5 = [0, 0, 0, 0, 1, 2] := by decide +kernel
theorem test_permutes :
    els 32 4 (after (.vperm (.v 3) 1 (.v 2) 0) (withV [(1, packed 32 [10, 11, 12, 13]), (2, packed 32 [3, 3, 0, 9])] (len 4 2 (small .X)))) 3 =
      [13, 13, 10, 0] ∧
    els 32 8 (after (.vslidedn (.v 3) 1 6 0) (withX [(6, 3)] (withV [(1, packed 32 [0, 1, 2, 3, 4, 5, 6, 7])] (len 8 2 (small .X))))) 3 =
      [3, 4, 5, 6, 7, 0, 0, 0] := by decide +kernel

/-- R346's example: 2^−24, 2^−24 and 1.0. -/
theorem test_folds : let s := withV [(5, packed 32 [0x33800000, 0x33800000, 0x3F800000])] (len 3 10 (small .X))
    els 32 1 (after (.vfredsum (.v 3) 5 0) s) 3 = [0x3F800000] ∧ (after (.vfredsum (.v 3) 5 0) s).b.ctx.rx.fsts = 0x01 ∧
    els 32 3 (after (.vscan (.v 3) 5 0) s) 3 = [0x33800000, 0x34000000, 0x3F800001] := by decide +kernel

/-- R348's example. -/
theorem test_scaling : let s := withV [(1, packed 32 [0x40400000, 0x71800000, 0x3FC00000]),
      (2, packed 32 [0xFFFFFFFE, 200, 0xFFFFFF6B])] (len 3 10 (small .X))
    els 32 3 (after (.vscl (.v 3) 1 (.v 2) 0) s) 3 = [0x3F400000, 0x7F800000, 0x00000002] := by decide +kernel

/-- R225's example. -/
theorem test_optimiser :
    let s := onC (fun c => { c with
      xc := { c.xc with ob1 := 0x3F000000, ob2 := 0x3F400000, olr := 0x3E800000, oc1 := 0x40000000, oc2 := 0x40800000 } }) (withV [(1, 0x3F800000), (4, 0x3F800000)] (len 1 10 (small .X)))
    let t := after (.vopt 4 1 0) s
    els 32 1 t 4 = [0x3F400000] ∧ els 32 1 t 5 = [0x3F000000] ∧ els 32 1 t 6 = [0x3E800000] ∧ t.b.ctx.rx.fsts = 0 := by decide +kernel

/-- R80's example: 500.0 and 300.0 to e4m3 under a bound of 240.0. -/
theorem test_clampedConversion : let s := onC (fun c => { c with bound := 0x43700000 }) (withV [(1, packed 32 [0x43FA0000, 0x43960000])] (len 2 12 (small .X)))
    els 8 2 (after (.vcvt (.v 2) 10 (.v 1) 0) s) 2 = [0x77, 0x77] := by decide +kernel

/-- The gate of R202's table: four examples, a uniform u for each. -/
theorem test_gate :
    let ent (n : Word) : XEntry := ⟨n, 0, 0, 0⟩
    let s := onC (fun c => { c with
      xt := [ent 0x4030000000000000, ent 0x4050000000000000, ent 0x3FF0000000000000, ent 0x412E848000000000]
      xc := { c.xc with gdrop := 0x42C80000, gclip := 0x40C00000, gtau := 0x40800000, gmode := 1 } })
      (withV [(6, packed 32 [0x3F666666, 0x3F666666, 0x3DCCCCCD, 0x3E4CCCCD])] (vecs 10))
    els 32 4 (after (.xgate (.v 5) (.v 6) 0) s) 5 = [0x3F800000, 0x3F400000, 0x40800000, 0] ∧
    (after (.xgate (.v 5) (.v 6) 0) s).b.ctx.k.get (1 : BitVec 4).toFin = 7 := by decide +kernel

/-- R209's example: weights 1, 1, 2 and 4, with the thresholds and aliases it works out and Z = 8. -/
theorem test_aliasTable : let t := after (.albld (.v 1) true true) (withV [(1, packed 32 [0x3F800000, 0x3F800000, 0x40000000, 0x40800000])] (slices 1 4 10 .init))
    t.b.tab.thr = [0x800000, 0x800000, 0x800000, 0x1000000] ∧ t.b.tab.alias_ = [2, 3, 3, 3] ∧ t.b.ctx.xc.mz = 0x4020000000000000 := by
  decide +kernel

/-- R90's example: sixteen bf16 products, 1 at K = 0 and 2^−24 after it, give 1 + 2^−20. -/
theorem test_accumulate : (let g := (List.range 16).map fun k => (if k = 0 then FVal.fin false 1 0 else FVal.fin false 1 (-24), FVal.fin false 1 0)
    dotGroups .f32 8 16 0 g).1 = 0x3F800008 := by decide +kernel

/-- R144's example: 6 and 4 posted first, then 0 to 3: the frontier is 5, and 7 once 5 is posted. -/
theorem test_frontier :
    let one (p : Loop) (n : Nat) : Loop :=
      match (after (.post 1 3 15) (withX [(1, BitVec.ofNat 64 n)] (loops p))).tasks with
      | k :: _ => k.loops.getD 15 .init
      | [] => .init
    one ⟨0, []⟩ 6 = ⟨0, [(6, 7)]⟩ ∧ one ⟨0, [(6, 7)]⟩ 4 = ⟨0, [(4, 5), (6, 7)]⟩ ∧ one ⟨3, [(4, 5), (6, 7)]⟩ 3 = ⟨5, [(6, 7)]⟩ ∧
    one ⟨5, [(6, 7)]⟩ 5 = ⟨7, []⟩ := by decide +kernel

/-- R39's example: ten strips over four braids; and in deterministic mode over three. -/
theorem test_dealing : (let k : Task := { task with levels := [⟨10, 1, 2⟩], ncores := 4 }
    [0, 1, 2, 3].map (dealt k) = [(0, 2), (2, 5), (5, 7), (7, 10)]) ∧
    (let k : Task := { task with levels := [⟨10, 1, 2⟩], ncores := 3, det := true, canon := 4 }
     [0, 1, 2].map (dealt k) = [(0, 2), (2, 5), (5, 10)]) := by decide +kernel

/-- The example of `xloss` and `xclr`: eight entries and `xbase` = 6. -/
theorem test_exampleTable :
    let s := onC (fun c => { c with xc := { c.xc with xbase := 6 }, xt := .replicate 8 ⟨5, 5, 5, 0⟩ }) (withX [(1, 6), (2, 2)] (withV [(2, packed 32 [0x3F800000, 0x40000000])] (len 2 10 (small .X))))
    (after (.xloss (.v 2) 0) s).b.ctx.xt.map (·.loss) = [5, 5, 5, 5, 5, 5, 0x3F800000, 0x40000000] ∧
    (after (.xloss (.v 2) 0) (withHr s fun r => { r with vl := 3 })).b.cause = 1 ∧
    (after (.xclr 1 2) (withHr s fun r => { r with vl := 0 })).b.ctx.xt.map (·.nsq) = [5, 5, 5, 5, 5, 5, 0, 0] := by decide +kernel

/-- R2, R314: a store reaches memory in the order of its bytes when it leaves the cache. -/
theorem test_store : let t := after .fenceSv (after (.st 2 1 1 0) (onC (fun c => { c with a := c.a.set 2 0x1234 }) atA))
    t.mem.get 0x200 = 0x34 ∧ t.mem.get 0x201 = 0x12 := by decide +kernel

/-- A placed word runs at the next step; one with no row takes cause 1 (R278). -/
theorem test_placed : (match step (State.reset.withFetchWord 32 0x18C50002) with
    | .next t => t.b.ctx.pcA.toNat - bootCode == 4 && t.b.retA == 1
    | _ => false) = true ∧
    (match step (State.reset.withFetchWord 32 0) with
    | .next t => t.b.cause == 1 && t.b.epc == 0x100000
    | _ => false) = true := by decide +kernel

/-- A drain of 500.0 to e4m3, which has no infinity: the largest finite value 448 is 0x7E (R72), under the bound 100.0 it is 96, 0x6C (R80). -/
theorem test_drain_beyond : (drainEl .e4m3 .init 0 0 (.fin false 500 0) none).1 = 0x7E ∧
    (drainEl .e4m3 .init 0x42C80000 0 (.fin false 500 0) none).1 = 0x6C := by decide +kernel

/-- R17, R292: `lcore` of a boot core is all ones; a core's count runs from 0 at its start (R46). -/
theorem test_bootCore : (after (.crr 3 0x061) (onB (fun b => { b with core := 640 }) (small .A))).aReg 3 = BitVec.allOnes 64 ∧
    (after (.crr 3 0x061) (small .A)).aReg 3 = 0 := by decide +kernel

/-- R256, R259: two refused pushes set err, and signal, once. -/
theorem test_refusedPush : (after (.hostLaunchPush 0 0x308) (after (.hostLaunchPush 0 0x308) (small .A))).msix = [3] := by decide +kernel

/-- R261: a warm start after a loss of power enters service, and the expanders' bytes survive it. -/
theorem test_warmStart : 
    let s := { small .A with mem := [(0x200, 7), (2 ^ 44, 9)], mustCold := false }
    let t := after (.warmStart ⟨true, some 3, 1, State.reset.remap, true⟩) (after .powerLoss s)
    t.modState = 1 ∧ t.lmember = 3 ∧ t.mem = [(2 ^ 44, 9)] := by decide +kernel

/-- R18, R62: with port 0 failed the plane 0 of chunk 16 has the next port (log entry 62); the others keep theirs. -/
theorem test_failedPort : let s := after (.stavrekPortFailure 0) { small .A with ports := 0xFFFF }
    s.ports = 0xFFFE ∧ carrier s 16 = some 1 ∧ carrier s 17 = some 1 ∧ carrier s 15 = some 15 := by decide +kernel

/-- R159, R193: an `xbase` above 255 is cause 1 also under a copying prefix. -/
theorem test_base : (after (.xsetb 1) (onC (fun c => { c with xc := { c.xc with pfl := 0x804 } }) (withX [(1, 256)] (small .X)))).b.cause = 1 ∧
    (after (.xsetb 1) (withX [(1, 255)] (small .X))).b.ctx.xc.xbase = 255 := by decide +kernel

end Sys2Proof.Tests
end

section
/-! SUPPORT. The model's scalar arithmetic in the words of R298's and R299's tables (`aluTable`, `immTable`): equations of values, with
no state in them. -/

namespace Sys2Proof.Machine
open Sys2Proof.Claim

/-! Products. -/

theorem mul_eq_extractLsb' (x y : Word) : x * y = (x.setWidth 128 * y.setWidth 128).extractLsb' 0 64 := by
  rw [← BitVec.setWidth_eq_extractLsb' (by decide), BitVec.setWidth_mul _ _ (by decide)]
  simp

theorem extractLsb'_ofInt_high (z : Int) : (BitVec.ofInt 128 z).extractLsb' 64 64 = BitVec.ofInt 64 (z / 2 ^ 64) := by
  apply BitVec.eq_of_toNat_eq
  simp only [BitVec.extractLsb'_toNat, BitVec.toNat_ofInt, Nat.shiftRight_eq_div_pow]
  omega

theorem mulHigh_eq (x y : Word) : mulHigh x y = (x.signExtend 128 * y.signExtend 128).extractLsb' 64 64 := by
  have hp : x.signExtend 128 * y.signExtend 128 = BitVec.ofInt 128 (x.toInt * y.toInt) := (BitVec.ofInt_mul ..).symm
  rw [hp, extractLsb'_ofInt_high, mulHigh]

theorem mulHighN_eq (x y : Word) : mulHighN x y = (x.setWidth 128 * y.setWidth 128).extractLsb' 64 64 := by
  have hw (z : Word) : (z.setWidth 128).toNat = z.toNat := BitVec.toNat_setWidth_of_le (by decide)
  have hlt : x.toNat * y.toNat < 2 ^ 128 := Nat.mul_lt_mul'' (c := 2 ^ 64) (d := 2 ^ 64) x.isLt y.isLt
  apply BitVec.eq_of_toNat_eq
  rw [mulHighN, BitVec.toNat_ofNat, BitVec.extractLsb'_toNat, BitVec.toNat_mul, hw, hw, Nat.mod_eq_of_lt hlt,
    Nat.shiftRight_eq_div_pow]

/-! Quotients and remainders. -/

theorem divS_eq (x y : Word) : divS x y = if y = 0 then 0xFFFFFFFFFFFFFFFF else x.sdiv y := by
  have hq : BitVec.ofInt 64 (x.toInt.tdiv y.toInt) = x.sdiv y :=
    BitVec.eq_of_toInt_eq (by rw [BitVec.toInt_ofInt, BitVec.toInt_sdiv])
  rw [divS, hq]; rfl

theorem divN_eq (x y : Word) : divN x y = if y = 0 then 0xFFFFFFFFFFFFFFFF else x / y := by
  have hq : BitVec.ofNat 64 (x.toNat / y.toNat) = x / y := by rw [← BitVec.toNat_udiv, BitVec.ofNat_toNat, BitVec.setWidth_eq]
  rw [divN, hq]; rfl

theorem remS_eq (x y : Word) : remS x y = if y = 0 then x else x.srem y := by
  rw [remS, ← BitVec.toInt_srem, BitVec.ofInt_toInt]

theorem remN_eq (x y : Word) : remN x y = if y = 0 then x else x % y := by
  rw [remN, ← BitVec.toNat_umod, BitVec.ofNat_toNat, BitVec.setWidth_eq]

/-! Shifts, comparisons, the lesser and the greater. -/

theorem amount_eq (y : Word) : amount y = y.toNat % 64 := by
  rw [amount, BitVec.extractLsb'_toNat, Nat.shiftRight_zero]

theorem shiftLeft_sixteen (x : Word) : x <<< 16 = x * 65536 := by
  rw [BitVec.shiftLeft_eq_mul_twoPow]; rfl

theorem bit_eq_ite {c : Bool} {p : Prop} [Decidable p] (h : c = true ↔ p) : bit c = if p then 1 else 0 := by
  simp only [bit, h]

theorem not_slt_iff (x y : Word) : (!x.slt y) = true ↔ y.toInt ≤ x.toInt := by
  rw [Bool.not_eq_true', ← Bool.not_eq_true, BitVec.slt_iff_toInt_lt, not_lt]
theorem not_ult_iff (x y : Word) : (!x.ult y) = true ↔ y.toNat ≤ x.toNat := by
  rw [Bool.not_eq_true', ← Bool.not_eq_true, BitVec.ult_iff_lt, BitVec.lt_def, not_lt]

/-- Where the two compare equal they are one value, and it does not matter which is taken. -/
theorem ite_eq_ite_le {α : Type} [LinearOrder α] {c : Bool} {m n : α} {x y : Word} (hc : c = true ↔ m < n) (h : m = n → x = y) :
    (if c then x else y) = if m ≤ n then x else y := by
  rcases lt_trichotomy m n with hlt | heq | hgt
  · rw [if_pos (hc.2 hlt), if_pos hlt.le]
  · rw [h heq, ite_self, ite_self]
  · rw [if_neg (hc.not.2 hgt.not_gt), if_neg hgt.not_ge]

/-! Counts of bits: `ones` counts the bits before the first that fails its predicate. -/

theorem ones_of_first {p : Nat → Bool} {k : Nat} (hk : k ≤ 64) (hp : ∀ i < k, p i = true) (hf : k < 64 → p k = false) :
    ones p = BitVec.ofNat 64 k := by
  have hsplit : List.range 64 = List.range k ++ (List.range (64 - k)).map (k + ·) := by
    rw [← List.range_add, Nat.add_sub_cancel' hk]
  have htail : ((List.range (64 - k)).map (k + ·)).takeWhile p = [] := by
    rw [List.takeWhile_eq_nil_iff]
    intro hl
    simpa using hf (by simpa using hl)
  rw [ones, hsplit, List.takeWhile_append_of_pos (by simpa using hp), htail, List.append_nil, List.length_range]

theorem leadingZeros_eq (x : Word) : leadingZeros x = ones fun i => !x.getLsbD (63 - i) := by
  by_cases hx : x = 0
  · subst hx
    exact (ones_of_first le_rfl (by simp) (by simp)).symm
  have hn : x.toNat ≠ 0 := fun h => hx (BitVec.eq_of_toNat_eq h)
  have hlog : x.toNat.log2 < 64 := (Nat.log2_lt hn).2 x.isLt
  rw [leadingZeros, if_neg hx, ones_of_first (k := 63 - x.toNat.log2) (by omega)]
  · intro i hi
    have habove : x.toNat.testBit (63 - i) = false := Nat.testBit_lt_two_pow ((Nat.log2_lt hn).1 (by omega))
    simp [BitVec.getLsbD, habove]
  · intro _
    have hplace : 63 - (63 - x.toNat.log2) = x.toNat.log2 := by omega
    simp [BitVec.getLsbD, hplace, Nat.testBit_log2 hn]

theorem trailingZeros_eq (x : Word) : trailingZeros x = ones fun i => !x.getLsbD i := by
  rw [trailingZeros]
  cases hf : (List.range 64).find? fun i => x.getLsbD i with
  | none => exact (ones_of_first le_rfl (List.find?_range_eq_none.1 hf) (by simp)).symm
  | some k =>
    obtain ⟨hset, hmem, hbelow⟩ := List.find?_range_eq_some.1 hf
    exact (ones_of_first (List.mem_range.1 hmem).le hbelow (by simp [hset])).symm

theorem length_filter_eq_sum {α : Type} (p : α → Bool) (l : List α) : (l.filter p).length = (l.map fun i => (p i).toNat).sum := by
  induction l with
  | nil => rfl
  | cons i l ih => cases h : p i <;> simp [h, ih, Nat.add_comm]

theorem oneBits_eq (x : Word) : oneBits x = BitVec.ofNat 64 ((List.range 64).map fun i => (x.getLsbD i).toNat).sum := by
  rw [oneBits, length_filter_eq_sum]

end Sys2Proof.Machine
end

section
/-! SUPPORT. What a completed scalar instruction leaves: the words `Goes`, `Kept`, `KeptBut` and `Wrote` of the statements for `goTo` and
`setReg`, and what the shared shapes `scalar` and `branch` answer when they issue. -/

namespace Sys2Proof.Machine
open Sys2Proof.Claim

/-! The hart goes on; what else it kept. -/

theorem goes_goTo (s : State) (v : Word) : Goes s (s.goTo v) v :=
  ⟨by simp, s.pc_goTo v, s.waitOf_goTo v, s.count_goTo v, s.prefixed_goTo v⟩

theorem goes_setReg_goTo (s : State) (d : Reg) (v w : Word) : Goes s ((s.setReg d v).goTo w) w := by
  obtain ⟨hhart, hpc, hwait, hcount, hpfx⟩ := goes_goTo (s.setReg d v) w
  have hsame : (s.setReg d v).hart = s.hart := by simp
  have hold : (s.setReg d v).b.count s.hart = s.b.count s.hart := by cases s.hart <;> simp [Braid.count]
  rw [hsame] at hhart hwait hcount
  exact ⟨hhart, hpc, hwait, hcount.trans (by rw [hold]), hpfx⟩

theorem kept_goTo (s : State) (v : Word) : Kept s (s.goTo v) := by
  rcases s.hart_cases with ⟨h, hm⟩ | ⟨h, hm⟩ | h
  · rw [State.goTo_handler h hm]
    have hbit : s.b.status[5] = true := hm
    simp [Kept, unmoved, h, State.sysMode, hbit]
  · rw [State.goTo_A h hm]
    have hbit : s.b.status[5] = false := hm
    simp [Kept, unmoved, h, State.sysMode, hbit]
  · rw [State.goTo_X h]
    simp only [Kept, unmoved, h, BitVec.and_assoc, BitVec.and_self]

theorem keptBut_setReg_goTo (s : State) (d : Reg) (v w : Word) : KeptBut d s ((s.setReg d v).goTo w) := by
  rw [KeptBut, State.setReg_goTo, State.setReg_setReg]
  exact kept_goTo _ w

theorem wrote_setReg_goTo (s : State) (d : Reg) (v w : Word) : Wrote s ((s.setReg d v).goTo w) d v := fun r => by
  rw [State.reg_goTo, State.reg_setReg]

/-! What the shared shapes answer. -/

theorem issue_of_issues {who : Harts} {level : Level} {land vec : Bool} {s : State} (h : Issues who level land vec s) (k : State → Res) :
    s.issue who level land vec k = k s := by
  obtain ⟨hhart, hland, hpfx, hlevel⟩ := h
  exact State.issue_of k hhart hland hpfx hlevel

/-- The statements' trap is the model's. -/
theorem raise_eq_trapped (s : State) (h : Hart) (c : Nat) (p e : Word) : s.raise h c p e = trapped s h c p e := by
  simp [State.raise, trapped, State.replicated, standing, Option.isSome_iff_ne_none, addrMask]

theorem scalar_eq {s : State} (h : Issues .both .user true false s) (d : Reg) (f : State → Word) :
    s.scalar d f = .next ((s.setReg d (f s)).goTo (s.pc + 4)) := by
  rw [State.scalar, issue_of_issues h, Res.settle_done, State.retire, State.pc_setReg]

theorem branch_eq {s : State} (h : Issues .both .user true false s) (c : Word → Word → Bool) (a b : Reg) (o : BitVec 16) :
    branch c a b o s = .next (s.goTo (if c (s.reg a) (s.reg b) then s.pc + 4 * o.signExtend 64 else s.pc + 4)) := by
  rw [branch, issue_of_issues h, Res.settle_done, State.retire, State.target, BitVec.mul_comm, apply_ite s.goTo]

end Sys2Proof.Machine
end

section
/-! O2 (R298, R299): every row of the scalar tables is a `scalar` instruction with the row's value, and the words that the tables' rules
exclude decode to none. -/

namespace Sys2Proof.Machine
open Sys2Proof.Claim

/-- The instruction has the shape `scalar`, with destination `d` and the value `v` at `s`. -/
def Computes (s : State) (d : Reg) (i : Instr) (v : Word) : Prop := ∃ f, exec i s = s.scalar d f ∧ f s = v

theorem aluTable_computes (s : State) (d a b : Reg) : ∀ p ∈ aluTable d a b (s.reg a) (s.reg b), Computes s d p.1 p.2 := by
  simp only [aluTable, List.forall_mem_cons]
  exact ⟨
    -- add, sub, mul, mulh, mulhn
    ⟨_, rfl, rfl⟩, ⟨_, rfl, rfl⟩, ⟨_, rfl, mul_eq_extractLsb' ..⟩, ⟨_, rfl, mulHigh_eq ..⟩, ⟨_, rfl, mulHighN_eq ..⟩,
    -- div, divn, rem, remn
    ⟨_, rfl, divS_eq ..⟩, ⟨_, rfl, divN_eq ..⟩, ⟨_, rfl, remS_eq ..⟩, ⟨_, rfl, remN_eq ..⟩,
    -- and, or, xor
    ⟨_, rfl, rfl⟩, ⟨_, rfl, rfl⟩, ⟨_, rfl, rfl⟩,
    -- shl, shr, sar
    ⟨_, rfl, congrArg _ (amount_eq _)⟩, ⟨_, rfl, congrArg _ (amount_eq _)⟩, ⟨_, rfl, congrArg _ (amount_eq _)⟩,
    -- min, max, minn, maxn
    ⟨_, rfl, ite_eq_ite_le BitVec.slt_iff_toInt_lt BitVec.eq_of_toInt_eq⟩,
    ⟨_, rfl, ite_eq_ite_le BitVec.slt_iff_toInt_lt fun h => (BitVec.eq_of_toInt_eq h).symm⟩,
    ⟨_, rfl, ite_eq_ite_le BitVec.ult_iff_lt BitVec.eq_of_toNat_eq⟩,
    ⟨_, rfl, ite_eq_ite_le BitVec.ult_iff_lt fun h => (BitVec.eq_of_toNat_eq h).symm⟩,
    -- seq, sne, slt, sltn
    ⟨_, rfl, bit_eq_ite beq_iff_eq⟩, ⟨_, rfl, (bit_eq_ite bne_iff_ne).trans (ite_not ..)⟩,
    ⟨_, rfl, bit_eq_ite BitVec.slt_iff_toInt_lt⟩, ⟨_, rfl, bit_eq_ite BitVec.ult_iff_lt⟩,
    -- clz, ctz, pop
    ⟨_, rfl, leadingZeros_eq _⟩, ⟨_, rfl, trailingZeros_eq _⟩, ⟨_, rfl, oneBits_eq _⟩, List.forall_mem_nil _⟩

theorem immTable_computes (s : State) (d a : Reg) (i : BitVec 16) (n : BitVec 6) :
    ∀ p ∈ immTable d a i n (s.reg a), Computes s d p.1 p.2 := by
  simp only [immTable, List.forall_mem_cons]
  exact ⟨
    -- addi, andi, ori, xori
    ⟨_, rfl, rfl⟩, ⟨_, rfl, rfl⟩, ⟨_, rfl, rfl⟩, ⟨_, rfl, rfl⟩,
    -- shli, shri, sari
    ⟨_, rfl, rfl⟩, ⟨_, rfl, rfl⟩, ⟨_, rfl, rfl⟩,
    -- lhi, slti
    ⟨_, rfl, congrArg _ (shiftLeft_sixteen _)⟩,
    ⟨_, rfl, bit_eq_ite (by rw [BitVec.slt_iff_toInt_lt, BitVec.toInt_signExtend_of_le (by decide)])⟩, List.forall_mem_nil _⟩

/-- An instruction of that shape writes its value, goes on to the next instruction and changes nothing else. -/
theorem Computes.result {s : State} {d : Reg} {i : Instr} {v : Word} (h : Computes s d i v) (hi : Issues .both .user true false s) :
    ∃ t, exec i s = .next t ∧ Wrote s t d v ∧ Goes s t (s.pc + 4) ∧ KeptBut d s t := by
  obtain ⟨f, hexec, rfl⟩ := h
  exact ⟨_, hexec.trans (scalar_eq hi d f), wrote_setReg_goTo s d _ _, goes_setReg_goTo .., keptBut_setReg_goTo ..⟩

/-! Words that are no instruction. -/

theorem extractLsb'_extractLsb' {n : Nat} (w : BitVec n) {p k q l : Nat} (h : q + l ≤ k) :
    (w.extractLsb' p k).extractLsb' q l = w.extractLsb' (p + q) l := by
  ext i hi
  simp [Nat.add_assoc, show q + i < k by omega]

theorem decodeRaw_of_decode {w : BitVec 32} {i : Instr} (h : decode w = .ok i) : decodeRaw w = .ok i := by
  unfold decode at h
  cases hr : decodeRaw w with
  | ok j =>
    simp only [hr] at h
    split at h
    · exact h
    · cases h
  | error r => simp only [hr] at h; cases h

theorem decodeRaw_alu {w : BitVec 32} (hw : fMaj w = 0x01) : decodeRaw w = decAlu (fD w) (fA w) (fB w) (fM w) (fF w) := by
  unfold decodeRaw; rw [hw]; rfl

theorem decodeRaw_shi {w : BitVec 32} (hw : fMaj w = 0x06) : decodeRaw w = decShi (fD w) (fA w) (fB w) (fM w) (fF w) := by
  unfold decodeRaw; rw [hw]; rfl

theorem of_need {c : Bool} {i j : Instr} (h : need c i = .ok j) : c = true := by
  cases c
  · cases h
  · rfl

/-- What R298 asks of an ALU word. -/
theorem of_decAlu {d a b : Reg} {m : BitVec 5} {f : BitVec 6} {i : Instr} (h : decAlu d a b m f = .ok i) :
    m = 0 ∧ f.toNat < 26 ∧ (23 ≤ f.toNat → b = 0) := by
  unfold decAlu at h
  split at h
  · rename_i c hc
    have hf : f.toNat < 23 := (List.getElem?_eq_some_iff.1 hc).1
    exact ⟨eq_of_beq (of_need h), by omega, by omega⟩
  · split at h
    case h_4 => cases h
    all_goals
      rename_i hf
      obtain ⟨hm, hb⟩ := Bool.and_eq_true_iff.1 (of_need h)
      exact ⟨eq_of_beq hm, by omega, fun _ => eq_of_beq hb⟩

/-- What R299 asks of a word of the shift group. -/
theorem of_decShi {d a b : Reg} {m : BitVec 5} {f : BitVec 6} {i : Instr} (h : decShi d a b m f = .ok i) :
    b.extractLsb' 3 2 ≠ 3 ∧ b.extractLsb' 0 3 = 0 ∧ m = 0 := by
  unfold decShi at h
  split at h
  case h_4 => cases h
  all_goals
    rename_i hk
    obtain ⟨hb, hm⟩ := Bool.and_eq_true_iff.1 (of_need h)
    exact ⟨fun h3 => (by rw [h3] at hk; cases hk), eq_of_beq hb, eq_of_beq hm⟩

theorem alu_excluded {w : BitVec 32} (hw : fMaj w = 0x01) (hx : fM w ≠ 0 ∨ 26 ≤ (fF w).toNat ∨ (23 ≤ (fF w).toNat ∧ fB w ≠ 0))
    (i : Instr) : decode w ≠ .ok i := fun h => by
  obtain ⟨hm, hf, hb⟩ := of_decAlu ((decodeRaw_alu hw).symm.trans (decodeRaw_of_decode h))
  rcases hx with hx | hx | ⟨h23, hx⟩
  · exact hx hm
  · omega
  · exact hx (hb h23)

theorem shi_excluded {w : BitVec 32} (hw : fMaj w = 0x06) (hx : w.extractLsb' 14 2 = 3 ∨ w.extractLsb' 6 8 ≠ 0) (i : Instr) :
    decode w ≠ .ok i := fun h => by
  obtain ⟨hkind, hlow, hm⟩ := of_decShi ((decodeRaw_shi hw).symm.trans (decodeRaw_of_decode h))
  rcases hx with hx | hx
  · exact hkind ((extractLsb'_extractLsb' w (by decide)).trans hx)
  · have hfields : w.extractLsb' 6 8 = (fB w).extractLsb' 0 3 ++ fM w := by
      rw [fB, extractLsb'_extractLsb' w (by decide), fM, BitVec.extractLsb'_append_extractLsb'_eq_extractLsb' (by decide)]
    exact hx (by rw [hfields, hlow, hm]; rfl)

/-- Settles O2: each row's instruction is `scalar` with the row's value, and the decoder asks of a word what the rules ask. -/
theorem scalarResults : Obligations.ScalarResults :=
  ⟨fun s d a b hi p hp => (aluTable_computes s d a b p hp).result hi,
    fun s d a i n hi p hp => (immTable_computes s d a i n p hp).result hi,
    fun _ hw hx => alu_excluded hw hx, fun _ hw hx => shi_excluded hw hx⟩

end Sys2Proof.Machine
end

section
/-! O3 (R302, R310): every row of the branch table has the shape `branch`; `jr` checks its target before it goes. -/

namespace Sys2Proof.Machine
open Sys2Proof.Claim

theorem branchTable_branches (s : State) (a b : Reg) (o : BitVec 16) : ∀ p ∈ branchTable a b o (s.reg a) (s.reg b),
    ∃ c, exec p.1 s = branch c a b o s ∧ (c (s.reg a) (s.reg b) = true ↔ p.2) := by
  simp only [branchTable, List.forall_mem_cons]
  exact ⟨
    ⟨fun x y => x == y, rfl, beq_iff_eq⟩, ⟨fun x y => x != y, rfl, bne_iff_ne⟩,
    ⟨fun x y => x.slt y, rfl, BitVec.slt_iff_toInt_lt⟩, ⟨fun x y => !x.slt y, rfl, not_slt_iff ..⟩,
    ⟨fun x y => x.ult y, rfl, BitVec.ult_iff_lt⟩, ⟨fun x y => !x.ult y, rfl, not_ult_iff ..⟩, List.forall_mem_nil _⟩

theorem branch_result {s : State} (hi : Issues .both .user true false s) (a b : Reg) (o : BitVec 16) (p : Instr × Prop)
    (hp : p ∈ branchTable a b o (s.reg a) (s.reg b)) :
    ∃ t, exec p.1 s = .next t ∧ Kept s t ∧ (p.2 → Goes s t (s.pc + 4 * o.signExtend 64)) ∧ (¬ p.2 → Goes s t (s.pc + 4)) := by
  obtain ⟨c, hexec, hc⟩ := branchTable_branches s a b o p hp
  refine ⟨_, hexec.trans (branch_eq hi c a b o), kept_goTo .., fun ht => ?_, fun hn => ?_⟩
  · rw [if_pos (hc.2 ht)]; exact goes_goTo ..
  · rw [if_neg (hc.not.2 hn)]; exact goes_goTo ..

theorem exec_jmp {s : State} (hi : Issues .both .user true false s) (o : BitVec 26) :
    exec (.jmp o) s = .next (s.goTo (s.pc + 4 * o.signExtend 64)) := by
  show execJmp o s = _
  rw [execJmp, issue_of_issues hi, Res.settle_done, State.target, BitVec.mul_comm]

theorem exec_jal {s : State} (hi : Issues .both .user true false s) (o : BitVec 26) :
    exec (.jal o) s = .next ((s.setReg 31 (s.pc + 4)).goTo (s.pc + 4 * o.signExtend 64)) := by
  show execJal o s = _
  rw [execJal, issue_of_issues hi, Res.settle_done, State.target, BitVec.mul_comm]

theorem exec_jr {s : State} (hi : Issues .both .user true false s) (a : Reg) :
    exec (.jr a) s = .next (if (s.reg a).extractLsb' 0 2 ≠ 0 then trapped s s.hart 3 s.pc (s.reg a)
      else if (s.reg a).extractLsb' 57 7 ≠ 0 then trapped s s.hart 6 s.pc (s.reg a) else s.goTo (s.reg a)) := by
  show execJr a s = _
  rw [execJr, issue_of_issues hi]
  dsimp only
  split_ifs <;> simp only [Res.settle_trap, Res.settle_done, raise_eq_trapped]

/-- Settles O3: a branch goes where its condition says, and a jump where its operand says unless `jr` finds its target bad. -/
theorem branchesAndJumps : Obligations.BranchesAndJumps := by
  refine ⟨fun s a b o hi p hp => branch_result hi a b o p hp, fun s hi => ⟨fun o => ?_, fun o => ?_, fun a hlow hhigh => ?_,
    fun a hlow => ?_, fun a hlow hhigh => ?_⟩⟩
  · exact ⟨_, exec_jmp hi o, goes_goTo .., kept_goTo ..⟩
  · exact ⟨_, exec_jal hi o, goes_setReg_goTo .., wrote_setReg_goTo s 31 _ _, keptBut_setReg_goTo ..⟩
  · refine ⟨_, exec_jr hi a, ?_⟩
    rw [if_neg (not_not.2 hlow), if_neg (not_not.2 hhigh)]
    exact ⟨goes_goTo .., kept_goTo ..⟩
  · rw [exec_jr hi a, if_pos hlow]
  · rw [exec_jr hi a, if_neg (not_not.2 hlow), if_pos hhigh]

end Sys2Proof.Machine
end
